-- ==== Sys2Proof/Word.lean ====
section
/-! DEFINITION. The word types of the AJ-9600 and their plainest arithmetic. -/

set_option Elab.async false

namespace Sys2Proof

/-- A byte (R7). -/
abbrev Byte := BitVec 8
/-- A 32-bit instruction word, v lane element or p register (R63, R320). -/
abbrev Word := BitVec 32
/-- A scalar register (R63). -/
abbrev DWord := BitVec 64
/-- A buffer record register (R63, R115). -/
abbrev Rec := BitVec 128
/-- A guest virtual address or code address (R136). -/
abbrev VAddr := BitVec 57

end Sys2Proof
end

