-- ==== Sys2Proof/Config.lean ====
section
/-! DEFINITION. Constants of the AJ-9600, and the values the specification leaves open, as constants without a body. -/

set_option Elab.async false

namespace Sys2Proof.Config

/-- Cores of the package (R3): 4 dies of 8 clusters of 12 cores. -/
def cores : Nat := 384
/-- Cores of a die. -/
def coresPerDie : Nat := 96
/-- Cores of a cluster. -/
def coresPerCluster : Nat := 12
/-- Virtual functions (R6); the physical function is number 1024. -/
def vfs : Nat := 1024
/-- The physical function's number among the functions. -/
def pf : Nat := 1024
/-- The key domain of the PF (R248). -/
def pfDomain : Nat := 1280
/-- The key domain of the management controller (R248). -/
def mgmtDomain : Nat := 1281
/-- Partitions (R38). -/
def partitions : Nat := 24
/-- MODE at launch and at handler entry (R63, R69, R278). -/
def launchMode : Word := 0x000022F0#32
/-- Bytes of one die's bonded DRAM (R485). -/
def dramBytes : Nat := 0xC00000000
/-- Distance between the DRAM ranges of two dies (R485). -/
def dramStride : Nat := 0x1000000000
/-- First SPA of second-tier memory (R485). -/
def tierBase : Nat := 0x10000000000
/-- Distance between two CXL ports' ranges (R485). -/
def tierStride : Nat := 0x4000000000
/-- Live tasks the HTS holds (R40). -/
def htsTasks : Nat := 65536
/-- Timestamp at which the package rebases (R182). -/
def rebaseAt : Nat := 2 ^ 40 - 2 ^ 24

/-- Choices the specification leaves to the device (which agent goes next, which of differing span leaves is used), one for each draw. Log entries 1 and 8. -/
opaque freeChoice : Nat → Nat
/-- Free words, one for each draw: fields a reduced save leaves unspecified (log entry 9). -/
opaque freeWord : Nat → BitVec 64
/-- A new tile's bytes: serial number of the tile and byte index (log entry 4). -/
opaque tileByte : Nat → Nat → Byte
/-- The hash that chooses a level-2 tile's slice: VF, task name, block's linear index and handle (R132, log entry 20). -/
opaque tileSlice : Nat → Nat → Nat → Nat → Nat
/-- Results of the approximate functions inside the bounds of R100: function code and operand (log entry 7). -/
opaque approx : Nat → Word → Word
/-- The 256-bit keys the management controller draws, by draw number (R249, log entry 6). -/
opaque keyDraw : Nat → BitVec 256
/-- Package serial number (R246, log entry 6). -/
opaque packageId : BitVec 64
/-- The signature of a health record's bytes 0x000 to 0x4CF (R246, log entry 6). -/
opaque healthSignature : BitVec 9856 → BitVec 768
/-- Outcome of verifying a firmware image, by attempt: 0 starts, 1 bad signature, other rolled back (R317, log entry 6). -/
opaque firmwareVerdict : Nat → Nat
/-- Security version in fuses (R317, log entry 6). -/
opaque fuseSvn : BitVec 16
/-- How the data pages of second-tier memory fall on the eight CXL ports (R317, log entry 6). -/
opaque tierFree : Nat → Nat
/-- Data pages of second-tier memory, 4 KiB each: four fifths of 1,536 GB, since the side bands take a fifth (R1, R485, log entry 73). -/
def tierTotal : Nat := 1536 * 10 ^ 9 / 5 * 4 / 4096
/-- Pages that port k may take at most: its range of R485. -/
def tierMost : Nat := 2 ^ 26
/-- Data pages behind the ports from k on, when r pages are left for them and n ports after port k. -/
def tierDeal : Nat → Nat → Nat → List Nat
  | 0, _, r => [r]
  | n + 1, k, r =>
    let lo := r - (n + 1) * tierMost
    let x := lo + tierFree k % (min tierMost r + 1 - lo)
    x :: tierDeal n (k + 1) (r - x)
/-- Data pages of second-tier memory behind CXL port k; the eight ports' sum is `tierTotal` (R1). -/
def tierPages (k : Nat) : Nat := ((tierDeal 7 0 tierTotal)[k]?).getD 0
/-- The 64-bit ECC word over a sector's ciphertext, tag and SPA[51:6] (R255, log entry 75). -/
opaque eccWord : BitVec 512 → BitVec 4 → BitVec 46 → BitVec 64
/-- The reserved poison word (R255, log entry 75). -/
opaque poisonWord : BitVec 64
/-- Frame of the carve-out at which the management domain's tree region begins (R259, log entry 76). -/
opaque mgmtTree : Nat
/-- A table word that stands in another package's memory: draw number and SPA (R140, log entry 39). -/
opaque remoteTable : Nat → Nat → BitVec 64
/-- BAR0 offset of a block of a function, in 4 KiB units (R292, log entry 74). -/
opaque capOffset : Nat → Nat → BitVec 20
/-- Size of a block of a function in 4 KiB units (R292, log entry 74). -/
opaque capSize : Nat → Nat → BitVec 24
/-- Room left after the capability entry of a block of a function, in 16-byte units (R292, log entry 74). -/
opaque capGap : Nat → Nat → BitVec 3

end Sys2Proof.Config
end

