-- ==== Sys2Proof/Syntax.lean ====
section
/-! DEFINITION. The instructions of Finiraide and the events of the device: one constructor per row of the opcode table.

Register names, queue names and field values are natural numbers, with their ranges in `WellFormed`.
Control-transfer offsets and signed immediates are integers (R324). -/

set_option Elab.async false
namespace Sys2Proof

/-- COND of `bs` (R327, R359). -/
inductive BsCond where
  | z | nz | lt | ge | le | gt
  deriving DecidableEq, Repr

/-- COND of `vcmp` (R327, R453). -/
inductive VCond where
  | eq | ne | lt | le | gt | ge | ord | unord
  deriving DecidableEq, Repr

/-- The condition of `scmp` (R328). -/
inductive SCond where
  | eq | ne | lt | le | gt | ge | ltu | leu | gtu | geu
  deriving DecidableEq, Repr

/-- Operation of `vred` and `vscan` (R327). -/
inductive RedOp where
  | add | min | max | and | or | xor
  deriving DecidableEq, Repr

/-- Operation of `atom`, `tatom` and `atomu` (R329). -/
inductive AtomOp where
  | add | min | max | and | or | xor | exch | cas
  deriving DecidableEq, Repr

/-- Operation of `vvote` (R327). -/
inductive VoteOp where
  | all | any | ballot
  deriving DecidableEq, Repr

/-- Element type, MODE.ET (R69). -/
inductive ElemType where
  | i32 | n32 | f32 | bf16x2 | f16x2 | i16x2 | i8x4 | n8x4 | f64 | i64 | n64 | e4m3x4 | e5m2x4
  deriving DecidableEq, Repr

/-- Scope of `fence` and `fence.sc` (R165). -/
inductive Scope where
  | block | gang | die | package | system
  deriving DecidableEq, Repr

/-- The fields of a `cpy` and of its command word (R206). -/
structure CpyArgs where
  vsrc : Nat
  vdst : Nat
  bsrc : Nat
  bdst : Nat
  size : Nat
  conv : Nat
  rnd : Nat
  sat : Bool
  queue : Nat
  done : Nat
  scont : Nat
  stile : Bool
  dtile : Bool
  deriving DecidableEq, Repr

/-- The fields of an `rwp` and of its literal (R281). -/
structure RwpArgs where
  sgrp : Nat
  vgrp : Nat
  roff : Int
  vmask : Nat
  smask : Nat
  deriving DecidableEq, Repr

/-- The access that a request carries to the line it names (R173, R306): the format of a packet is not in the spec (log entry 39). -/
structure FlitAcc where
  /-- 0 load, 1 store, 2 atomic. -/
  kind : Nat
  op : AtomOp
  et : Nat
  width : Nat
  /-- Lane, byte offset in the line, operand, comparand. -/
  lanes : List (Nat × Nat × Nat × Nat)
  /-- Tag that a KIND 2 store sets (R123). -/
  tag : Option Nat
  deriving DecidableEq, Repr

/-- One flit or packet of the scale-up fabric as a port receives it (R306). -/
structure Flit where
  src : Nat
  dest : Nat
  /-- Partition key of a request (R309). -/
  key : Nat
  /-- 0 class-0 request, 1 class-0 response, 2 adaptive request, 3 adaptive response, 4 ticket request, 5 ticket grant, 6 link-loss message. -/
  chan : Nat
  /-- SPA of a window access on this package, and the bytes a store writes there. -/
  addr : Nat
  bytes : List Nat
  /-- Timestamp the requesting agent carries. -/
  pts : Nat
  /-- The request that a response or refusal answers, in the source's numbering; the cause 6, 7 or 8 of a refusal, or the trap code of the check that the read sectors fail at their home (R254, R255), or 0. -/
  reqId : Nat
  refused : Nat
  /-- What a request does there, where it is more than a load or a store of `bytes` at `addr`. -/
  acc : Option FlitAcc
  deriving DecidableEq, Repr

/-- One constructor per row of the opcode table. Operands of instructions stand in the order of the assembly form, with the lookahead count `la` last.
Operands of events name the unit the event belongs to. -/
inductive Instr where
  /-- No operation. (R391) -/
  | nop
  /-- Retires the issuing path's active lanes; when no lane is left live the warp exits and returns its allotment. (R363) -/
  | exit
  /-- Puts the issuing path to sleep and raises each pts[d] by LEASE + 1. (R462) -/
  | yield
  /-- Raises SOFT with XADDR taken from s[SA]. (R436) -/
  | trap (a : Nat)
  /-- Stops the warp for the debugger, or traps BREAK when debugging is disabled. (R358) -/
  | brkpt
  /-- Returns from a trap handler, restores MODE and FMT and releases the other path. (R279) -/
  | eret (a : Nat)
  /-- Marks the warp's rewind point with its named live registers and recipe, or ends recipe mode. (R409) -/
  | rwp (r : RwpArgs)
  /-- Reconverges a divergent region: pops serial entries or merges the two top paths. (R80) -/
  | join
  /-- Sets PC to CODEVA + s[SA]. (R405) -/
  | ret (a : Nat)
  /-- Jumps to CODEVA + s[SA]. (R366) -/
  | jmpr (a : Nat)
  /-- Sets the warp's helper bit. (R403) -/
  | qhelpOn
  /-- Clears the warp's helper bit. (R403) -/
  | qhelpOff
  /-- Branches by a signed 24-bit word offset. (R353) -/
  | bra (off : Int)
  /-- Writes the return offset to s63 and branches. (R353) -/
  | call (off : Int)
  /-- Branches when s[SA] meets a signed condition against zero. (R359) -/
  | bs (c : BsCond) (a : Nat) (off : Int)
  /-- Divergent vector branch on a predicate, with a reconvergence PC. (R78) -/
  | vbr (p : Nat) (off rc : Int)
  /-- Multi-way divergent branch on per-lane case bytes, through a jump table. (R79) -/
  | vswitch (n va sb : Nat) (table : List Int)
  /-- Writes a MODE field, or clears FPFLAGS bits, from an immediate or literal. (R382) -/
  | mode (sel val : Nat)
  /-- Writes a MODE field, or clears FPFLAGS bits, from a scalar register. (R382) -/
  | modex (sel a : Nat)
  /-- Reads a special register into a scalar register. (R419) -/
  | sregS (d id : Nat)
  /-- Reads a special register into a v register of each acting lane. (R419) -/
  | sregV (d id : Nat)
  /-- Writes the path's FMT from s[SA]. (R376) -/
  | mfmt (a : Nat)
  /-- Switches the warp to a role of the role table, growing or shrinking its v allotment. (R23) -/
  | role (n : Nat)
  /-- Per-lane add. (R445) -/
  | vadd (d a b : Nat)
  /-- Per-lane subtract. (R445) -/
  | vsub (d a b : Nat)
  /-- Per-lane multiply. (R445) -/
  | vmul (d a b : Nat)
  /-- Per-lane minimum. (R445) -/
  | vmin (d a b : Nat)
  /-- Per-lane maximum. (R445) -/
  | vmax (d a b : Nat)
  /-- Fused a × b + d, rounded once. (R445) -/
  | vfma (d a b : Nat)
  /-- Fused a × b − d, rounded once. (R445) -/
  | vfms (d a b : Nat)
  /-- Per-lane divide. (R445) -/
  | vdiv (d a b : Nat)
  /-- Bitwise AND. (R445) -/
  | vand (d a b : Nat)
  /-- Bitwise OR. (R445) -/
  | vor (d a b : Nat)
  /-- Bitwise XOR. (R445) -/
  | vxor (d a b : Nat)
  /-- Per-element shift left. (R445) -/
  | vshl (d a b : Nat)
  /-- Per-element shift right, arithmetic or logical by type. (R445) -/
  | vshr (d a b : Nat)
  /-- High half of the exact product. (R445) -/
  | vmulhi (d a b : Nat)
  /-- Packed dot product accumulated into vD. (R446) -/
  | vdot4 (d a b : Nat)
  /-- Per-lane select by the guard predicate. (R447) -/
  | vsel (d a b : Nat)
  /-- Absolute value. (R443) -/
  | vabs (d a : Nat)
  /-- Negation. (R443) -/
  | vneg (d a : Nat)
  /-- Bitwise complement. (R443) -/
  | vnot (d a : Nat)
  /-- Approximate reciprocal. (R100) -/
  | vrcp (d a : Nat)
  /-- Approximate reciprocal square root. (R100) -/
  | vrsq (d a : Nat)
  /-- Correctly rounded square root. (R443) -/
  | vsqrt (d a : Nat)
  /-- Approximate base-2 exponential. (R100) -/
  | vexp2 (d a : Nat)
  /-- Approximate base-2 logarithm. (R100) -/
  | vlog2 (d a : Nat)
  /-- Approximate sine. (R100) -/
  | vsin (d a : Nat)
  /-- Approximate cosine. (R100) -/
  | vcos (d a : Nat)
  /-- Population count per element. (R443) -/
  | vpopc (d a : Nat)
  /-- Leading-zero count per element. (R443) -/
  | vclz (d a : Nat)
  /-- Register copy. (R443) -/
  | vmov (d a : Nat)
  /-- Converts a group of elements from MODE.ET to the target type. (R455) -/
  | vcvt (t : ElemType) (d a : Nat)
  /-- Bit-field extract. (R452) -/
  | vbfe (d a b : Nat)
  /-- Bit-field insert. (R452) -/
  | vbfi (d a b : Nat)
  /-- Moves a sign-extended 8-bit immediate into vD. (R457) -/
  | vmovi (d : Nat) (imm : Int)
  /-- Moves a 32-bit literal into vD. (R457) -/
  | vmoviLiteral (d lit : Nat)
  /-- Per-lane compare into a predicate register. (R454) -/
  | vcmp (c : VCond) (p a b : Nat)
  /-- Predicate AND. (R392) -/
  | pand (d a b : Nat)
  /-- Predicate OR. (R392) -/
  | por (d a b : Nat)
  /-- Predicate XOR. (R392) -/
  | pxor (d a b : Nat)
  /-- Predicate NOT. (R392) -/
  | pnot (d a : Nat)
  /-- Moves the low 32 bits of an s register into a p register. (R392) -/
  | pmovPS (d sa : Nat)
  /-- Moves a p register, zero-extended, into an s register. (R392) -/
  | pmovSP (sd a : Nat)
  /-- Counts the set bits of a p register into an s register. (R392) -/
  | pcnt (sd a : Nat)
  /-- Writes the index of the lowest set bit of a p register, or all ones when none is set. (R392) -/
  | pffs (sd a : Nat)
  /-- Copies one p register to another. (R392) -/
  | pmovPP (d a : Nat)
  /-- Lane shuffle by per-lane index. (R458) -/
  | vshflIdx (d a b : Nat)
  /-- Lane shuffle up by k. (R458) -/
  | vshflUp (d a k : Nat)
  /-- Lane shuffle down by k. (R458) -/
  | vshflDown (d a k : Nat)
  /-- Lane shuffle by XOR with k. (R458) -/
  | vshflXor (d a k : Nat)
  /-- Broadcasts one lane's register to the acting lanes. (R449) -/
  | vbcast (d a lane : Nat)
  /-- Reduces the contributions across lanes, with a sum rounded once. (R449) -/
  | vred (op : RedOp) (d a : Nat)
  /-- Inclusive or exclusive prefix across lanes. (R450) -/
  | vscan (op : RedOp) (excl : Bool) (d a : Nat)
  /-- all, any or ballot of a predicate over the acting lanes, into an s register. (R451) -/
  | vvote (op : VoteOp) (d a : Nat)
  /-- Swizzle within each quad. (R399) -/
  | qswz (d a sel : Nat)
  /-- Broadcast within each quad. (R399) -/
  | qbcast (d a k : Nat)
  /-- Reads one lane's register into an s register. (R456) -/
  | vget (d a lane : Nat)
  /-- Writes an s register into one lane's register. (R456) -/
  | vput (d a lane : Nat)
  /-- Scalar add. (R413) -/
  | sadd (d a b : Nat)
  /-- Scalar subtract. (R413) -/
  | ssub (d a b : Nat)
  /-- Scalar multiply, low 64 bits. (R413) -/
  | smul (d a b : Nat)
  /-- Scalar AND. (R413) -/
  | sand (d a b : Nat)
  /-- Scalar OR. (R413) -/
  | sor (d a b : Nat)
  /-- Scalar XOR. (R413) -/
  | sxor (d a b : Nat)
  /-- Scalar shift left. (R413) -/
  | sshl (d a b : Nat)
  /-- Scalar logical shift right. (R413) -/
  | sshr (d a b : Nat)
  /-- Scalar arithmetic shift right. (R413) -/
  | sshrA (d a b : Nat)
  /-- Signed scalar minimum. (R413) -/
  | smin (d a b : Nat)
  /-- Signed scalar maximum. (R413) -/
  | smax (d a b : Nat)
  /-- Unsigned scalar minimum. (R413) -/
  | sminU (d a b : Nat)
  /-- Unsigned scalar maximum. (R413) -/
  | smaxU (d a b : Nat)
  /-- Scalar move. (R413) -/
  | smov (d a : Nat)
  /-- Scalar compare; writes 1 or 0. (R413) -/
  | scmp (c : SCond) (d a b : Nat)
  /-- Moves a sign-extended 14-bit immediate into s[SD]. (R417) -/
  | smovi (d : Nat) (imm : Int)
  /-- Writes a zero-extended 32-bit literal into s[SD]. (R416) -/
  | sliLo (d lit : Nat)
  /-- Writes a 32-bit literal into the upper half of s[SD]. (R416) -/
  | sliHi (d lit : Nat)
  /-- Per-lane load through a buffer record. (R370) -/
  | ld (d b i la : Nat)
  /-- Per-lane store through a buffer record. (R422) -/
  | st (b i src la : Nat)
  /-- Per-lane global atomic, with its operation in the literal word. (R348) -/
  | atom (op : AtomOp) (d b i vc : Nat) (nd : Bool) (la : Nat)
  /-- Uniform load into an s register. (R372) -/
  | ldu (a b c la : Nat)
  /-- Uniform store from an s register. (R424) -/
  | stu (b c a la : Nat)
  /-- Uniform global atomic on one access. (R352) -/
  | atomu (op : AtomOp) (a b c la : Nat)
  /-- Prefetches lines into L2 and L1 without any program-visible effect. (R396) -/
  | pf (b i la : Nat)
  /-- Raises page requests for the non-resident pages of the acting lanes. (R148) -/
  | pgreq (b i la : Nat)
  /-- Raises page requests and sleeps until they are resolved. (R148) -/
  | pgreqY (b i la : Nat)
  /-- Writes a buffer record from two s registers. (R356) -/
  | brec (d a b la : Nat)
  /-- Writes a narrowed record derived from another b register. (R356) -/
  | brecr (d a c la : Nat)
  /-- Orders the warp's earlier accesses at a scope. (R165) -/
  | fence (sc : Scope) (la : Nat)
  /-- Fence followed by the SC clock join. (R166) -/
  | fenceSc (sc : Scope) (la : Nat)
  /-- Orders later copy-queue entries after earlier ones across the named queues. (R168) -/
  | qfence (m la : Nat)
  /-- Waits for the earlier entries of the named copy queues. (R168) -/
  | qwait (m la : Nat)
  /-- Window acquire: waits for the warp's earlier loads from window W. (R460) -/
  | wacq (n la : Nat)
  /-- Window release: waits until earlier window stores and copies to W are performed. (R460) -/
  | wrel (n la : Nat)
  /-- Per-lane tile load. (R434) -/
  | tld (d h i la : Nat)
  /-- Per-lane tile store. (R434) -/
  | tst (h i src la : Nat)
  /-- Per-lane tile atomic. (R431) -/
  | tatom (op : AtomOp) (d h i vc : Nat) (nd : Bool) (la : Nat)
  /-- Allocates a tile and writes the handle or a failure status. (R426) -/
  | talloc (d a la : Nat)
  /-- Waits for users of the tile, then releases the handle. (R427) -/
  | tfree (a la : Nat)
  /-- Returns a tile's descriptor. (R428) -/
  | tinfo (d h la : Nat)
  /-- Arrives at a named barrier and waits for its completion. (R342) -/
  | bar (n k : Nat)
  /-- Arrives at the gang barrier and waits for its completion. (R342) -/
  | gbar
  /-- Counts an arrival at a named barrier without waiting. (R342) -/
  | arrive (n k : Nat)
  /-- Checks and enqueues a copy-engine entry. (R360) -/
  | cpy (c : CpyArgs)
  /-- Binds a stream queue to a stream record held in a tile. (R216) -/
  | sattach (n a b la : Nat)
  /-- Unbinds a stream queue and discards its entries. (R400) -/
  | qdrop (n la : Nat)
  /-- Pops one stream-queue entry into vD. (R218) -/
  | qpop (d n : Nat)
  /-- Matrix multiply-accumulate from one B slot. (R378) -/
  | mma (a b la : Nat)
  /-- Grouped matrix multiply-accumulate with a row-count table. (R378) -/
  | mmag (a b c la : Nat)
  /-- Sparse matrix multiply-accumulate with a metadata tile. (R378) -/
  | mmas (a c la : Nat)
  /-- Loads a B-stage slot from a tile. (R375) -/
  | mbld (a la : Nat)
  /-- Loads an upper B-stage slot of the pair. (R375) -/
  | mbldPair (a la : Nat)
  /-- Writes the accumulator back to a tile or to memory, with scales. (R389) -/
  | mwb (a b c la : Nat)
  /-- Quantises a bf16 tile to fp8, with row scales and a duplication map. (R387) -/
  | mqnt (a b c la : Nat)
  /-- Tries to make the block hold the dovetail pair. (R201) -/
  | mpair (d la : Nat)
  /-- Releases the pair and discards the upper slots. (R384) -/
  | munpair (la : Nat)
  /-- Posts a task record from a tile to the HTS. (R439) -/
  | tskpost (d h o la : Nat)
  /-- Decrements a task's dependence counter. (R439) -/
  | tskdec (d n k la : Nat)
  /-- Increments a task's dependence counter. (R439) -/
  | tskadd (d n k la : Nat)
  /-- Queries a task's state and counter. (R439) -/
  | tskq (d n la : Nat)
  /-- Folds s[SA] into VS. (R227) -/
  | sigadd (a : Nat)
  /-- A quarter's issue slot: picks a VF by deficit counters and a path by priority class. (R55) -/
  | issueSlot (core quarter : Nat)
  /-- A VF Ready for 4,096 clocks without issuing is taken next. (R55) -/
  | issueVfPromote (core quarter vf : Nat)
  /-- A path Ready for 1,024 clocks without issuing is treated as class 0. (R56) -/
  | issuePathPromote (wid : Nat) (pathB : Bool)
  /-- At each 256-clock round, weight changes take effect and the check-run reservation restarts. (R55) -/
  | issueRoundBoundary (core quarter : Nat)
  /-- The oldest Role-wait warp is granted once the free share covers its need. (R24) -/
  | roleGrant (wid : Nat)
  /-- A yielding path becomes Ready after another path issues, or after 64 clocks. (R462) -/
  | yieldWake (wid : Nat) (pathB : Bool)
  /-- The die's arbiter grants a token, at most 8 per 32-clock window. (R61) -/
  | startTokenGrant (die : Nat)
  /-- A core returns to rest after 256 clocks with no matrix operation in progress or waiting. (R60) -/
  | coreRest (core : Nat)
  /-- The head matrix-queue entry performs its operation as one indivisible step. (R198) -/
  | matrixQueueStep (core : Nat)
  /-- The copy engine performs one line transfer of the next queue in the fixed rotation. (R210) -/
  | copyLineTransfer (core : Nat)
  /-- A copy entry completes and its DONE action fires. (R210) -/
  | copyEntryComplete (bid q : Nat)
  /-- A stopping cause stops the entry, faults the queue and ends the task. (R211) -/
  | copyEntryStop (bid q : Nat)
  /-- The stream engine fills a free entry buffer of a bound queue. (R217) -/
  | streamFetch (wid q : Nat)
  /-- A line request is served at its home slice: lease, store or atomic, with timestamps. (R176) -/
  | homeSliceRequest (id : Nat)
  /-- A store acknowledgement reaches the agent, which raises its pts. (R176) -/
  | storeAck (id : Nat)
  /-- Dirty bytes are written back, the counters bumped and the sector sealed. (R253) -/
  | writeBack (line : Nat)
  /-- A die starts switching between lease and directory mode. (R184) -/
  | directoryModeSwitch (die cause : Nat)
  /-- A mode switch completes once L1 copies are invalidated. (R184) -/
  | directorySwitchDone (die : Nat)
  /-- A nested walk ends with a translation, INVALID or NONRES. (R140) -/
  | walkComplete (core vf va : Nat)
  /-- The reporting port writes one ring record, chosen by deficit weights. (R157) -/
  | reportRecordWrite
  /-- A function with a record waiting 4,096 record slots is served next. (R157) -/
  | reportFnPromote (fn : Nat)
  /-- Writing 1 to POST snapshots STAGE and starts validation. (R49) -/
  | post (vf : Nat)
  /-- Validation of a post completes and CODE, SEQ and BUSY are updated. (R42) -/
  | taskPostValidated (vf : Nat)
  /-- A hit task retires once its jig-queue copies complete. (R272) -/
  | jigHitRetire (vf name : Nat)
  /-- The distributor places the highest-ranked unit that fits. (R50) -/
  | blockPlace (part : Nat)
  /-- A gang's blocks start on a gang window within 16 cycles. (R52) -/
  | gangStart (part : Nat)
  /-- After 4,096 cycles without a window, the distributor names a target window. (R53) -/
  | gangTargetWindow (part : Nat)
  /-- A block whose warps exited and whose accesses completed leaves Resident. (R364) -/
  | blockComplete (bid : Nat)
  /-- The tenon run starts on another core after the hold and 4,096 clocks. (R237) -/
  | tenonStart (bid : Nat)
  /-- The tenon run ends; signatures are compared and set M is released or voting starts. (R239) -/
  | tenonEnd (bid : Nat)
  /-- The dowel run starts on a third core. (R237) -/
  | dowelStart (bid : Nat)
  /-- The dowel run ends and the vote releases a set or ends in CHECK. (R239) -/
  | dowelEnd (bid : Nat)
  /-- A check run waiting 16,384 clocks for a core makes the distributor pre-empt a block. (R238) -/
  | checkRoomPreempt (part : Nat)
  /-- A check run in Role-wait for 2^20 clocks diverges. (R407) -/
  | checkRoleTimeout (wid : Nat)
  /-- A set Held or Voting for AGELIM × 2^16 clocks is released unverified. (R243) -/
  | clampAgeLimit (bid : Nat)
  /-- When CLOCK mod 2^36 = 0, every non-zero demerit count decreases by 1. (R241) -/
  | demeritDecay
  /-- The fleet manager requests a signed health record. (R246) -/
  | healthRecordRequest
  /-- A run-on warp without a point is saved full at T + 2,048. (R286) -/
  | preemptRunonTimeout (wid : Nat)
  /-- Once every warp has stopped, the block's state is written to its context area and it is Saved. (R286) -/
  | preemptSaveDone (bid : Nat)
  /-- A SLICE write pre-empts every resident block of the VF. (R295) -/
  | sliceEnd (part vf : Nat)
  /-- Write of a partition's CLUSTERS, taking effect at the next schedule boundary. (R295) -/
  | clustersWrite (part val : Nat)
  /-- At CLOCK mod 2,048 = 0, new slot owners and cluster sets take effect. (R296) -/
  | tdmScheduleBoundary
  /-- Write of a VF's live-task quota, ignored if the sum would exceed 65,536. (R40) -/
  | quotaWrite (vf val : Nat)
  /-- A partition slice-hash seed write is taken with a flush, or ignored with SEEDERR. (R300) -/
  | hseedWrite (part val : Nat)
  /-- A write of the PF, window and management seed, taken only with every partition disabled. (R300) -/
  | pseedWrite (val : Nat)
  /-- The seed flush completes and SEEDBUSY clears. (R300) -/
  | seedFlushDone (part : Nat)
  /-- A way-mask write is checked and starts a sweep of the ways removed. (R302) -/
  | waysWrite (part k mask : Nat)
  /-- A way sweep ends and sends a SWEEPDONE notice. (R303) -/
  | waySweepDone (part k : Nat)
  /-- Write of MOCTL.LEASE, applying to later renewals. (R178) -/
  | leaseWrite (part val : Nat)
  /-- CHKCMD OP 1 unfences a unit and clears its demerits. (R241) -/
  | chkcmdUnfence (part core : Nat) (matrix : Bool)
  /-- CHKCMD OP 2 sets a unit's demerits, fencing it at THRESH. (R241) -/
  | chkcmdSetDemerits (part core : Nat) (matrix : Bool) (val : Nat)
  /-- Write of a partition's jig quota, evicting entries at once when lowered. (R275) -/
  | jquotaWrite (part val : Nat)
  /-- Deletes a VF's jig entries. (R275) -/
  | jigFlush (part vf : Nat)
  /-- Zeroes every counter of a stall block in one step. (R221) -/
  | stallClr (blk : Nat)
  /-- Starts a VF translation invalidation of a scope. (R144) -/
  | inval (vf word : Nat)
  /-- Starts a PF stage-2 invalidation for a VF. (R144) -/
  | inval2 (vf word : Nat)
  /-- Once TLBs are cleared and tracked accesses drained, INVSEQ or INVSEQ2 advances. (R144) -/
  | invalidationComplete (vf stage : Nat)
  /-- A RESOLVE write frees a Posted merge entry and wakes or traps its waiters. (R155) -/
  | resolve (fn word : Nat)
  /-- An RBASE write with a legal size clears STOP and writes any kept record. (R153) -/
  | ringRbaseWrite (ring val : Nat)
  /-- The ADOPT command locks a frame and unmaps it, waiting for walks and accesses. (R257) -/
  | keyAdopt (word : Nat)
  /-- After its drains, ADOPT flushes, refreshes counters, scrubs and commits the frame. (R257) -/
  | adoptDrainDone
  /-- Creates a window key domain. (R258) -/
  | keyWcreate (word : Nat)
  /-- Destroys a window domain and discards its key. (R258) -/
  | keyWdestroy (word : Nat)
  /-- Sets a domain's counter-tree depth and base. (R258) -/
  | keyTreecfg (word : Nat)
  /-- A key command completes and CODE and SEQ are updated. (R258) -/
  | keyCommandDone
  /-- Starts a driver copy-path transfer. (R316) -/
  | dcopyGo (fn word : Nat)
  /-- A DCOPY transfer completes or stops and CODE, SEQ and DONE are updated. (R316) -/
  | dcopyDone (fn : Nat)
  /-- GO starts committing a table's shadow copy. (R307) -/
  | fabricCommit (word : Nat)
  /-- The shadow table becomes active at a flit boundary. (R307) -/
  | fabricCommitDone (table : Nat)
  /-- Setting HOLD bit x holds new class-0 accesses to package x. (R308) -/
  | fabricHoldWrite (mask : Nat)
  /-- HELD bit x is set once earlier class-0 accesses to x are acknowledged. (R308) -/
  | fabricHeld (pkg : Nat)
  /-- A flit arrives on a port and is delivered, routed or refused. (R306) -/
  | flitArrive (port : Nat) (flit : Flit)
  /-- A refusal reaches the source, whose access traps ACCESS. (R309) -/
  | fabricRefusalReturn (id : Nat) (cause : Nat)
  /-- Loss of lock or light moves the fibre's flits, or takes the port down. (R311) -/
  | fibreLoss (port fibre : Nat)
  /-- A LINKDOWN notice is written and NEIGHBOUR sent within 50,000 clocks. (R311) -/
  | linkdownNotice (port : Nat)
  /-- A neighbour's link-loss message is written as a NEIGHBOUR notice. (R311) -/
  | neighbourNotice (port pkg : Nat)
  /-- Flits waiting past LINKTO are dropped and their accesses trap ACCESS. (R311) -/
  | linkHoldTimeout (id : Nat)
  /-- A wavelength crossing BERTH is retrained while a spare carries its traffic. (R312) -/
  | wavelengthBerCrossed (port wave : Nat)
  /-- Retraining ends; a failed wavelength is retired with a SPARE notice. (R312) -/
  | wavelengthRetrainDone (port wave : Nat) (ok : Bool)
  /-- The order point takes a system fence.sc ticket request in arrival order. (R310) -/
  | scTicketRequest (pkg id : Nat)
  /-- A granted ticket lets a system fence.sc perform its join. (R180) -/
  | scTicketGrant
  /-- Debug STOP halts the target warp and queues a stop record. (R290) -/
  | debugStop (vf word : Nat)
  /-- Debug RESUME releases a warp or block, or requeues a saved block. (R290) -/
  | debugResume (vf word : Nat)
  /-- Debug STEP issues one instruction of the chosen path. (R290) -/
  | debugStep (vf word : Nat)
  /-- Debug SAVE pre-empts the block with full saves and holds it unplaced. (R290) -/
  | debugSave (vf word : Nat)
  /-- A read of the stop-record register pops one record. (R289) -/
  | debugStopRecordPop (vf : Nat)
  /-- Writing 1 to VALID clears an error bank. (R318) -/
  | errBankClear (fn bank : Nat)
  /-- An ACCEPT write activates a block for a major version. (R293) -/
  | capAccept (fn block val : Nat)
  /-- AUTH starts verifying the staged firmware image. (R317) -/
  | bootAuth
  /-- Verification ends in a bad signature or rollback, or starts the image. (R317) -/
  | bootVerifyDone
  /-- VF Enable creates the enabled VFs' key domains. (R315) -/
  | vfEnable (n : Nat)
  /-- A VF disable is performed, or refused while the VF's domain owns a frame. (R315) -/
  | vfDisable (n : Nat)
  /-- VF function-level reset kills its tasks and deletes its jig entries. (R315) -/
  | vfFlr (vf : Nat)
  /-- PF function-level reset returns its blocks to inactive, leaving the package unchanged. (R317) -/
  | pfFlr
  /-- Package reset loses keys and enters the boot state in directory mode. (R317) -/
  | packageReset
  /-- A write to a register field that has no behaviour of its own. (R9) -/
  | registerWrite (fn block off val : Nat)
  /-- A scale-up port finishes training, its STATE becomes up, and a LINKUP notice is written to the PF notice ring. (R313) -/
  | linkup (port : Nat)
  /-- The home slice's response to a load or lease renewal reaches the requesting core: the L1 copy is installed with its lease, the agent's pts[d] is raised to its wts, and the waiting register is written. (R176) -/
  | loadResponse (id : Nat)
  deriving DecidableEq, Repr

end Sys2Proof
end

