-- ==== Sys2Proof/Machine/State.lean ====
section
/-! DEFINITION. The state of one AJ-9600 package, as plain data, and the state after package reset.

Registers and memory words are bit vectors; names, counts and addresses that key a table are natural numbers.
A table is a list of key and value pairs; an unlisted key of a `Tbl` reads zero.
Log entries named here are the files of notes/assumptions. -/

set_option Elab.async false

namespace Sys2Proof.Machine

/-- A list of key and value pairs. -/
abbrev AL (α : Type) := List (Nat × α)

/-- A table of words whose unlisted keys read zero. -/
abbrev Tbl (w : Nat) := List (Nat × BitVec w)

/-- What stops the machine. -/
inductive Fault where
  /-- Raised by the home-slice access (HOME_SLICE_REQUEST) when a line request names a line outside the memory of R485.
  No translation yields one (R139), so only a state that no run reaches raises it. Safe. -/
  | noSuchAddress (spa : Nat)
  deriving DecidableEq, Repr

/-- What the model turns away. -/
inductive Refusal where
  /-- Raised by an arm of `exec` for an instruction without a meaning. Safe. -/
  | notModelled (mnemonic : String)
  deriving DecidableEq, Repr

/-- RUNKIND (R66): what a block's run is for. -/
inductive RunKind where
  | plain | mortise | tenon | dowel
  deriving DecidableEq, Repr

/-- A register named by an instruction, for the scoreboard (R326, R484). -/
inductive RegRef where
  | v (n : Nat) | s (n : Nat) | p (n : Nat) | b (n : Nat)
  deriving DecidableEq, Repr

/-- A page that RESOLVE has declared invalid (R148, R154, R155): the address the trap names, and the level, stage and GPA of its merge entry. -/
structure BadPage where
  addr : Nat
  level : Nat
  stage : Nat
  gpa : Option Nat
  deriving DecidableEq, Repr

/-- What a waiting path waits for (R27, R484): named work, and nothing else. -/
inductive Wait where
  /-- Pending registers of the scoreboard. -/
  | regs (l : List RegRef)
  /-- The lookahead window of an earlier instruction (R326): these pending accesses. -/
  | window (ids : List Nat)
  /-- Signature records of the path that are not folded yet, at the end of a segment (R225, R226). -/
  | folded
  /-- Line requests of the warp to be performed and acknowledged (R165, R460, R46). -/
  | reqs (ids : List Nat)
  /-- Line requests of the warp to be performed at their homes (R165 scope 0). -/
  | perf (ids : List Nat)
  /-- Copy-queue entries (R168, R133, R460) by number. -/
  | copies (ids : List Nat)
  /-- Matrix-queue entries (R198, R133) by number. -/
  | mats (ids : List Nat)
  /-- Line requests to be performed and copy entries together (R460). -/
  | both (rs cs : List Nat)
  /-- Merge entries, by entry index and sequence (R148, R149). -/
  | merge (ents : List (Nat × Nat))
  /-- A free entry of a die's merge table (R151). -/
  | mergeFree (die : Nat)
  /-- A place in a copy queue of a block (R208). -/
  | copyPlace (bid q : Nat)
  /-- A place in the matrix queues of these cores (R187). -/
  | matrixPlace (cores : List Nat)
  /-- Four free entry buffers of a core's stream engine (R216). -/
  | buffers (core : Nat)
  /-- Matrix-queue entries, issued tile accesses of the block that wait themselves, and copy entries, all of which name a tile (R133, R198, R434). -/
  | tile (mats slows cops : List Nat)
  /-- A start token, or the end of the paired operation that stands before an entry in the follower's queue, by entry number (R60, R201). -/
  | token (id : Nat)
  /-- An order-point ticket (R180), by request number. -/
  | ticket (id : Nat)
  /-- A fence (R165, R342): line requests to be performed, line requests to be acknowledged, and tile messages to be delivered. -/
  | fence (perf acks tiles : List Nat)
  /-- A word of the instruction at the PC that another package has still to send, by its request (R250). -/
  | fetch (id : Nat)
  /-- The block's start: four free buffers for stream record n of the stream table (R38, R216), or the merge entries of its page, and the page if it has been resolved invalid. -/
  | launch (n : Nat) (ents : List (Nat × Nat)) (bad : Option BadPage)
  deriving DecidableEq, Repr

/-- The states of a path (R27). Saved is the state of the block; Stopped is `Path.held` or `Warp.dbg`, which leave the wait beneath it as it was. -/
inductive PathState where
  | ready
  | operandWait (c : Wait)
  | queueWait (q : Nat)
  /-- `yield`: wakes at the clock given (R462). -/
  | sleepYield (at_ : Nat)
  /-- A `cpy` with a yield completion: the copy entry, and the continuation offset read at issue (R210). -/
  | sleepCopy (id cont : Nat)
  /-- `pgreq.y`: the merge entries left to resolve, and the page of the lowest address resolved invalid (R148). A `wacq` or `wrel` that sleeps so issues again (R170). -/
  | sleepPage (ents : List (Nat × Nat)) (bad : Option BadPage) (again : Bool)
  /-- A fetch, spill or replayed lane on a non-resident page: as `pgreq.y` (R149, R150). -/
  | parked (ents : List (Nat × Nat)) (bad : Option BadPage)
  /-- An access of the path stands at a held line (R171): the line requests, and the lines whose held versions carry tags that the access has to check. -/
  | clampWait (ids lines : List Nat)
  /-- At a named barrier (n below 16) or the gang barrier (n = 16), with whether the warp's arrival is counted (R31). -/
  | barrier (n k : Nat) (counted : Bool)
  | roleWait (role : Nat)
  | ended
  deriving DecidableEq, Repr

/-- A stack entry or the top record (R77). PCs are word offsets from CODEVA. -/
structure StackEntry where
  rpc : BitVec 32
  ppc : BitVec 32
  pmask : Word
  dmask : Word
  mode : Word
  fmt : Word
  deriving DecidableEq, Repr

/-- Running CRC-64 of the four signature classes (R225). -/
structure Sig where
  ss : DWord
  vs : DWord
  ms : DWord
  asig : DWord
  deriving DecidableEq, Repr

/-- A signature record in program order: its class, and its bytes or the pending work that will give them (R226). -/
structure FoldItem where
  cls : Nat
  pend : Option Nat
  bytes : List Nat
  deriving DecidableEq, Repr

/-- A path of a warp (R27, R69, R75, R77). -/
structure Path where
  pc : VAddr
  mask : Word
  mode : Word
  fmt : Word
  /-- On-chip entries, innermost first (R83). -/
  stack : List StackEntry
  /-- Entries of the stack that stand in the spill region (R83). -/
  spilled : Nat
  st : PathState
  /-- Stopped because the other path took a trap (R277). -/
  held : Bool
  /-- The wait of the instruction at the PC has ended. -/
  waited : Bool
  /-- The clock from which the path has been Ready (R56). -/
  since : Nat
  /-- Promoted to class 0 until it issues (R56). -/
  promoted : Bool
  /-- The clock of the path's last issue, for the alternation of R56. -/
  lastIssue : Nat
  /-- Lookahead windows: pending access and further instructions allowed (R326). -/
  windows : List (Nat × Nat)
  /-- Registers that the instructions of those windows read or write (R326). -/
  reads : List (Nat × List RegRef)
  /-- The CRCs of the running segment (R225). -/
  sig : Sig
  /-- Records not yet folded (R226). -/
  folds : List FoldItem
  /-- Replay-log position of the path's stream (R229). -/
  logSeq : Nat
  /-- Accesses made on the path's stream, by which a check run knows the instruction of a NRMASK entry: the model's own (log entry 27). -/
  accs : Nat
  /-- A breakpoint, by its number and the address, that the next issue passes (R290). -/
  passBp : Option (Nat × Nat)
  /-- Words of an instruction that another package has sent, by SPA, until it issues (R250). -/
  fetched : AL Nat
  deriving DecidableEq, Repr

/-- A rewind point (R281, R231). -/
structure RewindPoint where
  pc : VAddr
  word : Word
  lit : Word
  live : Word
  pops : AL Nat
  sig : Sig
  acc : Sig
  seqA : Nat
  seqB : Nat
  accsA : Nat
  accsB : Nat
  deriving DecidableEq, Repr

/-- The first element of a stream entry that fails, in lane order (R217): its lane, the trap code, the address, and the cause, level, stage and GPA its TERM record gives (R154). -/
structure ElemFail where
  lane : Nat
  code : Nat
  addr : Nat
  cause : Nat
  level : Nat
  stage : Nat
  gpa : Option Nat
  deriving DecidableEq, Repr

/-- One entry buffer of a stream queue: the elements by lane, the lanes non-resident, and a failure mark (R217). -/
structure StreamEntry where
  elems : AL Word
  nonres : List Nat
  fail : Option ElemFail
  /-- Lane and address of the first element outside every range of a pure task (R265). -/
  viol : Option (Nat × Nat)
  deriving DecidableEq, Repr

/-- The binding of a stream queue (R214, R216, R218). -/
structure StreamQ where
  record : BitVec 512
  /-- Entries popped. -/
  pops : Nat
  /-- Entries fetched ahead, head first. -/
  bufs : List StreamEntry
  pts : Tbl 40
  /-- Line requests and `mwb` entries of the warp that come before its reads (R169). -/
  before : List Nat
  /-- An entry whose elements another package still has to send, and its line requests (R250). -/
  coming : Option (StreamEntry × List Nat)
  deriving DecidableEq, Repr

/-- What a pending access of a warp still owes: the registers it writes when every line has answered (R326). -/
structure Pend where
  id : Nat
  pathB : Bool
  /-- Registers the scoreboard holds. -/
  regs : List RegRef
  /-- Destination register; width in bytes; element type; MODE.FP at issue. -/
  dest : Nat
  width : Nat
  et : Nat
  /-- 0 v register lanes, 1 scalar register of a uniform access. -/
  kind : Nat
  /-- Lanes to write. -/
  lanes : Word
  /-- Helper lanes among them. -/
  helpers : Word
  /-- Values by lane. -/
  got : AL Rec
  /-- Line requests not yet answered. -/
  waiting : List Nat
  /-- Whether the value is logged: 0 no, 1 LOAD, 3 ATOM (R230), with its place in the log. -/
  logType : Nat
  logSeq : Nat
  logMask : Word
  xpc : VAddr
  deriving DecidableEq, Repr

/-- What an issued instruction does once its wait is over; its operands were read at issue. -/
inductive SlowOp where
  /-- `tld`: lane and element of each acting lane; the pending access holds the rest (R434). -/
  | tld (elems : List (Nat × Nat))
  /-- `tst`: element and value of each lane (R434). -/
  | tst (eb : Nat) (elems : List (Nat × Nat))
  /-- `tatom`: lane, element, operand and comparand of each lane (R431). -/
  | tatom (op : AtomOp) (et eb : Nat) (lanes : List (Nat × Nat × Nat × Nat))
  /-- `tfree` (R427). -/
  | tfree
  /-- An instruction that stands at its PC until it reads its tile (R414, R438). -/
  | look
  /-- `sattach` of queue n with a record (R414). -/
  | bind (n : Nat) (record : BitVec 512)
  /-- `fence` of a scope, or `fence.sc` (R365). -/
  | fence (scope : Nat) (sc : Bool)
  /-- `qwait` of a mask (R402). -/
  | qwait (mask : Nat)
  /-- `wacq` of a window's domain (R460). -/
  | wacq (dom : Nat)
  /-- `wrel` of a window's domain (R460). -/
  | wrel (dom : Nat)
  deriving DecidableEq, Repr

/-- An issued instruction that is not complete and does not stand at its path's PC: later ones may issue within its lookahead window (R326). -/
structure Slow where
  id : Nat
  pathB : Bool
  xpc : VAddr
  /-- The tile it names, for a tile access and a `tfree`. -/
  handle : Nat
  wait : Wait
  op : SlowOp
  deriving DecidableEq, Repr

/-- A warp (R13, R63). -/
structure Warp where
  bid : Nat
  idx : Nat
  /-- v registers: key 32 × register + lane. -/
  v : Tbl 32
  s : Tbl 64
  p : Tbl 32
  b : Tbl 128
  q : AL StreamQ
  live : Word
  split : Bool
  pathA : Path
  pathB : Path
  top : StackEntry
  helper : Bool
  fpflags : BitVec 6
  role : Nat
  /-- v allotment in registers. -/
  allot : Nat
  prio : Nat
  xpc : VAddr
  xfirst : VAddr
  xaddr : VAddr
  xcode : Byte
  inHandler : Bool
  /-- The path that runs the handler. -/
  handlerB : Bool
  xmode : Word
  xfmt : Word
  /-- Stack depth of the trapping path at handler entry, by which an `eret` in a warp split at the trap knows whether the handler has reconverged: the model's own (R279, log entry 17). -/
  handlerDepth : Nat
  point : Option RewindPoint
  recipe : Bool
  /-- pts[d], key die (R175). -/
  pts : Tbl 40
  pend : List Pend
  /-- Issued instructions that wait, in the order of their issue (R326). -/
  slow : List Slow
  /-- Signature accumulators (R225). -/
  acc : Sig
  /-- Role-wait order (R24): the clock the wait began. -/
  roleSince : Nat
  /-- Stopped by the debugger (R290). -/
  dbg : Bool
  /-- The path of a debug step in progress (R290). -/
  stepping : Option Bool
  /-- Has stopped for the pre-emption in progress (R286), and saved reduced. -/
  saved : Option Bool
  exited : Bool
  deriving DecidableEq, Repr

/-- A tile of a block (R128 to R132). -/
structure Tile where
  /-- Descriptor without VALID and GANGWIDE. -/
  desc : BitVec 64
  gangwide : Bool
  /-- Returned to this block by its own `talloc` (R131). -/
  returned : Bool
  /-- First granule in the block's banks, for levels 0 and 1 of the owner. -/
  base : Nat
  /-- The block that holds the storage of a level-1 tile. -/
  owner : Nat
  /-- Names the unspecified initial contents (log entry 4). -/
  serial : Nat
  /-- Bytes written. -/
  bytes : AL Byte
  /-- Home slice of a level-2 tile. -/
  slice : Nat
  /-- The warp and path of a `tfree` in progress: warp × 2 + path (R427). -/
  freeing : Option Nat
  /-- Number of the gang store that wrote each byte last (R135). -/
  stamps : AL Nat
  deriving DecidableEq, Repr

/-- A use of a named barrier (R30, R31, R342). -/
structure Barrier where
  /-- Explicit count, or none for the every-live form. -/
  count : Option Nat
  /-- Expected arrivals. -/
  expected : Nat
  /-- Warps whose arrival is counted. -/
  arrived : Word
  arrivals : Nat
  deriving DecidableEq, Repr

/-- One side of a copy lane: memory VA, or handle and byte offset (R206). -/
structure CopyLoc where
  tile : Bool
  handle : Nat
  addr : Nat
  deriving DecidableEq, Repr

/-- A copy-queue entry (R206 to R211, R179). -/
structure CopyEntry where
  id : Nat
  wid : Nat
  pathB : Bool
  xpc : VAddr
  lit : Word
  conv : Nat
  rnd : Nat
  sat : Bool
  ws : Nat
  wd : Nat
  done : Nat
  scont : Nat
  srcTag : Nat
  dstTag : Nat
  /-- KIND 2 destination: the write sets tags. -/
  tagset : Bool
  src : List CopyLoc
  dst : List CopyLoc
  pts : Tbl 40
  /-- Entries that must have completed first (`qfence`). -/
  after : List Nat
  /-- Line requests and `mwb` entries of the warp that come before it (R168). -/
  before : List Nat
  /-- Lanes read, source bytes by lane × 16 + byte. -/
  readLanes : List Nat
  buf : AL Byte
  wroteLanes : List Nat
  /-- Lanes whose transfer is on its way to another package (R250). -/
  far : List Nat
  /-- Destination checks made. -/
  checked : Bool
  /-- Held for residency (R211), and the lane and the address that are held. -/
  hold : List (Nat × Nat)
  heldAt : Nat × Nat
  /-- The stop found: lane, trap code, cause, failing address (R211). -/
  stop : Option (Nat × Nat × Nat × Nat)
  /-- Level, stage and GPA of the translation that stopped it (R154). -/
  stopAt : Nat × Nat × Option Nat
  /-- Places of the TREAD and CPYDONE entries in the log of the path's stream (R230). -/
  readSeq : Option Nat
  doneSeq : Option Nat
  deriving DecidableEq, Repr

/-- A copy queue of a block (R208, R211). -/
structure CopyQueue where
  entries : List CopyEntry
  /-- Trap code of a faulted queue, with the `cpy` that stopped it. -/
  faulted : Option (Nat × VAddr)
  /-- The TERM record that the stop's delivery sends (R212, R280). -/
  faultRec : Option (BitVec 256)
  /-- Times of the last entry enqueued. -/
  pts : Tbl 40
  /-- Times of the entries completed, which `qwait` and `qfence` hand on (R179). -/
  ended : Tbl 40
  /-- Entries a `qfence` makes later entries wait for. -/
  fence : List Nat
  deriving DecidableEq, Repr

/-- Pair state (R203). -/
inductive PairState where
  | none | paired | solo
  deriving DecidableEq, Repr

/-- Block states (R28): Pending blocks are the task's; Retired and Killed blocks leave the list. -/
inductive BlockState where
  | resident
  /-- Placed with its gang; starts when the gang starts (R52). -/
  | starting
  | saving
  | saved
  | held
  | voting
  deriving DecidableEq, Repr

/-- A replay-log entry (R229, R230). -/
structure LogEntry where
  typ : Nat
  warp : Nat
  strm : Bool
  lmask : Word
  w : Nat
  seq : Nat
  payload : List Nat
  /-- The value is fixed (R228). -/
  filled : Bool
  void : Bool
  /-- Accesses made on the stream before the entry's instruction (log entry 27). -/
  acc : Nat
  /-- The entry's place in the log slot (R228). -/
  place : Nat
  deriving DecidableEq, Repr

/-- A held HTS operation (R47): 0 post, 1 decrement, 2 increment. -/
structure HtsOp where
  op : Nat
  name : Nat
  k : Nat
  record : BitVec 2048
  /-- The warp that issued it, and what it had issued before: line requests and `mwb` entries, and copy entries (R46). -/
  wid : Nat
  after : List Nat
  cops : List Nat
  deriving DecidableEq, Repr

/-- An HTS operation that waits for its warp's earlier accesses (R46): of a run without a check, or of one whose versions were released early (R228, R236). -/
structure HtsSend where
  vf : Nat
  bid : Nat
  op : HtsOp
  /-- The pending register of its warp that takes the status (R439). -/
  ret : Option Nat
  deriving DecidableEq, Repr

/-- A version set (R235). -/
structure VersionSet where
  bytes : AL Byte
  /-- Allotted tags by sector for KIND 2 stores. -/
  tags : Tbl 4
  /-- Held HTS operations. -/
  ops : List HtsOp
  deriving DecidableEq, Repr

/-- A block's run on a core, or its saved or held state (R28, R13). -/
structure Block where
  vf : Nat
  task : Nat
  lin : Nat
  kind : RunKind
  /-- The mortise block of a check run; the block itself otherwise. -/
  origin : Nat
  core : Nat
  slot : Nat
  st : BlockState
  nwarps : Nat
  /-- v allotment of the task at placement, for the block share (R22). -/
  val : Nat
  started : Nat
  /-- Tile banks (R127). -/
  banks : Nat
  tiles : AL Tile
  /-- Gang-wide allocations made (R131). -/
  gwCount : Nat
  /-- Tile words `tatom` changed since the last TIMG (R230): handle × 2^32 + index. -/
  tdirty : List Nat
  bars : AL Barrier
  queues : AL CopyQueue
  pair : PairState
  /-- B-stage slots 0 to 7 and upper slots 8 to 15 (R196, R201): byte key slot × 8192 + quarter × 2048 + offset. -/
  bstage : AL Byte
  /-- Slots whose bytes stand in the save area (R197). -/
  bsaved : List Nat
  set : VersionSet
  /-- The run is unlogged or unverified: its stores are plain (R228, R236). -/
  unver : Bool
  log : List LogEntry
  /-- Bytes of the log slot in use. -/
  logBytes : Nat
  /-- SPA and bytes of the log slot given at placement (R228). -/
  logAt : Nat
  logSize : Nat
  /-- Block signature after the last warp exited (R225). -/
  sig : Sig
  /-- Check run diverged (R234). -/
  diverged : Bool
  /-- Clock of entry to Held (R243). -/
  heldAt : Nat
  /-- Any global atomic was performed (R239). -/
  atoms : Bool
  /-- Pre-emption in progress: signal clock and full save asked for (R286). -/
  pre : Option (Nat × Bool)
  /-- Held unplaced by the debugger (R290). -/
  debugHold : Bool
  epoch : Nat
  /-- Warps a STOPBLK stop still has to stop at their next issue (R290). -/
  stopBlk : List Nat
  /-- Check phase of a held block: 0 tenon waits, 1 tenon runs, 2 dowel waits, 3 dowel runs (R237). -/
  phase : Nat
  /-- Clock from which a check run has waited for a core (R238). -/
  waitFrom : Nat
  /-- The context area as the last save wrote it: word number and word; resumption takes what differs from it in memory (R287, R290). -/
  image : AL DWord
  /-- Merge entries of context pages that a save, a resumption or a B-stage move waits for (R287). -/
  ctxWait : List (Nat × Nat)
  /-- Tenon and dowel cores and the outcome of the tenon run, for the vote (R239). -/
  tenonCore : Nat
  dowelCore : Nat
  tenonSig : Option Sig
  /-- The core on which its last check run was void: the run starts again on another (R234). -/
  voidCore : Option Nat
  /-- Tags that the run's own KIND 2 stores set, as a check run sees them: such stores and copies need not be performed there (R123, R233). -/
  tagView : AL (BitVec 4)
  deriving DecidableEq, Repr

/-- Gang state shared by the blocks of a gang (R30, R131). -/
structure Gang where
  /-- Blocks of the gang, by position. -/
  bids : List Nat
  /-- Gang-barrier arrivals: warp identifiers counted, and expected. -/
  arrived : List Nat
  expected : Nat
  /-- Gang-wide allocations in order: descriptor, handle, failure status or 0, blocks that have returned it, blocks that have freed it. -/
  allocs : List (BitVec 64 × Nat × Nat × List Nat × List Nat)
  deriving DecidableEq, Repr

/-- A tile store on its way to another block of the gang (R135). -/
structure TileMsg where
  id : Nat
  wid : Nat
  src : Nat
  dst : Nat
  handle : Nat
  off : Nat
  bytes : List Nat
  /-- The serial number of the tile it stores to: a store on its way does not reach a later tile of the same handle (R133). -/
  serial : Nat
  /-- The instruction that made it: its number while it waited, or the message's own (R165). -/
  ins : Nat
  deriving DecidableEq, Repr

/-- Task states (R41). -/
inductive TaskState where
  | waiting | ready | running | held | killed
  deriving DecidableEq, Repr

/-- A copy of a jig hit: an entry of its VF's jig queue (R270). -/
structure JigCopy where
  src : Nat
  dst : Nat
  len : Nat
  /-- Bytes written so far. -/
  done : Nat
  /-- Bytes read and not yet written. -/
  buf : List Nat
  /-- The tag its transfers are checked against, and whether its writes set it (R123, R211). -/
  tag : Nat
  tagset : Bool
  /-- The merge entry its next page waits for (R211). -/
  hold : Option (Nat × Nat)
  /-- The request to another package in progress (R250). -/
  far : Option Nat
  deriving DecidableEq, Repr

/-- A live task, or a killed one whose name is not yet freed (R40). -/
structure Task where
  vf : Nat
  record : BitVec 2048
  st : TaskState
  counter : Nat
  /-- PURE in force (R266). -/
  pureNow : Bool
  readyAt : Nat
  /-- Blocks placed so far, in linear order (R50). -/
  placed : Nat
  retired : Nat
  /-- Every checked block was released by a vote (R273). -/
  voted : Bool
  /-- Key of a pure task that missed, with the generations used (R271). -/
  jigKey : Option (BitVec 256)
  inGens : List Nat
  /-- A jig hit, with the copies it has left (R270, R272). -/
  hitCopies : Option (List JigCopy)
  bypass : Bool
  blockedSent : Bool
  /-- The task's one TERM record has been queued (R212, R280). -/
  termSent : Bool
  deriving DecidableEq, Repr

/-- An access that no path makes as a memory instruction: of an entry of a copy queue of a block, the fetch of a stream queue of a warp, a copy of a jig hit, a driver copy of a function, the instruction fetch of a path, a request of another package, or a released version. -/
inductive EngRef where
  | copy (bid q id : Nat)
  | strm (wid n : Nat)
  | jig (vf name : Nat)
  | dcopy (fn : Nat)
  | fetch (wid : Nat) (pathB : Bool)
  | flit (src id : Nat)
  | held
  deriving DecidableEq, Repr

/-- A line request of a warp (R124, R162, R176). -/
structure LineReq where
  id : Nat
  wid : Nat
  pathB : Bool
  /-- The pending access it belongs to, if it returns a value. -/
  pend : Option Nat
  core : Nat
  vf : Nat
  dom : Nat
  /-- SPA of the line, divided by 256. -/
  line : Nat
  va : Nat
  win : Bool
  /-- 0 load, 1 store, 2 atomic. -/
  kind : Nat
  op : AtomOp
  et : Nat
  width : Nat
  tag : Nat
  /-- KIND 2 store. -/
  tagset : Bool
  /-- Lane, byte offset in the line, operand, comparand. -/
  lanes : List (Nat × Nat × Rec × Rec)
  /-- 0 waits for its home, 1 in Clamp-wait, 2 performed and its answer on the way, 3 withheld (R177), 4 waits for the fabric. -/
  stage : Nat
  /-- Timestamps the home returned; rts is the lease of a load. -/
  wts : BitVec 40
  rts : BitVec 40
  /-- The line as a load found it, for the L1 copy, and the sectors filled. -/
  fill : BitVec 2048
  sectors : BitVec 4
  /-- Values a load or atomic returned, by lane. -/
  got : AL Rec
  /-- Earlier unacknowledged stores a load overtook (R177). -/
  withheld : List Nat
  xpc : VAddr
  /-- The clock the request was made, for LINKTO (R311). -/
  made : Nat
  /-- Its place in its warp's program order: its own identifier, or that of the `mwb` entry it stores for (R199). -/
  ord : Nat
  /-- The `mwb` entry it stores for (R199). -/
  mat : Option Nat
  /-- Its place among the requests that have arrived at home slices; 0 before it has (R161). -/
  arrived : Nat
  /-- Tags of the line's four sectors as the load found them, for the L1 copy (R123). -/
  tags : BitVec 16
  /-- Virtual line of each lane that reaches the line through another address than `va` (R125). -/
  vas : AL Nat
  /-- The engine that made it, where no warp did: for a window of another package (R250). -/
  eng : Option EngRef
  /-- The number that the requests of one instruction share (R122). -/
  ins : Nat
  /-- It left on the adaptive class of the fabric (R164, R308). -/
  adaptive : Bool
  /-- The time of the queue of its engine for the line's die (R176). -/
  engPts : BitVec 40
  deriving DecidableEq, Repr

/-- An L1 copy of a line (R175, R256). -/
structure L1Line where
  dom : Nat
  /-- Sectors present. -/
  sectors : BitVec 4
  bytes : BitVec 2048
  wts : BitVec 40
  rts : BitVec 40
  /-- Tags of the four sectors (R123). -/
  tags : BitVec 16
  deriving DecidableEq, Repr

/-- A cached translation (R141). For the nested TLB `va` is a GPA. -/
structure TlbEntry where
  /-- Core, cluster or die. -/
  loc : Nat
  vf : Nat
  dom : Nat
  va : Nat
  size : Nat
  spa : Nat
  w : Bool
  x : Bool
  win : Bool
  deriving DecidableEq, Repr

/-- A merge-table entry (R151, R152). -/
structure MergeEntry where
  vf : Nat
  stage2 : Bool
  addr : Nat
  /-- Record type: 1 DATA, 3 FETCH, 4 SPILL, 5 S2TABLE, 6 S2DATA (R154). -/
  typ : Nat
  level : Nat
  count : Nat
  write : Bool
  /-- Guest VA of the first request. -/
  va : Nat
  task : Nat
  core : Nat
  posted : Bool
  /-- Order of entry, for the reporting port. -/
  order : Nat
  deriving DecidableEq, Repr

/-- An invalidation in progress (R144). -/
structure Inval where
  vf : Nat
  stage2 : Bool
  /-- Line requests, copy entries and matrix entries it waits for. -/
  reqs : List Nat
  copies : List Nat
  mats : List Nat
  deriving DecidableEq, Repr

/-- An entry of a die's counter cache (R253): the counter block of a leaf slot (level 0), or an inner node, of a domain's tree. -/
structure CtrLine where
  die : Nat
  dom : Nat
  level : Nat
  index : Nat
  /-- Its counters were raised since it was filled; its parent's counter is raised when it is written back. -/
  dirty : Bool
  deriving DecidableEq, Repr

/-- The memory system. -/
structure MemSys where
  /-- Plaintext at the memory side, by SPA; unlisted bytes read zero (log entry 5). -/
  mem : List Host.Cell
  /-- L2 dirty bytes by SPA (R126). -/
  dirty : AL Byte
  /-- Allocation tags by sector, SPA / 64 (R123). -/
  tags : Tbl 4
  /-- Poisoned sectors, sectors failing their MAC, and pages failing their tree path (R254, R255). -/
  poison : List Nat
  macBad : List Nat
  treeBad : List Nat
  /-- Side-band bits [127:120] as stored, by sector; not zero is a MAC failure (R251). -/
  sideTop : Tbl 8
  /-- Sectors of log slots, with the domain under whose key their bytes were written: not that of the frame's owner (R228). -/
  sealDom : AL Nat
  /-- Sectors with an error the next memory read meets: 1 corrected, 2 uncorrectable, 3 misdirected; 4 an uncorrectable error in the clean L2 line that caches the sector (R255). -/
  upsets : AL Nat
  /-- L1 copies with an uncorrectable error, by key (R255). -/
  l1Bad : List Nat
  /-- Counter caches of the dies, last filled first (R253). -/
  ctrCache : List CtrLine
  /-- Home-slice timestamps by line (R175). -/
  wts : Tbl 40
  rts : Tbl 40
  /-- L1 copies: key core × 2^44 + line. -/
  l1 : AL L1Line
  /-- Lines cached in L2, with their domain (R256). -/
  l2dom : AL Nat
  /-- The way of its slice in which a cached line stands (R302). -/
  l2way : AL Nat
  /-- Engine accesses that wait at a home slice: the line, the engine, and their place among the requests that have arrived (R161). -/
  places : List (Nat × EngRef × Nat)
  reqs : List LineReq
  tlb1 : List TlbEntry
  tlb2 : List TlbEntry
  tlbN : List TlbEntry
  /-- Key die × 256 + index. -/
  merges : AL MergeEntry
  /-- Uses of each entry (R154). -/
  mergeSeq : Tbl 8
  invals : List Inval
  /-- Dies in directory mode, with the cause; a die not listed is in lease mode (R184, R185). -/
  dirMode : AL Nat
  /-- Switches in progress: die and cause after the switch. -/
  switching : AL Nat
  /-- Sharer clusters by line, in directory mode (R184). -/
  sharers : Tbl 32
  /-- Largest timestamp per die since the last rebase (R185). -/
  high : Tbl 40
  deriving DecidableEq, Repr

/-- A terminal record at the reporting port (R157): the function, the record, and the task it reports. -/
structure TermRec where
  fn : Nat
  record : BitVec 256
  task : Option (Nat × Nat)
  deriving DecidableEq, Repr

/-- Fault reporting (R151 to R157, R313). -/
structure Report where
  term : List TermRec
  notices : List (BitVec 256)
  /-- Record kept by a stopped ring, by ring number. -/
  kept : AL (BitVec 256)
  /-- Deficits of the reporting port, by function (R157). -/
  deficit : AL Int
  /-- Consecutive record slots a function's writable record has waited. -/
  waitSlots : AL Nat
  promoted : List Nat
  order : Nat
  /-- MSI-X signals sent: function and vector (log entry 1). -/
  msix : List (Nat × Nat)
  deriving DecidableEq, Repr

/-- A matrix-queue entry (R187 to R201). -/
structure MatEntry where
  id : Nat
  bid : Nat
  wid : Nat
  pathB : Bool
  xpc : VAddr
  /-- 0 mma, 1 mmag, 2 mmas, 3 mbld, 4 mbld.pair, 5 mwb, 6 mqnt. -/
  op : Nat
  wa : DWord
  wb : DWord
  wc : DWord
  sc : Nat
  fmt : Word
  mode : Word
  /-- Needs both cores' queue heads (R201); the follower's share carries no work. -/
  paired : Bool
  follower : Bool
  /-- Waits for a start token. -/
  token : Option Nat
  /-- `mwb` to memory: address and SPA of each element in row-major order, translated at issue (R390). -/
  elems : List (Nat × Nat × Nat × Bool)
  tag : Nat
  tagset : Bool
  pend : Option Nat
  deriving DecidableEq, Repr

/-- A start-token request (R60, R61). -/
structure TokenReq where
  id : Nat
  die : Nat
  part : Nat
  /-- Cores that take a token. -/
  cores : List Nat
  wid : Nat
  deriving DecidableEq, Repr

/-- The engines of the cores and dies. -/
structure Engines where
  /-- Matrix queues by core; from number 384 on, the operations of a block's pre-empted warps that stand aside (R61). -/
  matq : AL (List MatEntry)
  /-- Physical B-stage slots by core × 8 + slot: the block and its logical slot, most recently used first (R197). -/
  bphys : AL (Nat × Nat)
  bLru : AL (List Nat)
  /-- Cores out of rest, with the clock of their last matrix activity (R60). -/
  active : AL Nat
  tokens : List TokenReq
  /-- Tokens granted in the die's current window: window number and count. -/
  granted : AL (Nat × Nat)
  /-- Partition after which the arbiter goes on, by die. -/
  tokenRot : AL Nat
  /-- Copy rotation: last block slot × 8 + queue served, by core (R210). -/
  copyRot : AL Nat
  /-- Stores to gang tiles on their way to other blocks, oldest first (R135). -/
  tileMsgs : List TileMsg
  deriving DecidableEq, Repr

/-- A quarter's issue state, by core × 4 + quarter (R55, R57). -/
structure Quarter where
  deficit : AL Int
  /-- Weights in force, by VF. -/
  weight : AL Nat
  /-- Clock since which a VF has had a Ready path without issuing. -/
  readySince : AL Nat
  promoted : List Nat
  /-- Reserved slots taken in the round. -/
  reserved : Nat
  deriving DecidableEq, Repr

/-- Distribution of work (R50 to R54). -/
structure Placer where
  /-- Clock from which a gang has headed the partition: VF, task, gang index, clock. -/
  head : Option (Nat × Nat × Nat × Nat)
  /-- Target window: first core and size. -/
  target : Option (Nat × Nat)
  deriving DecidableEq, Repr

/-- A page's counter block (R252). -/
structure CtrBlock where
  major : DWord
  minors : Tbl 7
  /-- A write-back was refused because MAJOR would pass its end (R253). -/
  exhausted : Bool
  deriving DecidableEq, Repr

/-- A frame ownership entry (R257). -/
structure FotEntry where
  owner : Nat
  adopted : Bool
  cslot : Option Nat
  deriving DecidableEq, Repr

/-- A key command in progress (R258). -/
structure KeyCmd where
  op : Nat
  dom : Nat
  frame : Nat
  slot : Nat
  depth : Nat
  /-- Status found before any effect. -/
  code : Nat
  /-- ADOPT: accesses to drain before step 3. -/
  reqs : List Nat
  mats : List Nat
  /-- ADOPT has performed its steps. -/
  ready : Bool
  deriving DecidableEq, Repr

/-- Key domains, counters and ownership (file 11). -/
structure Keys where
  /-- Existing domains other than 1280 and 1281, with the number of the key draw (R249). -/
  doms : AL Nat
  draws : Nat
  /-- Tree depth and base by domain. -/
  trees : AL (Nat × Nat)
  /-- Counter blocks: key domain × 2^32 + slot. -/
  ctrs : AL CtrBlock
  /-- Inner counters: key (domain × 16 + level) × 2^34 + index. -/
  nodes : Tbl 64
  fot : AL FotEntry
  cmd : Option KeyCmd
  /-- The carve-out stands (R259). -/
  booted : Bool
  deriving DecidableEq, Repr

/-- A watched region (R268). -/
structure Region where
  vf : Nat
  base : Nat
  len : Nat
  dom : Nat
  gen : Nat
  frames : List Nat
  deriving DecidableEq, Repr

/-- A jig entry (R273). -/
structure JigEntry where
  vf : Nat
  part : Nat
  key : BitVec 256
  /-- OUT regions: base, length, domain, generation. -/
  outs : List (Nat × Nat × Nat × Nat)
  /-- IN regions: base, length, domain. -/
  ins : List (Nat × Nat × Nat)
  /-- CODEVA and domain of the code window. -/
  code : Nat × Nat
  deriving DecidableEq, Repr

/-- The jig table and the watch unit (file 12). -/
structure Jig where
  /-- Most recently hit or inserted first. -/
  entries : List JigEntry
  regions : List Region
  /-- Code hash by VF × 2^57 + CODEVA, with the generation it was made at and the domain of the watched window. -/
  hashes : AL (BitVec 256 × Nat × Nat)
  /-- Times of each VF's jig queue (R175, R270). -/
  pts : AL (Tbl 40)
  /-- VFs whose jig queue is faulted (R211, R272). -/
  faulted : List Nat
  deriving DecidableEq, Repr

/-- Redundant execution (file 10). -/
structure Checks where
  /-- Demerits and fenced units: cores, and core + 384 for matrix arrays (R241). -/
  demerit : Tbl 8
  fenced : List Nat
  suspect : List Nat
  /-- Counters of R246 by byte offset, SEQ among them. -/
  health : Tbl 64
  /-- The last record produced. -/
  record : Option (BitVec 10624)
  deriving DecidableEq, Repr

/-- A DCOPY transfer (R316). -/
structure DcopyXfer where
  fn : Nat
  haddr : Nat
  daddr : Nat
  daddr2 : Nat
  len : Nat
  dir : Nat
  tag : Nat
  /-- Bytes done, the translated pages, and the request in progress, of a transfer that touches another package (R250). -/
  pos : Nat
  pages : AL Nat
  far : Option Nat
  /-- The code at which it stops (R309). -/
  stop : Option Nat
  deriving DecidableEq, Repr

/-- The scale-up fabric (R305 to R312). -/
structure Fabric where
  /-- Tables committed: key table × 2^16 + word offset, active copies of route entries and keys. -/
  active : Tbl 32
  /-- A commit in progress: its table, its kind, and the clock it began (R307). -/
  commit : Option (Nat × Bool × Nat)
  /-- Flits held at a port: identifier, the table that routed them × 16 + port, flit, clock. -/
  heldFlits : List (Nat × Nat × Flit × Nat)
  nextFlit : Nat
  delivered : List Flit
  /-- Flits put on a link: the table that routed them × 16 + port. -/
  sent : List (Nat × Flit)
  /-- Requests of other packages that wait at their lines here, with the port they came by (R161, R171). -/
  inbox : List (Nat × Flit)
  /-- Ticket requests in arrival order: package, and the waiting request number of a warp of this package. -/
  tickets : List (Nat × Nat)
  granted : List Nat
  /-- Wavelengths in retraining or retired: key port × 1024 + wavelength; 1 retraining, 2 retired. -/
  waves : AL Nat
  /-- Ports whose link loss has to be noticed, with the fibre lost last. -/
  lost : List (Nat × Nat)
  deriving DecidableEq, Repr

/-- A debug stop record (R289). -/
abbrev StopRec := BitVec 64

/-- One package. -/
structure State where
  /-- CLOCK (R66). -/
  clock : DWord
  gsc : BitVec 40
  epoch : Byte
  /-- Work due in this clock, the outside events still to come, and the path that issues: the model's own (log entry 1). -/
  agenda : List Instr
  inputs : List (Nat × Instr)
  issue : Option (Nat × Bool)
  /-- Blocks whose pre-emption is signalled in this clock: it starts after the clock's issue slots and debug stops (R37): the model's own (log entry 1). -/
  signals : List Nat
  /-- Draws of free values so far: the model's own (log entry 2). -/
  free : Nat
  /-- Next identifier of a request, entry or block: the model's own (log entry 1). -/
  nextId : Nat
  /-- The warp and path an instruction acts on. -/
  cur : Nat
  curB : Bool
  /-- Host-visible registers that hold other than their reset value: key (function × 32 + block) × 2^26 + offset. -/
  regs : AL DWord
  /-- TDM slots and clusters in force (R295, R296). -/
  tdm : AL Nat
  clustersNow : AL Nat
  /-- Tasks: key VF × 2^20 + name. -/
  tasks : AL Task
  /-- POST snapshots being validated, by VF (R49). -/
  posts : AL (BitVec 2048)
  /-- Operations of released sets that wait to be performed, oldest first (R46). -/
  sends : List HtsSend
  /-- Blocks by identifier; warps by block identifier × 32 + index. -/
  blocks : AL Block
  warps : AL Warp
  /-- Gangs: key (VF × 2^20 + name) × 2^32 + gang index. -/
  gangs : AL Gang
  quarters : AL Quarter
  /-- Issue weights, by VF, that a register write of the running round has replaced and that stay in force until the round boundary (R55). -/
  oldWeights : AL Nat
  placers : AL Placer
  /-- By cluster: the first clock in which it can take another block, where one was placed (R51). -/
  clusterNext : AL Nat
  eng : Engines
  mm : MemSys
  rep : Report
  keys : Keys
  jig : Jig
  chk : Checks
  fab : Fabric
  dcopy : List DcopyXfer
  /-- Timestamps of each function's queue of transfers (R174, R175). -/
  dcopyPts : AL (Tbl 40)
  /-- Host memory seen by DCOPY, by bus address (log entry 5). -/
  host : List Host.Cell
  /-- Debug stop records by VF (R289). -/
  stops : AL (List StopRec)
  /-- Way sweeps in progress: partition, slice (R303). -/
  sweeps : List (Nat × Nat)
  /-- Key domains of VFs exist up to this count (R315). -/
  vfs : Nat
  deriving DecidableEq, Repr

/-- The empty signature. -/
def Sig.zero : Sig := ⟨0, 0, 0, 0⟩

/-- Machine right after package reset (R249, R256, R184, R317): no task, block or domain but the PF's and management's, every die in directory mode for start-up, the package in the boot state.
Where the spec states no reset value, log entry 3 names the value. -/
def State.reset : State where
  clock := 0
  gsc := 0
  epoch := 0
  agenda := []
  inputs := []
  issue := none
  signals := []
  free := 0
  nextId := 0
  cur := 0
  curB := false
  regs := []
  tdm := []
  clustersNow := []
  tasks := []
  posts := []
  sends := []
  blocks := []
  warps := []
  gangs := []
  quarters := []
  oldWeights := []
  placers := []
  clusterNext := []
  eng := ⟨[], [], [], [], [], [], [], [], []⟩
  mm := { mem := [], dirty := [], tags := [], poison := [], macBad := [], treeBad := [], sideTop := [], sealDom := [], upsets := [], l1Bad := [], ctrCache := [], wts := [],
          rts := [], l1 := [], l2dom := [], l2way := [], places := [], reqs := [], tlb1 := [], tlb2 := [], tlbN := [], merges := [], mergeSeq := [],
          invals := [], dirMode := [(0, 1), (1, 1), (2, 1), (3, 1)], switching := [], sharers := [], high := [] }
  rep := ⟨[], [], [], [], [], [], 0, []⟩
  keys := ⟨[], 0, [], [], [], [], none, false⟩
  jig := ⟨[], [], [], [], []⟩
  chk := ⟨[], [], [], [], none⟩
  fab := ⟨[], none, [], 0, [], [], [], [], [], [], []⟩
  dcopy := []
  dcopyPts := []
  host := []
  stops := []
  sweeps := []
  vfs := 0

end Sys2Proof.Machine
end

