-- ==== Sys2Proof/Machine/Bits.lean ====
section
/-! DEFINITION. Tables, bit fields, bytes and the CRC-64 that the machine's definitions share. -/

set_option Elab.async false

namespace Sys2Proof.Machine

/-- The value listed for a key. -/
def AL.get? {α : Type} (l : AL α) (k : Nat) : Option α :=
  match l with
  | [] => none
  | (j, x) :: r => if j = k then some x else AL.get? r k

/-- The value listed for a key, or a default. -/
def AL.getD {α : Type} (l : AL α) (k : Nat) (d : α) : α := (AL.get? l k).getD d

/-- A list without a key. -/
def AL.del {α : Type} (l : AL α) (k : Nat) : AL α := l.filter fun e => e.1 != k

/-- Put an entry before the first larger key. -/
def AL.ins {α : Type} (k : Nat) (x : α) : AL α → AL α
  | [] => [(k, x)]
  | (j, y) :: r => if k < j then (k, x) :: (j, y) :: r else (j, y) :: AL.ins k x r

/-- A list with a key set. -/
def AL.put {α : Type} (l : AL α) (k : Nat) (x : α) : AL α := AL.ins k x (AL.del l k)

/-- Change the value of a listed key. -/
def AL.upd {α : Type} (l : AL α) (k : Nat) (f : α → α) : AL α :=
  match AL.get? l k with
  | some x => AL.put l k (f x)
  | none => l

/-- A key is listed. -/
def AL.has {α : Type} (l : AL α) (k : Nat) : Bool := (AL.get? l k).isSome

/-- The keys of a list. -/
def AL.keys {α : Type} (l : AL α) : List Nat := l.map (·.1)

/-- A word of a table; an unlisted key reads zero. -/
def Tbl.get {w : Nat} (t : Tbl w) (k : Nat) : BitVec w := (AL.get? t k).getD 0

/-- Write a word of a table; writing zero removes the entry. -/
def Tbl.set {w : Nat} (t : Tbl w) (k : Nat) (x : BitVec w) : Tbl w :=
  if x = 0 then AL.del t k else AL.put t k x

/-- Read n consecutive bytes. -/
def Tbl.bytes (t : Tbl 8) (a n : Nat) : List Nat := (List.range n).map fun i => (Tbl.get t (a + i)).toNat

/-- Write consecutive bytes. -/
def Tbl.setBytes (t : Tbl 8) (a : Nat) : List Nat → Tbl 8
  | [] => t
  | b :: r => Tbl.setBytes (Tbl.set t a (BitVec.ofNat 8 b)) (a + 1) r

/-- The canonical form of a table: keys strictly rising and no zero word. -/
def Tbl.wf {w : Nat} : Tbl w → Bool
  | [] => true
  | [(_, x)] => x != 0
  | (j, x) :: (k, y) :: r => x != 0 && j < k && Tbl.wf ((k, y) :: r)

/-- The canonical form of memory (State's list of cells). -/
def Memory.wf (m : List Host.Cell) : Bool := Tbl.wf m

/-- Bits [hi:lo] of a number. -/
def bits (x hi lo : Nat) : Nat := x / 2 ^ lo % 2 ^ (hi + 1 - lo)

/-- One bit of a number. -/
def bitOf (x i : Nat) : Bool := x / 2 ^ i % 2 == 1

/-- Replace bits [hi:lo] of a number. -/
def putBits (x hi lo v : Nat) : Nat :=
  x - bits x hi lo * 2 ^ lo + v % 2 ^ (hi + 1 - lo) * 2 ^ lo

/-- The number a little-endian list of bytes stands for (R7). -/
def leNat : List Nat → Nat
  | [] => 0
  | b :: r => b % 256 + 256 * leNat r

/-- The n little-endian bytes of a number (R7). -/
def leBytes : Nat → Nat → List Nat
  | 0, _ => []
  | n + 1, x => x % 256 :: leBytes n (x / 256)

/-- The signed reading of the low n bits. -/
def sext (n x : Nat) : Int := if x % 2 ^ n < 2 ^ (n - 1) then ((x % 2 ^ n : Nat) : Int) else ((x % 2 ^ n : Nat) : Int) - (2 ^ n : Nat)

/-- Wrap an integer to n bits. -/
def wrap (n : Nat) (x : Int) : Nat := (x % (2 ^ n : Nat)).toNat

/-- Lanes of a mask in ascending order. -/
def lanesOf (m : Word) : List Nat := (List.range 32).filter fun i => m.getLsbD i

/-- The mask of a list of lanes. -/
def maskOf (l : List Nat) : Word := l.foldl (fun m i => m ||| (1#32 <<< i)) 0

/-- One lane's bit of a word set or cleared. -/
def setLane (m : Word) (i : Nat) (b : Bool) : Word := if b then m ||| (1#32 <<< i) else m &&& ~~~(1#32 <<< i)

/-- The number of set bits among the low n. -/
def popc (n x : Nat) : Nat := (List.range n).foldl (fun c i => if bitOf x i then c + 1 else c) 0

/-- The first index below n with a property, counting up. -/
def firstIdx (n : Nat) (p : Nat → Bool) : Option Nat := (List.range n).find? p

/-- One bit of the CRC-64 of R225, most significant bit first. -/
def crcBit (c : DWord) : DWord :=
  if c.msb then (c <<< 1) ^^^ 0x42F0E1EBA9EA3693#64 else c <<< 1

/-- One byte of the CRC-64. -/
def crcByte (c : DWord) (b : Nat) : DWord :=
  let c0 := c ^^^ (BitVec.ofNat 64 (b % 256) <<< 56)
  crcBit (crcBit (crcBit (crcBit (crcBit (crcBit (crcBit (crcBit c0)))))))

/-- The CRC-64 of a list of bytes from a running value (R225). -/
def crcBytes (c : DWord) (l : List Nat) : DWord := l.foldl crcByte c

/-- Insert a number into an ascending list without repeats. -/
def insSorted (k : Nat) : List Nat → List Nat
  | [] => [k]
  | j :: r => if k < j then k :: j :: r else if k = j then j :: r else j :: insSorted k r

/-- An ascending list of numbers without repeats. -/
def sortNub (l : List Nat) : List Nat := l.foldl (fun a k => insSorted k a) []

/-- The larger pointwise of two timestamp tables over the four dies (R179). -/
def joinPts (a b : Tbl 40) : Tbl 40 :=
  [0, 1, 2, 3].foldl (fun t d => Tbl.set t d (if (Tbl.get a d).toNat < (Tbl.get b d).toNat then Tbl.get b d else Tbl.get a d)) []

/-- The element with the least key; ties go to the earlier one. -/
def minBy {α : Type} (key : α → Nat) : List α → Option α
  | [] => none
  | x :: r => some (r.foldl (fun m y => if key y < key m then y else m) x)

/-- Sum of a list. -/
def sumNat (l : List Nat) : Nat := l.foldl (· + ·) 0

/-- Raise a time for a die. -/
def ptsUp (t : Tbl 40) (d : Nat) (x : BitVec 40) : Tbl 40 := if (Tbl.get t d).toNat < x.toNat then Tbl.set t d x else t

end Sys2Proof.Machine
end

