-- ==== Sys2Proof/Machine/Flags.lean ====
section
/-! DEFINITION. Floating-point formats, exact values, and the one rounding with the flags it raises (R87, R88, R94 to R99). -/

set_option Elab.async false

namespace Sys2Proof.Machine

/-- A floating-point storage format (R87): exponent bits, fraction bits, bias; e4m3 has no infinity. -/
structure Fmt where
  eb : Nat
  mb : Nat
  bias : Nat
  hasInf : Bool
  deriving DecidableEq, Repr

def f64F : Fmt := ⟨11, 52, 1023, true⟩
def f32F : Fmt := ⟨8, 23, 127, true⟩
def f16F : Fmt := ⟨5, 10, 15, true⟩
def bf16F : Fmt := ⟨8, 7, 127, true⟩
def e4m3F : Fmt := ⟨4, 3, 7, false⟩
def e5m2F : Fmt := ⟨5, 2, 15, true⟩

/-- Width of a format in bits. -/
def Fmt.width (f : Fmt) : Nat := 1 + f.eb + f.mb
/-- The sign bit. -/
def Fmt.signBit (f : Fmt) : Nat := 2 ^ (f.eb + f.mb)
/-- Exponent of the smallest normal. -/
def Fmt.emin (f : Fmt) : Int := 1 - (f.bias : Int)
/-- The largest finite pattern (R88). -/
def Fmt.maxBits (f : Fmt) : Nat := if f.hasInf then (2 ^ f.eb - 1) * 2 ^ f.mb - 1 else 2 ^ (f.eb + f.mb) - 2
/-- The canonical NaN (R88). -/
def Fmt.nan (f : Fmt) : Nat := if f.hasInf then (2 ^ f.eb - 1) * 2 ^ f.mb + 2 ^ (f.mb - 1) else 2 ^ (f.eb + f.mb) - 1
/-- Infinity; NaN in its place for e4m3 (R95). -/
def Fmt.infBits (f : Fmt) (neg : Bool) : Nat :=
  if f.hasInf then (if neg then f.signBit else 0) + (2 ^ f.eb - 1) * 2 ^ f.mb else f.nan
/-- A zero of a sign. -/
def Fmt.zero (f : Fmt) (neg : Bool) : Nat := if neg then f.signBit else 0
/-- The largest finite value of a sign. -/
def Fmt.maxOf (f : Fmt) (neg : Bool) : Nat := f.zero neg + f.maxBits

/-- A value read exactly: a NaN with whether it signals, an infinity, or sign, magnitude m and exponent e of m × 2^e. -/
inductive FVal where
  | nan (sig : Bool)
  | inf (neg : Bool)
  | fin (neg : Bool) (m : Nat) (e : Int)
  deriving DecidableEq, Repr

/-- Read a pattern (R87, R88). -/
def Fmt.read (f : Fmt) (x : Nat) : FVal :=
  let neg := bitOf x (f.eb + f.mb)
  let ex := bits x (f.eb + f.mb - 1) f.mb
  let fr := x % 2 ^ f.mb
  if f.hasInf && ex == 2 ^ f.eb - 1 then (if fr = 0 then .inf neg else .nan (!bitOf fr (f.mb - 1)))
  else if !f.hasInf && ex == 2 ^ f.eb - 1 && fr == 2 ^ f.mb - 1 then .nan false
  else if ex = 0 then .fin neg fr (f.emin - f.mb)
  else .fin neg (2 ^ f.mb + fr) ((ex : Int) - f.bias - f.mb)

/-- Read an operand under MODE.FTZ: a subnormal is a zero of its sign (R96). -/
def Fmt.readZ (f : Fmt) (ftz : Bool) (x : Nat) : FVal :=
  match f.read x with
  | .fin neg m e => if ftz && m < 2 ^ f.mb then .fin neg 0 e else .fin neg m e
  | v => v

/-! Flags (R74, R97) -/

def flInvalid : Nat := 1
def flDivZero : Nat := 2
def flOverflow : Nat := 4
def flUnderflow : Nat := 8
def flInexact : Nat := 16

/-- An element result: its bits and its flags. -/
structure FRes where
  bits : Nat
  flags : Nat
  deriving DecidableEq, Repr

/-- Bits with no flag. -/
def FRes.exact (x : Nat) : FRes := ⟨x, 0⟩
/-- The canonical NaN with invalid. -/
def Fmt.bad (f : Fmt) : FRes := ⟨f.nan, flInvalid⟩

/-! Rounding (R95 to R97) -/

/-- The exponent of the leading bit of m × 2^e, m ≠ 0. -/
def leadExp (m : Nat) (e : Int) : Int := (Nat.log2 m : Int) + e

/-- m × 2^e rounded to a whole number of units 2^q: the count, and whether it is exact. RM as in R95. -/
def roundUnits (rm : Nat) (neg : Bool) (m : Nat) (e q : Int) : Nat × Bool :=
  if q ≤ e then (m * 2 ^ (e - q).toNat, true)
  else
    let sh := (q - e).toNat
    let k := m / 2 ^ sh
    let r := m % 2 ^ sh
    let half := 2 ^ (sh - 1)
    let up := match rm with
      | 0 => half < r || (r == half && k % 2 == 1)
      | 2 => r != 0 && !neg
      | 3 => r != 0 && neg
      | 4 => half ≤ r
      | _ => false
    (if up then k + 1 else k, r == 0)

/-- What an overflow delivers (R95). -/
def Fmt.overflowTo (f : Fmt) (rm : Nat) (neg : Bool) : Nat :=
  match rm with
  | 1 => f.maxOf neg
  | 2 => if neg then f.maxOf true else f.infBits false
  | 3 => if neg then f.infBits true else f.maxOf false
  | _ => f.infBits neg

/-- Round the non-zero value ±m × 2^e once to a format, with its flags; FTZ delivers a tiny result as zero (R95 to R97). -/
def Fmt.round (f : Fmt) (rm : Nat) (ftz : Bool) (neg : Bool) (m : Nat) (e : Int) : FRes :=
  let x := leadExp m e
  let (ku, _) := roundUnits rm neg m e (x - f.mb)
  let tiny := decide (leadExp ku (x - f.mb) < f.emin)
  let q := max (x - f.mb) (f.emin - f.mb)
  let (k, ex) := roundUnits rm neg m e q
  let pat := (q - (f.emin - f.mb)).toNat * 2 ^ f.mb + k
  if f.maxBits < pat then ⟨f.overflowTo rm neg, flOverflow + flInexact⟩
  else if tiny && ftz then ⟨f.zero neg, flUnderflow + flInexact⟩
  else ⟨f.zero neg + pat, if ex then 0 else if tiny then flUnderflow + flInexact else flInexact⟩

/-- The sign of an exact zero sum: that of the terms when they agree, otherwise + except under RD (R95, R449). -/
def zeroSign (rm : Nat) (allNeg allPos : Bool) : Bool := if allNeg then true else if allPos then false else rm == 3

/-- A signed whole number of units 2^e rounded to a format; z gives the sign of an exact zero. -/
def Fmt.roundInt (f : Fmt) (rm : Nat) (ftz : Bool) (x e : Int) (z : Bool) : FRes :=
  if x = 0 then .exact (f.zero z) else f.round rm ftz (x < 0) x.natAbs e

end Sys2Proof.Machine
end

