-- ==== Sys2Proof/Machine/Float.lean ====
section
/-! DEFINITION. Floating-point arithmetic: exact sums and products rounded once, division, square root, comparison, conversion, and the approximate functions (R94 to R103, R446, R449). -/

set_option Elab.async false

namespace Sys2Proof.Machine

/-! Exact values -/

/-- A signed multiple of a power of two: x × 2^e. -/
structure Dy where
  x : Int
  e : Int
  deriving DecidableEq, Repr

/-- The exact value of a finite operand. -/
def dyOf (neg : Bool) (m : Nat) (e : Int) : Dy := ⟨if neg then -(m : Int) else m, e⟩
/-- Exact product. -/
def Dy.mul (a b : Dy) : Dy := ⟨a.x * b.x, a.e + b.e⟩
/-- Exact sum. -/
def Dy.add (a b : Dy) : Dy :=
  let e := min a.e b.e
  ⟨a.x * 2 ^ (a.e - e).toNat + b.x * 2 ^ (b.e - e).toNat, e⟩
/-- Exact sum of a list. -/
def dySum (l : List Dy) : Dy := l.foldl Dy.add ⟨0, 0⟩
/-- a < b. -/
def Dy.lt (a b : Dy) : Bool := (a.add ⟨-b.x, b.e⟩).x < 0

/-! One rounding: add, multiply, fused multiply-add -/

/-- Product of two operands as a value, and whether it is 0 × ∞ (R97). -/
def FVal.mul (a b : FVal) : FVal × Bool :=
  match a, b with
  | .nan _, _ => (.nan false, false)
  | _, .nan _ => (.nan false, false)
  | .inf s, .inf t => (.inf (s != t), false)
  | .inf s, .fin t m _ => if m = 0 then (.nan false, true) else (.inf (s != t), false)
  | .fin s m _, .inf t => if m = 0 then (.nan false, true) else (.inf (s != t), false)
  | .fin s m e, .fin t n g => (.fin (s != t) (m * n) (e + g), false)

/-- A signalling NaN. -/
def FVal.signals : FVal → Bool
  | .nan s => s
  | _ => false
def FVal.isNan : FVal → Bool
  | .nan _ => true
  | _ => false
def FVal.isInf (neg : Bool) : FVal → Bool
  | .inf s => s == neg
  | _ => false
/-- The sign of a value. -/
def FVal.neg : FVal → Bool
  | .nan _ => false
  | .inf s => s
  | .fin s _ _ => s
def FVal.isZero : FVal → Bool
  | .fin _ m _ => m == 0
  | _ => false
/-- Exact value of a finite operand; 0 otherwise. -/
def FVal.dy : FVal → Dy
  | .fin s m e => dyOf s m e
  | _ => ⟨0, 0⟩
def FVal.negate : FVal → FVal
  | .nan s => .nan s
  | .inf s => .inf (!s)
  | .fin s m e => .fin (!s) m e

/-- The sum of values, rounded once to a format. `inv` is set where an operand already raises invalid (R94, R95, R97, R449). -/
def Fmt.sum (f : Fmt) (rm : Nat) (ftz : Bool) (inv : Bool) (l : List FVal) : FRes :=
  let i := if inv then flInvalid else 0
  if l.any (·.isNan) then ⟨f.nan, if l.any (·.isInf true) && l.any (·.isInf false) then flInvalid else i⟩
  else if l.any (·.isInf true) && l.any (·.isInf false) then f.bad
  else if l.any (·.isInf true) then ⟨f.infBits true, i⟩
  else if l.any (·.isInf false) then ⟨f.infBits false, i⟩
  else
    let d := dySum (l.map (·.dy))
    let allZero := l.all (·.isZero)
    let r := f.roundInt rm ftz d.x d.e (zeroSign rm (allZero && l.all (·.neg)) (allZero && l.all (!·.neg)))
    ⟨r.bits, r.flags ||| i⟩

/-- Add (R94). -/
def Fmt.addF (f : Fmt) (rm : Nat) (ftz : Bool) (a b : Nat) : FRes :=
  let x := f.readZ ftz a
  let y := f.readZ ftz b
  f.sum rm ftz (x.signals || y.signals) [x, y]

/-- Subtract. -/
def Fmt.subF (f : Fmt) (rm : Nat) (ftz : Bool) (a b : Nat) : FRes :=
  let x := f.readZ ftz a
  let y := (f.readZ ftz b).negate
  f.sum rm ftz (x.signals || y.signals) [x, y]

/-- Multiply. -/
def Fmt.mulF (f : Fmt) (rm : Nat) (ftz : Bool) (a b : Nat) : FRes :=
  let x := f.readZ ftz a
  let y := f.readZ ftz b
  let (p, bad) := x.mul y
  let inv := bad || x.signals || y.signals
  match p with
  | .nan _ => ⟨f.nan, if inv then flInvalid else 0⟩
  | .inf s => .exact (f.infBits s)
  | .fin s m e => if m = 0 then .exact (f.zero s) else f.round rm ftz s m e

/-- a × b + c or a × b − c, rounded once; 0 × ∞ raises invalid whatever c is (R94, R97). -/
def Fmt.fmaF (f : Fmt) (rm : Nat) (ftz : Bool) (sub : Bool) (a b c : Nat) : FRes :=
  let x := f.readZ ftz a
  let y := f.readZ ftz b
  let z0 := f.readZ ftz c
  let z := if sub then z0.negate else z0
  let (p, bad) := x.mul y
  f.sum rm ftz (bad || x.signals || y.signals || z.signals) [p, z]

/-! Division and square root -/

/-- Divide (R94, R97): the quotient to more bits than any format keeps, with a last bit that records a remainder. -/
def Fmt.divF (f : Fmt) (rm : Nat) (ftz : Bool) (a b : Nat) : FRes :=
  let x := f.readZ ftz a
  let y := f.readZ ftz b
  let inv := if x.signals || y.signals then flInvalid else 0
  match x, y with
  | .nan _, _ => ⟨f.nan, inv⟩
  | _, .nan _ => ⟨f.nan, inv⟩
  | .inf _, .inf _ => f.bad
  | .inf s, .fin t _ _ => .exact (f.infBits (s != t))
  | .fin s _ _, .inf t => .exact (f.zero (s != t))
  | .fin s m e, .fin t n g =>
    if n = 0 then (if m = 0 then f.bad else ⟨f.infBits (s != t), flDivZero⟩)
    else if m = 0 then .exact (f.zero (s != t))
    else
      let q := m * 2 ^ 120 / n
      let r := m * 2 ^ 120 % n
      f.round rm ftz (s != t) (2 * q + (if r = 0 then 0 else 1)) (e - g - 121)

/-- Integer square root, bit by bit from bit k - 1 down. -/
def isqrtGo (n : Nat) : Nat → Nat → Nat
  | 0, r => r
  | k + 1, r => let t := r + 2 ^ k; isqrtGo n k (if t * t ≤ n then t else r)

/-- The largest r with r² ≤ n. -/
def isqrt (n : Nat) : Nat := isqrtGo n (Nat.log2 n / 2 + 1) 0

/-- The square root of m × 2^e to at least 60 bits, with a last bit that records inexactness. -/
def sqrtDy (m : Nat) (e : Int) : Nat × Int :=
  let (m1, e1) := if e % 2 = 0 then (m, e) else (2 * m, e - 1)
  let big := m1 * 2 ^ 128
  let r := isqrt big
  (2 * r + (if r * r = big then 0 else 1), e1 / 2 - 65)

/-- Square root (R443). -/
def Fmt.sqrtF (f : Fmt) (rm : Nat) (ftz : Bool) (a : Nat) : FRes :=
  match f.readZ ftz a with
  | .nan s => ⟨f.nan, if s then flInvalid else 0⟩
  | .inf s => if s then f.bad else .exact (f.infBits false)
  | .fin s m e =>
    if m = 0 then .exact (f.zero s)
    else if s then f.bad
    else let (r, g) := sqrtDy m e; f.round rm ftz false r g

/-! Comparison, minimum and maximum (R98) -/

/-- The order of two values that are not NaN, −0 below +0 when `zeros` is set: less, equal, greater as -1, 0, 1. -/
def FVal.cmp (zeros : Bool) (a b : FVal) : Int :=
  match a, b with
  | .inf s, .inf t => if s = t then 0 else if s then -1 else 1
  | .inf s, _ => if s then -1 else 1
  | _, .inf t => if t then 1 else -1
  | a, b =>
    if a.dy.lt b.dy then -1 else if b.dy.lt a.dy then 1
    else if zeros && a.isZero && b.isZero && a.neg != b.neg then (if a.neg then -1 else 1) else 0

/-- Deliver an operand as a result: FTZ has already read a subnormal as zero. -/
def Fmt.deliver (f : Fmt) (ftz : Bool) (x : Nat) : Nat :=
  match f.readZ ftz x with
  | .nan _ => f.nan
  | .fin s 0 _ => f.zero s
  | _ => x

/-- Minimum or maximum (R98). -/
def Fmt.minmax (f : Fmt) (ftz : Bool) (mx : Bool) (a b : Nat) : FRes :=
  let x := f.readZ ftz a
  let y := f.readZ ftz b
  let inv := if x.signals || y.signals then flInvalid else 0
  if x.isNan && y.isNan then ⟨f.nan, inv⟩
  else if x.isNan then ⟨f.deliver ftz b, inv⟩
  else if y.isNan then ⟨f.deliver ftz a, inv⟩
  else
    let c := x.cmp true y
    ⟨f.deliver ftz (if mx then (if c < 0 then b else a) else (if 0 < c then b else a)), inv⟩

/-- Compare (R98, R454): condition 0 eq, 1 ne, 2 lt, 3 le, 4 gt, 5 ge, 6 ord, 7 unord. -/
def Fmt.compare (f : Fmt) (ftz : Bool) (cond a b : Nat) : Bool × Nat :=
  let x := f.readZ ftz a
  let y := f.readZ ftz b
  let inv := if x.signals || y.signals then flInvalid else 0
  if x.isNan || y.isNan then (cond == 1 || cond == 7, inv)
  else
    let c := x.cmp false y
    (match cond with
     | 0 => c == 0
     | 1 => c != 0
     | 2 => decide (c < 0)
     | 3 => decide (c ≤ 0)
     | 4 => decide (0 < c)
     | 5 => decide (0 ≤ c)
     | 6 => true
     | _ => false, inv)

/-! Conversions (R103) -/

/-- The fp8 formats saturate under SAT. -/
def Fmt.fp8 (f : Fmt) : Bool := f == e4m3F || f == e5m2F

/-- Round a finite non-zero value to a target under SAT and FTZ (R103). Of an integer source that overflows an fp8 target with SAT = 0, R103 says both that it follows the row of a float source, which is R95 by RM, and that it gives NaN or ±∞: under RZ, RU and RD the two differ, and the model follows R95 by RM (DESIGN CHOICE, log entry 86). -/
def Fmt.convRound (t : Fmt) (rm : Nat) (sat ftz : Bool) (neg : Bool) (m : Nat) (e : Int) : FRes :=
  let r := t.round rm ftz neg m e
  if r.flags / 4 % 2 = 1 && sat && t.fp8 then ⟨t.maxOf neg, flOverflow + flInexact⟩ else r

/-- Float to float (R103): from format f to format t. -/
def Fmt.toFloat (f t : Fmt) (rm : Nat) (sat ftz : Bool) (a : Nat) : FRes :=
  match f.readZ ftz a with
  | .nan s => ⟨t.nan, if s then flInvalid else 0⟩
  | .inf s =>
    if t == e4m3F then (if sat then ⟨t.maxOf s, flInvalid⟩ else ⟨t.nan, flInvalid⟩)
    else if t == e5m2F && sat && f != e5m2F then ⟨t.maxOf s, flInvalid⟩
    else .exact (t.infBits s)
  | .fin s m e => if m = 0 then .exact (t.zero s) else t.convRound rm sat ftz s m e

/-- Range of an integer type. -/
def intMin (n : Nat) (sg : Bool) : Int := if sg then -(2 ^ (n - 1) : Nat) else 0
def intMax (n : Nat) (sg : Bool) : Int := if sg then (2 ^ (n - 1) : Nat) - 1 else (2 ^ n : Nat) - 1
/-- Clamp to a type's range. -/
def clampInt (n : Nat) (sg : Bool) (x : Int) : Int := max (intMin n sg) (min (intMax n sg) x)
/-- The value of an element of an integer type. -/
def intVal (n : Nat) (sg : Bool) (x : Nat) : Int := if sg then sext n x else ((x % 2 ^ n : Nat) : Int)
/-- Deliver an exact integer: wrapped, or clamped under SAT (R101). -/
def intOut (n : Nat) (sg sat : Bool) (x : Int) : Nat := wrap n (if sat then clampInt n sg x else x)

/-- A value rounded to an integer, and whether it is exact. -/
def roundToInt (rm : Nat) (neg : Bool) (m : Nat) (e : Int) : Int × Bool :=
  let (k, ex) := roundUnits rm neg m e 0
  (if neg then -(k : Int) else k, ex)

/-- Float to integer (R103): clamped, with invalid, whatever SAT says. -/
def Fmt.toInt (f : Fmt) (n : Nat) (sg : Bool) (rm : Nat) (ftz : Bool) (a : Nat) : FRes :=
  match f.readZ ftz a with
  | .nan _ => ⟨0, flInvalid⟩
  | .inf s => ⟨wrap n (if s then intMin n sg else intMax n sg), flInvalid⟩
  | .fin s m e =>
    let (k, ex) := roundToInt rm s m e
    if k < intMin n sg || intMax n sg < k then ⟨wrap n (clampInt n sg k), flInvalid⟩
    else ⟨wrap n k, if ex then 0 else flInexact⟩

/-- Integer to float (R103). -/
def Fmt.ofInt (t : Fmt) (rm : Nat) (sat ftz : Bool) (x : Int) : FRes :=
  if x = 0 then .exact (t.zero false) else t.convRound rm sat ftz (x < 0) x.natAbs 0

/-! Approximate functions (R100) -/

/-- A value in fixed point with 160 fraction bits. -/
abbrev Fx := Int
def fxBits : Nat := 160
def fxOne : Fx := 2 ^ fxBits
def fxMul (a b : Fx) : Fx := a * b / 2 ^ fxBits
/-- A finite operand in fixed point. -/
def Dy.fx (d : Dy) : Fx := if -(fxBits : Int) ≤ d.e then d.x * 2 ^ (d.e + fxBits).toNat else d.x / 2 ^ (-(d.e + fxBits)).toNat

/-- ln 2 × 2^160. -/
def fxLn2 : Fx := 1013035739299659071135698605846798551586536899366
/-- 2π × 2^320, for arguments of any size. -/
def twoPi320 : Nat := 13420802360424337830311681948440006481608388178854297901454212848703426437343610760199000777828079

/-- Terms x^k / k! × sign, n of them from term t at index k, each index stepping by `st`. -/
def taylor (x2 : Fx) (neg : Bool) (st : Nat) : Nat → Nat → Fx → Fx
  | 0, _, _ => 0
  | n + 1, k, t =>
    let t1 := fxMul t x2 / (if st = 2 then ((k + 1) * (k + 2) : Nat) else (k + 1 : Nat))
    t + taylor x2 neg st n (k + st) (if neg then -t1 else t1)

/-- e^x for |x| < 1. -/
def fxExp (x : Fx) : Fx := taylor x false 1 45 0 fxOne
/-- Sine and cosine for |x| ≤ 7. -/
def fxSin (x : Fx) : Fx := taylor (fxMul x x) true 2 40 1 x
def fxCos (x : Fx) : Fx := taylor (fxMul x x) true 2 40 0 fxOne

/-- The fraction bits of log2 of y in [1, 2), n of them. -/
def log2Frac : Nat → Fx → Fx
  | 0, _ => 0
  | n + 1, y =>
    let y2 := fxMul y y
    if 2 * fxOne ≤ y2 then 2 ^ n + log2Frac n (y2 / 2) else log2Frac n y2

/-- The angle x reduced modulo 2π, in fixed point. -/
def reduceAngle (d : Dy) : Fx :=
  let x : Int := if -320 ≤ d.e then d.x * 2 ^ (d.e + 320).toNat else d.x / 2 ^ (-(d.e + 320)).toNat
  x % (twoPi320 : Int) / 2 ^ 160

/-- True value of an approximate function at a finite non-special operand, as a dyadic value, to at least 100 significant bits. 0 rcp, 1 rsq, 2 exp2, 3 log2, 4 sin, 5 cos. -/
def approxTrue (fn : Nat) (m : Nat) (e : Int) (d : Dy) : Dy :=
  match fn with
  | 0 => ⟨(if d.x < 0 then -1 else 1) * ((2 ^ 160 / m : Nat) : Int), -e - 160⟩
  | 1 =>
    let (r, g) := sqrtDy m e
    ⟨((2 ^ 260 / r : Nat) : Int), -260 - g⟩
  | 2 =>
    let x := d.fx
    let i := x / fxOne
    ⟨fxExp (fxMul (x - i * fxOne) fxLn2), i - fxBits⟩
  | 3 =>
    let k := leadExp m e
    let y : Fx := ((m * 2 ^ fxBits / 2 ^ Nat.log2 m : Nat) : Int)
    Dy.add ⟨k, 0⟩ ⟨log2Frac 140 y, -140⟩
  | 4 => ⟨fxSin (reduceAngle d), -(fxBits : Int)⟩
  | _ => ⟨fxCos (reduceAngle d), -(fxBits : Int)⟩

/-- The distance of two values is at most a bound. -/
def Dy.near (a b bound : Dy) : Bool :=
  let diff := a.add ⟨-b.x, b.e⟩
  !Dy.lt bound ⟨if diff.x < 0 then -diff.x else diff.x, diff.e⟩

/-- One unit in the last place of a format at a value, n of them. -/
def Fmt.ulps (f : Fmt) (n : Nat) (y : Dy) : Dy :=
  if y.x = 0 then ⟨n, f.emin - f.mb⟩ else ⟨n, max (leadExp y.x.natAbs y.e - f.mb) (f.emin - f.mb)⟩

/-- The bound R100 gives the f32 function at a true value y for an operand x. For vlog2 on [0.5, 2] R100 gives two bounds and does not say whether the absolute one joins or replaces the other: the model takes the tighter of the two (DESIGN CHOICE, log entry 89). -/
def approxBound (fn : Nat) (x y : Dy) : Dy :=
  match fn with
  | 0 => f32F.ulps 1 y
  | 1 => f32F.ulps 2 y
  | 2 => if x.lt ⟨-126, 0⟩ then ⟨1, -149⟩ else f32F.ulps 2 y
  | 3 =>
    let u := f32F.ulps 2 y
    let a : Dy := ⟨1, -22⟩
    if (x.lt ⟨1, -1⟩ || Dy.lt ⟨2, 0⟩ x) then u else if a.lt u then a else u
  | _ => if Dy.lt ⟨2 ^ 20, 0⟩ ⟨x.x.natAbs, x.e⟩ then ⟨1, -12⟩ else ⟨1, -21⟩

/-- The result is exact in the cases R100 lists: 1/2^k, 4^k, an integer argument of 2^x, log2 of 2^k, cos 0. -/
def Fmt.approxExact (f : Fmt) (fn : Nat) (m : Nat) (e : Int) (d : Dy) : Bool :=
  let pow2 := m == 2 ^ Nat.log2 m
  match fn with
  | 0 => pow2 && decide (f.emin ≤ -(leadExp m e))
  | 1 => pow2 && (leadExp m e) % 2 == 0
  | 2 => d.fx % fxOne == 0 && !d.lt ⟨-126, 0⟩
  | 3 => pow2
  | _ => false

/-- A finite result stays in the range of the true function (R100). -/
def approxRange (fn : Nat) (x : Dy) (r : FVal) : Bool :=
  match r with
  | .fin s m e =>
    match fn with
    | 0 => (s == decide (x.x < 0))
    | 1 => !s
    | 2 => !s
    | 3 => true
    | _ => !Dy.lt ⟨1, 0⟩ ⟨m, e⟩
  | _ => false

/-- The number of a function in an element format, for the device's values. -/
def Fmt.approxKey (f : Fmt) (fn : Nat) : Nat := fn * 64 + f.width + if f == bf16F then 1 else 0

/-- A value that is tiny in a format: rounded to its precision with an unbounded exponent range, below the smallest normal (R97). -/
def Fmt.isTiny (f : Fmt) (y : Dy) : Bool :=
  let x := leadExp y.x.natAbs y.e
  y.x == 0 || decide (leadExp (roundUnits 0 (y.x < 0) y.x.natAbs y.e (x - f.mb)).1 (x - f.mb) < f.emin)

/-- The device's value at an operand, where it meets R100; otherwise the nearest value, which meets it (log entry 7). It is a function of the operand alone: where the true value is not tiny, a subnormal value is taken under no setting of FTZ. -/
def Fmt.approxPick (f : Fmt) (fn : Nat) (x : Nat) (d y : Dy) (nearest : Nat) : Nat :=
  let c := (Config.approx (f.approxKey fn) (BitVec.ofNat 32 x)).toNat % 2 ^ f.width
  let b := if f == f32F then approxBound fn d y else (approxBound fn d y).add (f.ulps 1 y)
  let v := f.read c
  if (f.isTiny y || f.readZ true c == v) && approxRange fn d v && v.dy.near y b then c else nearest

/-- An approximate function at a finite non-zero operand: the exact cases first, then overflow, then the device's value. Outside the exact cases the result counts as inexact, and so a tiny one raises underflow, whether or not a value of the format equals it (R97, R100). -/
def Fmt.approxFin (f : Fmt) (fn : Nat) (ftz : Bool) (x m : Nat) (e : Int) (d : Dy) : FRes :=
  let y := approxTrue fn m e d
  if f.approxExact fn m e d then f.roundInt 0 ftz (match fn with | 0 => (if d.x < 0 then -1 else 1) | 1 => 1 | 2 => 1 | _ => leadExp m e)
      (match fn with | 0 => -(leadExp m e) | 1 => -(leadExp m e) / 2 | 2 => d.fx / fxOne | _ => 0) false
  else
    let n := f.roundInt 0 ftz y.x y.e (d.x < 0)
    if n.flags / 4 % 2 = 1 then ⟨n.bits, n.flags ||| flInexact⟩
    else if !f.isTiny y then ⟨f.approxPick fn x d y n.bits, flInexact⟩
    else if ftz then ⟨f.zero (y.x < 0), flUnderflow + flInexact⟩
    else ⟨f.approxPick fn x d y n.bits, flUnderflow + flInexact⟩

/-- An approximate function on one element (R100). -/
def Fmt.approxF (f : Fmt) (fn : Nat) (ftz : Bool) (x : Nat) : FRes :=
  match f.readZ ftz x with
  | .nan s => ⟨f.nan, if s then flInvalid else 0⟩
  | .inf s =>
    match fn with
    | 0 => .exact (f.zero s)
    | 1 => if s then f.bad else .exact (f.zero false)
    | 2 => .exact (if s then f.zero false else f.infBits false)
    | 3 => if s then f.bad else .exact (f.infBits false)
    | _ => f.bad
  | .fin s m e =>
    if m = 0 then
      match fn with
      | 0 => ⟨f.infBits s, flDivZero⟩
      | 1 => ⟨f.infBits s, flDivZero⟩
      | 2 => f.round 0 ftz false 1 0
      | 3 => ⟨f.infBits true, flDivZero⟩
      | 4 => .exact (f.zero s)
      | _ => f.round 0 ftz false 1 0
    else if s && (fn == 1 || fn == 3) then f.bad
    else if fn = 2 && !Dy.lt (dyOf s m e) ⟨128, 0⟩ then ⟨f.infBits false, flOverflow + flInexact⟩
    else if fn = 2 && Dy.lt (dyOf s m e) ⟨-400, 0⟩ then
      let c := (Config.approx (f.approxKey fn) (BitVec.ofNat 32 x)).toNat % 2 ^ f.width
      ⟨if !ftz && c ≤ 1 then c else 0, flUnderflow + flInexact⟩
    else f.approxFin fn ftz x m e (dyOf s m e)

end Sys2Proof.Machine
end

