-- ==== Sys2Proof/Machine/Regs.lean ====
section
/-! DEFINITION. The host-visible registers of BAR0 (R292 to R294): their reset values, the fields a plain write changes, and named readings of their fields. -/

set_option Elab.async false

namespace Sys2Proof.Machine

/-- Block identifiers of R294. -/
def blkPostwin : Nat := 0x01
def blkXlate : Nat := 0x02
def blkStall : Nat := 0x03
def blkDebug : Nat := 0x04
def blkErr : Nat := 0x05
def blkDcopy : Nat := 0x06
def blkPfxlate : Nat := 0x10
def blkKey : Nat := 0x11
def blkPart : Nat := 0x12
def blkFabric : Nat := 0x13
def blkRas : Nat := 0x14
def blkNotice : Nat := 0x15
def blkBoot : Nat := 0x16

/-- Key of a register in the table. -/
def regKey (fn blk off : Nat) : Nat := (fn * 32 + blk) * 2 ^ 26 + off

/-- Offset of partition p's block in PART (R295). -/
def partOff (p : Nat) : Nat := 0x10000 * (p + 1)

/-- Offset of fabric table t (R305). -/
def fabOff (t : Nat) : Nat := 0x10000 * (t + 1)

/-- RCTL at reset: STOP set (R153). -/
def rctlReset : DWord := BitVec.ofNat 64 (2 ^ 17)

/-- An offset of PART lies in a partition's block, of the 24 (R295). -/
def inPartBlock (off : Nat) : Bool := 0x10000 ≤ off && off < 0x10000 * 25

/-- The reset value of a register (R143, R153, R178, R223, R295, R305); every register not named here resets to zero. -/
def regReset (blk off : Nat) : DWord :=
  if blk = blkXlate then (if off = 0x58 ∨ off = 0x78 then rctlReset else 0)
  else if blk = blkPfxlate then
    (if off = 0x18 ∨ off = 0x38 then rctlReset
     else if off = 0x48 then 16
     else if 0x10000 ≤ off ∧ off < 0x18000 ∧ off % 0x20 = 0x18 then 16 else 0)
  else if blk = blkNotice then (if off = 0x18 then rctlReset else 0)
  else if blk = blkPart then
    (if 0x2000 ≤ off ∧ off < 0x4000 ∧ off % 8 = 0 then 0x1000
     else if 0x4000 ≤ off ∧ off < 0x5000 ∧ off % 4 = 0 then 64
     else if inPartBlock off ∧ off % 0x10000 = 0x1000 then 8
     else if inPartBlock off ∧ off % 0x10000 = 0x2000 then BitVec.ofNat 64 (8 + 4 * 2 ^ 48) else 0)
  else if blk = blkFabric then
    (if off = 0x10 then 2000000
     else if 0x10000 ≤ off ∧ off < 0x10000 * 17 ∧ off % 0x10000 = 0x8100 then BitVec.ofNat 64 (32 * 4 + 40 * 1024) else 0)
  else 0

/-- Read a register. -/
def State.reg (s : State) (fn blk off : Nat) : DWord := (AL.get? s.regs (regKey fn blk off)).getD (regReset blk off)

/-- Set a register. -/
def State.setReg (s : State) (fn blk off : Nat) (x : DWord) : State :=
  { s with regs := AL.put s.regs (regKey fn blk off) x }

/-- A field [hi:lo] of a register. -/
def State.regBits (s : State) (fn blk off hi lo : Nat) : Nat := bits (s.reg fn blk off).toNat hi lo

/-- Set a field of a register. -/
def State.setRegBits (s : State) (fn blk off hi lo v : Nat) : State :=
  s.setReg fn blk off (BitVec.ofNat 64 (putBits (s.reg fn blk off).toNat hi lo v))

/-- Add to a register that saturates at n bits. -/
def State.regSat (s : State) (fn blk off n k : Nat) : State :=
  s.setReg fn blk off (BitVec.ofNat 64 (min (2 ^ n - 1) ((s.reg fn blk off).toNat + k)))

/-- BSTATE (R317). -/
def State.bstate (s : State) : Nat := s.regBits Config.pf blkBoot 0x100008 2 0

/-- A block is active: its driver accepted major version 1 (R293), and outside BOOT and ERR the package has left the boot state (R317). -/
def State.blkActive (s : State) (fn blk : Nat) : Bool :=
  s.regBits fn 0 blk 7 0 == 1 && (s.bstate == 3 || blk == blkBoot || blk == blkErr)

/-- Partition of a VF: VPART where VV is set (R295). -/
def State.partOf (s : State) (vf : Nat) : Option Nat :=
  if s.regBits Config.pf blkPart (0x2000 + 8 * vf) 5 5 = 1 then some (s.regBits Config.pf blkPart (0x2000 + 8 * vf) 4 0) else none

/-- The partition number a VF's records and accesses carry; 0 where it has none. -/
def State.partD (s : State) (vf : Nat) : Nat := (s.partOf vf).getD 0

/-- Issue weight (R55). -/
def State.weight (s : State) (vf : Nat) : Nat := s.regBits Config.pf blkPart (0x2000 + 8 * vf) 15 8
/-- The issue weight in force: a change waits for the round boundary (R55). -/
def State.weightNow (s : State) (vf : Nat) : Nat := AL.getD s.oldWeights vf (s.weight vf)
/-- Keep a VF's weight in force for the rest of the round, whatever its register holds next (R55). -/
def State.keepWeight (s : State) (vf : Nat) : State := { s with oldWeights := AL.put s.oldWeights vf (s.weightNow vf) }
/-- Live-task quota (R40). -/
def State.quota (s : State) (vf : Nat) : Nat := s.regBits Config.pf blkPart (0x4000 + 4 * vf) 15 0
/-- Partition in service. -/
def State.partEn (s : State) (p : Nat) : Bool := s.regBits Config.pf blkPart (partOff p) 0 0 == 1
/-- STRICT of a partition (R296). -/
def State.partStrict (s : State) (p : Nat) : Bool := s.regBits Config.pf blkPart (partOff p) 1 1 == 1
/-- Clusters of a partition in force (R295). -/
def State.clustersOf (s : State) (p : Nat) : Nat := AL.getD s.clustersNow p 0
/-- Slice-hash seed of a domain (R299). -/
def State.seedOf (s : State) (dom : Nat) : DWord :=
  if dom < Config.vfs then
    match s.partOf dom with
    | some p => s.reg Config.pf blkPart (partOff p + 0x10)
    | none => s.reg Config.pf blkPart 0x40
  else s.reg Config.pf blkPart 0x40
/-- LEASE of the partition of a VF (R178). -/
def State.lease (s : State) (vf : Nat) : Nat := s.regBits Config.pf blkPart (partOff (s.partD vf) + 0x1000) 7 0
/-- Demerit threshold (R223). -/
def State.thresh (s : State) (p : Nat) : Nat := s.regBits Config.pf blkPart (partOff p + 0x2000) 7 0
/-- Ways in sixteenths that held versions may occupy (R223, R236): 1/8, 3/16 or 1/4 of 16 ways. -/
def State.clampSixteenths (s : State) (p : Nat) : Nat := s.regBits Config.pf blkPart (partOff p + 0x2000) 9 8 + 2
/-- Clamp age limit in clocks; 0 none (R223). -/
def State.ageLimit (s : State) (p : Nat) : Nat := s.regBits Config.pf blkPart (partOff p + 0x2000) 47 16 * 65536
/-- Bytes of a log slot (R228). -/
def State.logSlot (s : State) (p : Nat) : Nat := 2 ^ (16 + s.regBits Config.pf blkPart (partOff p + 0x2000) 51 48)
/-- Selection seed (R222). -/
def State.chkSeed (s : State) (p : Nat) : Nat := (s.reg Config.pf blkPart (partOff p + 0x2008)).toNat
/-- LOG2 of the check region (R223). -/
def State.checkLog2 (s : State) (p : Nat) : Nat := s.regBits Config.pf blkPart (partOff p + 0x2010) 5 0
/-- BASE of the check region (R223). -/
def State.checkBase (s : State) (p : Nat) : Nat := s.regBits Config.pf blkPart (partOff p + 0x2010) 51 12 * 4096
/-- The partition has a check region (R223). -/
def State.hasCheckRegion (s : State) (p : Nat) : Bool := 20 ≤ s.checkLog2 p && s.checkLog2 p ≤ 40
/-- Jig quota and enable (R275). -/
def State.jquota (s : State) (p : Nat) : Nat := s.regBits Config.pf blkPart (partOff p + 0x3000) 15 0
def State.jigEn (s : State) (p : Nat) : Bool := s.regBits Config.pf blkPart (partOff p + 0x3000) 16 16 == 1
/-- Guest root (R143). -/
def State.groot (s : State) (vf : Nat) : Nat := s.regBits vf blkXlate 0 51 12 * 4096
/-- Host root of a VF (R143). -/
def State.hroot (s : State) (vf : Nat) : Nat := s.regBits Config.pf blkPfxlate (0x10000 + 0x20 * vf) 51 12 * 4096
/-- Reporting weight of a function (R157). -/
def State.rwgt (s : State) (fn : Nat) : Nat :=
  if fn = Config.pf then s.regBits fn blkPfxlate 0x48 7 0 else s.regBits Config.pf blkPfxlate (0x10018 + 0x20 * fn) 7 0
/-- A CXL range of a partition covers a frame address (R295). -/
def State.cxlCovers (s : State) (p spa : Nat) : Bool :=
  (List.range 4).any fun i =>
    s.regBits Config.pf blkPart (partOff p + 0x40 + 16 * i) 0 0 == 1 &&
    s.regBits Config.pf blkPart (partOff p + 0x40 + 16 * i) 51 12 * 4096 ≤ spa &&
    spa / 4096 ≤ s.regBits Config.pf blkPart (partOff p + 0x48 + 16 * i) 51 12
/-- PKGID and PV (R305). -/
def State.pkgid (s : State) : Nat := s.regBits Config.pf blkFabric 0 12 0
def State.pv (s : State) : Bool := s.regBits Config.pf blkFabric 0 13 13 == 1
/-- Order point and hold limit (R305). -/
def State.ordpt (s : State) : Nat := s.regBits Config.pf blkFabric 8 12 0
def State.linkto (s : State) : Nat := s.regBits Config.pf blkFabric 0x10 31 0
/-- Way mask of slice k in a partition (R295). -/
def State.ways (s : State) (p k : Nat) : Nat := s.regBits Config.pf blkPart (partOff p + 0x400 + 2 * k) 15 0
/-- Debugging enabled for a VF (R289). -/
def State.den (s : State) (vf : Nat) : Bool := s.regBits vf blkDebug 0x80 0 0 == 1
def State.stopBlkOn (s : State) (vf : Nat) : Bool := s.regBits vf blkDebug 0x80 1 1 == 1
/-- PKEY of a VF's partition (R309). -/
def State.pkey (s : State) (vf : Nat) : Nat :=
  match s.partOf vf with
  | some p => s.regBits Config.pf blkPart (partOff p + 0x18) 31 16
  | none => 0
/-- Now, as a number. -/
def State.now (s : State) : Nat := s.clock.toNat

/-- Where a ring's registers stand: rings 2 f and 2 f + 1 are the retryable and terminal rings of function f, ring 2050 the notice ring (R153, R313). -/
def ringPlace (r : Nat) : Nat × Nat × Nat :=
  if r = 2050 then (Config.pf, blkNotice, 0)
  else if r / 2 = Config.pf then (Config.pf, blkPfxlate, 0x20 * (r % 2))
  else (r / 2, blkXlate, 0x40 + 0x20 * (r % 2))

/-- Ring registers (R153). -/
def State.ringReg (s : State) (r k : Nat) : Nat := let (f, b, o) := ringPlace r; (s.reg f b (o + 8 * k)).toNat
def State.setRingReg (s : State) (r k v : Nat) : State := let (f, b, o) := ringPlace r; s.setReg f b (o + 8 * k) (BitVec.ofNat 64 v)
/-- log2 of the ring's size. -/
def State.ringLog (s : State) (r : Nat) : Nat := bits (s.ringReg r 0) 4 0
/-- The ring takes no records. -/
def State.ringStopped (s : State) (r : Nat) : Bool := bitOf (s.ringReg r 3) 17
/-- Records in the ring, modulo 2^32 (R153). -/
def State.ringCount (s : State) (r : Nat) : Nat := (s.ringReg r 1 + 2 ^ 32 - s.ringReg r 2 % 2 ^ 32) % 2 ^ 32
/-- The ring can take a record. -/
def State.ringOpen (s : State) (r : Nat) : Bool :=
  !s.ringStopped r && s.ringCount r != 2 ^ s.ringLog r && !AL.has s.rep.kept r

/-- The fields a plain register write changes, as a mask (R9, R10): none for a register with behaviour of its own or an offset not listed. -/
def writeMask (fn blk off : Nat) : Nat :=
  let rel := off % 0x10000
  if blk = blkPostwin then (if off < 0x100 ∧ off % 8 = 0 then 2 ^ 64 - 1 else if off = 0x110 then 2 ^ 32 - 1 else 0)
  else if blk = blkXlate then
    (if off = 0 then 2 ^ 52 - 2 ^ 12 else if off = 0x20 ∨ off = 0x28 then 2 ^ 32 - 1
     else if off = 0x50 ∨ off = 0x70 then 2 ^ 32 - 1 else if off = 0x58 ∨ off = 0x78 then 2 ^ 11 - 1 + 2 ^ 16 else 0)
  else if blk = blkStall then (if off = 0 then 1 else 0)
  else if blk = blkDebug then
    (if off < 0x80 then (if off % 16 = 0 then 2 ^ 57 - 3 else if off % 16 = 8 then 2 ^ 21 - 1 else 0)
     else if off = 0x80 then 3 else 0)
  else if blk = blkDcopy then
    (if off = 0 then 2 ^ 64 - 2 ^ 6 else if off = 8 then 2 ^ 52 - 2 ^ 6
     else if off = 0x10 ∧ fn = Config.pf then 2 ^ 52 - 2 ^ 6 else if off = 0x18 then 2 ^ 31 - 1 else 0)
  else if blk = blkPfxlate then
    (if off = 0x10 ∨ off = 0x30 ∨ off = 0x50 then 2 ^ 32 - 1 else if off = 0x18 ∨ off = 0x38 then 2 ^ 11 - 1 + 2 ^ 16
     else if off = 0x48 then 255
     else if 0x10000 ≤ off ∧ off < 0x18000 then (if off % 0x20 = 0 then 2 ^ 52 - 2 ^ 12 else if off % 0x20 = 0x18 then 255 else 0)
     else 0)
  else if blk = blkKey then (if off = 8 then 2 ^ 52 - 2 ^ 12 else if off = 0x10 then 2 ^ 34 - 1 else 0)
  else if blk = blkPart then
    (if off < 0x40 then 0x9F
     else if 0x2000 ≤ off ∧ off < 0x4000 ∧ off % 8 = 0 then 0xFF3F
     else if !inPartBlock off then 0
     else if rel = 0 then 3
     else if rel = 0x18 then 2 ^ 32 - 1
     else if 0x40 ≤ rel ∧ rel < 0x80 then (if rel % 16 = 0 then 2 ^ 52 - 2 ^ 12 + 1 else if rel % 16 = 8 then 2 ^ 52 - 2 ^ 12 else 0)
     else if rel = 0x2000 then 2 ^ 52 - 1 - 0xFC00
     else if rel = 0x2008 then 2 ^ 64 - 1
     else if rel = 0x2010 then 2 ^ 52 - 2 ^ 12 + 63
     else if rel = 0x4000 then 1
     else 0)
  else if blk = blkFabric then
    (if off = 0 then 2 ^ 14 - 1 else if off = 8 then 2 ^ 13 - 1 else if off = 0x10 then 2 ^ 32 - 1 else if off = 0x18 then 63
     else if off < 0x10000 ∨ 0x10000 * 18 ≤ off then 0
     else if rel < 0x8000 then (if rel % 4 = 0 then (if off / 0x10000 = 17 then 2 ^ 22 - 1 else 2 ^ 21 - 1) else 0)
     else if rel < 0x8080 then (if rel % 2 = 0 ∧ off / 0x10000 < 17 then 2 ^ 16 - 1 else 0)
     else if rel = 0x8100 ∧ off / 0x10000 < 17 then 63 * 2 ^ 10
     else 0)
  else if blk = blkRas then
    (if 0x1000 ≤ off ∧ off < 0x1000 + 8 * Config.cores ∧ off % 8 = 0 then 2 ^ 64 - 1 - 0xFC00 else 0)
  else if blk = blkNotice then (if off = 0x10 then 2 ^ 32 - 1 else if off = 0x18 then 2 ^ 11 - 1 + 2 ^ 16 else 0)
  else if blk = blkBoot then (if off < 0x100000 ∧ off % 8 = 0 then 2 ^ 64 - 1 else 0)
  else 0

/-- The bits of the four registers of a ring that a read returns, by offset from the ring's base (R153). -/
def ringReadMask (o : Nat) : Nat :=
  if o = 0 then 2 ^ 52 - 2 ^ 12 + 31 else if o = 8 ∨ o = 0x10 then 2 ^ 32 - 1 else if o = 0x18 then 2 ^ 11 - 1 + 3 * 2 ^ 16 else 0

/-- The bits a read returns: the listed fields with access RW, RO and W1C; a WO field, a reserved field and an offset not listed read zero (R9, R10, R48, R143, R153, R178, R221, R223, R244, R258, R275, R289, R295, R305, R313, R316 to R318). -/
def readMask (fn blk off : Nat) : Nat :=
  let rel := off % 0x10000
  if blk = blkPostwin then
    (if off < 0x100 ∧ off % 8 = 0 then 2 ^ 64 - 1 else if off = 0x108 then 2 ^ 25 - 1 else if off = 0x110 ∨ off = 0x118 then 2 ^ 32 - 1 else 0)
  else if blk = blkXlate then
    (if off = 0 then 2 ^ 52 - 2 ^ 12 else if off = 0x10 ∨ off = 0x20 ∨ off = 0x28 then 2 ^ 32 - 1
     else if 0x40 ≤ off ∧ off < 0x80 then ringReadMask (off % 0x20) else 0)
  else if blk = blkStall then (if off = 0 then 1 else if 0x100 ≤ off ∧ off < 0x900 ∧ off % 8 = 0 then 2 ^ 64 - 1 else 0)
  else if blk = blkDebug then
    (if off < 0x80 then (if off % 16 = 0 then 2 ^ 57 - 3 else if off % 16 = 8 then 2 ^ 21 - 1 else 0)
     else if off = 0x80 then 3 else if off = 0x90 then 63 else if off = 0x98 then 2 ^ 64 - 1 else 0)
  else if blk = blkErr then
    (if (if fn = Config.pf then 0x1E0 else 0x20) ≤ off then 0
     else if off % 0x20 = 0 then 2 ^ 64 - 2 ^ 32 + 2 ^ 19 - 1 else if off % 0x20 = 8 then 2 ^ 52 - 1
     else if off % 0x20 = 0x10 then 2 ^ 64 - 1 else if off % 0x20 = 0x18 then 2 ^ 32 - 1 else 0)
  else if blk = blkDcopy then
    (if off = 0 then 2 ^ 64 - 2 ^ 6 else if off = 8 then 2 ^ 52 - 2 ^ 6
     else if off = 0x10 ∧ fn = Config.pf then 2 ^ 52 - 2 ^ 6 else if off = 0x18 then 2 ^ 31 - 1
     else if off = 0x20 then 2 ^ 56 - 2 ^ 32 + 2 ^ 25 - 1 else 0)
  else if blk = blkPfxlate then
    (if off < 0x40 then ringReadMask (off % 0x20) else if off = 0x48 then 255 else if off = 0x50 then 2 ^ 32 - 1
     else if 0x10000 ≤ off ∧ off < 0x18000 then
       (if off % 0x20 = 0 then 2 ^ 52 - 2 ^ 12 else if off % 0x20 = 0x10 then 2 ^ 32 - 1 else if off % 0x20 = 0x18 then 255 else 0)
     else 0)
  else if blk = blkKey then
    (if off = 8 then 2 ^ 52 - 2 ^ 12 else if off = 0x10 then 2 ^ 34 - 1 else if off = 0x18 then 2 ^ 25 - 1 else 0)
  else if blk = blkPart then
    (if off < 0x40 then 0x9F else if off = 0x40 then 2 ^ 64 - 1
     else if 0x2000 ≤ off ∧ off < 0x4000 ∧ off % 8 = 0 then 0xFF3F
     else if 0x4000 ≤ off ∧ off < 0x5000 ∧ off % 4 = 0 then 2 ^ 16 - 1
     else if !inPartBlock off then 0
     else if rel = 0 then 15 else if rel = 8 then 2 ^ 32 - 1 else if rel = 0x10 then 2 ^ 64 - 1 else if rel = 0x18 then 2 ^ 32 - 1
     else if 0x40 ≤ rel ∧ rel < 0x80 then (if rel % 16 = 0 then 2 ^ 52 - 2 ^ 12 + 1 else if rel % 16 = 8 then 2 ^ 52 - 2 ^ 12 else 0)
     else if 0x400 ≤ rel ∧ rel < 0x580 ∧ rel % 2 = 0 then 2 ^ 16 - 1
     else if rel = 0x1000 then 255
     else if rel = 0x2000 then 2 ^ 52 - 1 - 0xFC00 else if rel = 0x2008 then 2 ^ 64 - 1 else if rel = 0x2010 then 2 ^ 52 - 2 ^ 12 + 63
     else if rel = 0x3000 then 2 ^ 17 - 1 else if 0x3010 ≤ rel ∧ rel < 0x3040 ∧ rel % 8 = 0 then 2 ^ 64 - 1
     else if rel = 0x4000 then 1 else if 0x4100 ≤ rel ∧ rel < 0x4900 ∧ rel % 8 = 0 then 2 ^ 64 - 1
     else 0)
  else if blk = blkFabric then
    (if off = 0 then 2 ^ 14 - 1 else if off = 8 then 2 ^ 13 - 1 else if off = 0x10 then 2 ^ 32 - 1 else if off = 0x18 then 63 + 128
     else if off < 0x10000 ∨ 0x10000 * 18 ≤ off then 0
     else if rel < 0x8000 then (if rel % 4 = 0 then (if off / 0x10000 = 17 then 2 ^ 22 - 1 else 2 ^ 21 - 1) else 0)
     else if rel < 0x8080 then (if rel % 2 = 0 ∧ off / 0x10000 < 17 then 2 ^ 16 - 1 else 0)
     else if rel = 0x8100 ∧ off / 0x10000 < 17 then 2 ^ 24 - 1
     else if rel = 0x8108 then 2 ^ 64 - 1
     else if off / 0x10000 = 17 ∧ 0x9000 ≤ rel ∧ rel < 0x9800 ∧ rel % 8 = 0 then 2 ^ 64 - 1
     else 0)
  else if blk = blkRas then
    (if off < 32 ∧ off % 8 = 0 then 2 ^ 56 - 2 ^ 8 + 15
     else if 0x1000 ≤ off ∧ off < 0x1000 + 8 * Config.cores ∧ off % 8 = 0 then 2 ^ 64 - 1 - 0xFC00 else 0)
  else if blk = blkNotice then (if off < 0x20 then ringReadMask off else 0)
  else if blk = blkBoot then
    (if off = 0x100008 then 2 ^ 32 - 2 ^ 16 + 7 else if off = 0x100010 then 2 ^ 32 - 1
     else if 0x100018 ≤ off ∧ off < 0x100058 ∧ off % 8 = 0 then 2 ^ 40 - 1 else 0)
  else 0

/-- Bytes of a function's BAR0 (R292). -/
def barBytes (fn : Nat) : Nat := if fn = Config.pf then 2 ^ 26 else 2 ^ 20

/-- The functions that carry a block (R294). -/
def carries (fn blk : Nat) : Bool :=
  if fn = Config.pf then blk == blkErr || blk == blkDcopy || (0x10 ≤ blk && blk ≤ 0x16)
  else fn < Config.vfs && 1 ≤ blk && blk ≤ 6

/-- Merge a written word into a register under a mask. -/
def mergeMask (old new mask : Nat) : Nat := (old &&& (2 ^ 64 - 1 - mask)) ||| (new &&& mask)

end Sys2Proof.Machine
end

