-- ==== Sys2Proof/Machine/Ops.lean ====
section
/-! DEFINITION. The warp an instruction acts on, its registers, results, traps and the signatures they fold into.

Every meaning reads and writes the machine through the operations of this file. -/

set_option Elab.async false

namespace Sys2Proof.Machine

/-- An empty stack entry. -/
def StackEntry.zero : StackEntry := ⟨0, 0, 0, 0, 0, 0⟩

/-- A path that has ended. -/
def Path.idle : Path where
  pc := 0
  mask := 0
  mode := Config.launchMode
  fmt := 0
  stack := []
  spilled := 0
  st := .ended
  held := false
  waited := false
  since := 0
  promoted := false
  lastIssue := 0
  windows := []
  reads := []
  sig := Sig.zero
  folds := []
  logSeq := 0
  accs := 0
  passBp := none
  fetched := []

/-- A warp with every register at its launch value (R63) and no live lane. -/
def Warp.idle : Warp where
  bid := 0
  idx := 0
  v := []
  s := []
  p := []
  b := []
  q := []
  live := 0
  split := false
  pathA := Path.idle
  pathB := Path.idle
  top := StackEntry.zero
  helper := false
  fpflags := 0
  role := 0
  allot := 8
  prio := 0
  xpc := 0
  xfirst := 0
  xaddr := 0
  xcode := 0
  inHandler := false
  handlerB := false
  xmode := 0
  xfmt := 0
  handlerDepth := 0
  point := none
  recipe := false
  pts := []
  pend := []
  slow := []
  acc := Sig.zero
  roleSince := 0
  dbg := false
  stepping := none
  saved := none
  exited := false

/-- A block that runs nothing. -/
def Block.idle : Block where
  vf := 0
  task := 0
  lin := 0
  kind := .plain
  origin := 0
  core := 0
  slot := 0
  st := .resident
  nwarps := 0
  val := 0
  started := 0
  banks := 0
  tiles := []
  gwCount := 0
  tdirty := []
  bars := []
  queues := []
  pair := .none
  bstage := []
  bsaved := []
  set := ⟨[], [], []⟩
  unver := false
  log := []
  logBytes := 0
  logAt := 0
  logSize := 0
  sig := Sig.zero
  diverged := false
  heldAt := 0
  atoms := false
  pre := none
  debugHold := false
  epoch := 0
  stopBlk := []
  phase := 0
  waitFrom := 0
  image := []
  ctxWait := []
  tenonCore := 0
  dowelCore := 0
  tenonSig := none
  voidCore := none
  tagView := []

/-! Warps, paths and blocks -/

/-- The block takes a core slot (R28). -/
def Block.onCore (b : Block) : Bool := b.st == .resident || b.st == .starting || b.st == .saving

/-- One of a warp's two paths. -/
def Warp.path (w : Warp) (b : Bool) : Path := if b then w.pathB else w.pathA
/-- Set one of a warp's two paths. -/
def Warp.setPath (w : Warp) (b : Bool) (p : Path) : Warp := if b then { w with pathB := p } else { w with pathA := p }

/-- A warp by identifier. -/
def State.warpOf (s : State) (wid : Nat) : Warp := AL.getD s.warps wid Warp.idle
/-- Set a warp by identifier. -/
def State.putWarp (s : State) (wid : Nat) (w : Warp) : State := { s with warps := AL.put s.warps wid w }
/-- Change a warp that exists. -/
def State.updWarp (s : State) (wid : Nat) (f : Warp → Warp) : State := { s with warps := AL.upd s.warps wid f }
/-- A block by identifier. -/
def State.blockOf (s : State) (bid : Nat) : Block := AL.getD s.blocks bid Block.idle
/-- Change a block that exists. -/
def State.updBlock (s : State) (bid : Nat) (f : Block → Block) : State := { s with blocks := AL.upd s.blocks bid f }

/-- The warp the instruction acts on. -/
def State.w (s : State) : Warp := s.warpOf s.cur
/-- Set that warp. -/
def State.setW (s : State) (w : Warp) : State := s.putWarp s.cur w
/-- Change that warp. -/
def State.modW (s : State) (f : Warp → Warp) : State := s.setW (f s.w)
/-- The issuing path. -/
def State.path (s : State) : Path := s.w.path s.curB
/-- Change the issuing path. -/
def State.modPath (s : State) (f : Path → Path) : State := s.modW fun w => w.setPath s.curB (f (w.path s.curB))
/-- Do something as a given path of a given warp. -/
def State.onPath (s : State) (wid : Nat) (b : Bool) (f : State → State) : State :=
  let s1 := f { s with cur := wid, curB := b }
  { s1 with cur := s.cur, curB := s.curB }

/-- The block of that warp. -/
def State.bid (s : State) : Nat := s.w.bid
def State.blk (s : State) : Block := s.blockOf s.bid
def State.modB (s : State) (f : Block → Block) : State := s.updBlock s.bid f
/-- The identifiers of a block's warps. -/
def State.warpsOf (s : State) (bid : Nat) : List Nat := (AL.keys s.warps).filter fun k => k / 32 == bid
/-- The die and cluster of a core (R3). -/
def dieOf (core : Nat) : Nat := core / 96
def clusterOf (core : Nat) : Nat := core / 12
/-- The quarter of a warp (R14). -/
def quarterOf (wid : Nat) : Nat := wid % 32 % 4
/-- The die of the current warp. -/
def State.die (s : State) : Nat := dieOf s.blk.core

/-! Tasks -/

/-- Key of a task. -/
def taskKey (vf name : Nat) : Nat := vf * 2 ^ 20 + name
/-- A field [hi:lo] of the 64-bit word at a byte offset of a task record (R38). -/
def recBits (r : BitVec 2048) (off hi lo : Nat) : Nat := bits (r.toNat / 2 ^ (8 * off)) hi lo
def Task.f (t : Task) (off hi lo : Nat) : Nat := recBits t.record off hi lo
def Task.name (t : Task) : Nat := t.f 8 19 0
def Task.prio (t : Task) : Nat := t.f 8 21 20
def Task.codeva (t : Task) : Nat := t.f 0 56 0
def Task.te (t : Task) : Bool := t.f 0 57 57 == 1
def Task.nbx (t : Task) : Nat := t.f 0x10 15 0
def Task.nby (t : Task) : Nat := t.f 0x10 31 16
def Task.nbz (t : Task) : Nat := t.f 0x10 47 32
def Task.nblocks (t : Task) : Nat := t.nbx * t.nby * t.nbz
def Task.gang (t : Task) : Nat := t.f 0x10 51 48
def Task.nwarps (t : Task) : Nat := t.f 0x10 56 52 + 1
def Task.val (t : Task) : Nat := t.f 0x18 7 0
def Task.tilekb (t : Task) : Nat := t.f 0x18 23 8
def Task.trapoff (t : Task) : Nat := t.f 0x18 63 32
def Task.rlvl (t : Task) : Nat := t.f 0x20 2 0
def Task.nomatrix (t : Task) : Bool := t.f 0x20 4 4 == 1
def Task.strict (t : Task) : Bool := t.f 0x20 5 5 == 1
def Task.stabva (t : Task) : Nat := t.f 0x30 56 0
def Task.nstr (t : Task) : Nat := t.f 0x30 60 57
def Task.ctxva (t : Task) : Nat := t.f 0x38 56 0

/-- A task that runs nothing. -/
def Task.idle : Task where
  vf := 0
  record := 0
  st := .waiting
  counter := 0
  pureNow := false
  readyAt := 0
  placed := 0
  retired := 0
  voted := true
  jigKey := none
  inGens := []
  hitCopies := none
  bypass := false
  blockedSent := false
  termSent := false

def State.taskOf (s : State) (vf name : Nat) : Task := AL.getD s.tasks (taskKey vf name) Task.idle
/-- The task of the current warp. -/
def State.task (s : State) : Task := s.taskOf s.blk.vf s.blk.task
def State.updTask (s : State) (vf name : Nat) (f : Task → Task) : State := { s with tasks := AL.upd s.tasks (taskKey vf name) f }
/-- A live task: posted, not retired and not killed (R40). -/
def State.taskLive (s : State) (vf name : Nat) : Bool :=
  match AL.get? s.tasks (taskKey vf name) with
  | some t => t.st != .killed
  | none => false

/-! Identifiers and free values -/

/-- Take the next identifier. -/
def State.fresh (s : State) : Nat × State := (s.nextId, { s with nextId := s.nextId + 1 })
/-- Draw a free choice below n; log entry 1. -/
def State.choose (s : State) (n : Nat) : Nat × State := (Config.freeChoice s.free % n, { s with free := s.free + 1 })

/-! MODE, masks and registers -/

/-- A field of a path's MODE (R69). -/
def Path.modeG (p : Path) : Nat := bits p.mode.toNat 3 0
def Path.modeFP (p : Path) : Nat := bits p.mode.toNat 7 4
def Path.modeET (p : Path) : Nat := bits p.mode.toNat 11 8
def Path.modeMW (p : Path) : Nat := bits p.mode.toNat 14 12
def Path.modeRM (p : Path) : Nat := bits p.mode.toNat 17 15
def Path.modeSAT (p : Path) : Bool := bitOf p.mode.toNat 18
def Path.modeFTZ (p : Path) : Bool := bitOf p.mode.toNat 19

/-- Registers read: s0 is zero and p0 all ones (R65). -/
def Warp.rS (w : Warp) (k : Nat) : DWord := if k = 0 then 0 else Tbl.get w.s k
def Warp.rP (w : Warp) (k : Nat) : Word := if k = 0 then 0xFFFFFFFF#32 else Tbl.get w.p k
def Warp.rB (w : Warp) (k : Nat) : Rec := Tbl.get w.b k
def Warp.rV (w : Warp) (k lane : Nat) : Word := Tbl.get w.v (32 * k + lane)
/-- Registers written: s0 and p0 discard (R65). -/
def Warp.wS (w : Warp) (k : Nat) (x : DWord) : Warp := if k = 0 then w else { w with s := Tbl.set w.s k x }
def Warp.wP (w : Warp) (k : Nat) (x : Word) : Warp := if k = 0 then w else { w with p := Tbl.set w.p k x }
def Warp.wB (w : Warp) (k : Nat) (x : Rec) : Warp := { w with b := Tbl.set w.b k x }
def Warp.wV (w : Warp) (k lane : Nat) (x : Word) : Warp := { w with v := Tbl.set w.v (32 * k + lane) x }

def State.rS (s : State) (k : Nat) : DWord := s.w.rS k
def State.rP (s : State) (k : Nat) : Word := s.w.rP k
def State.rB (s : State) (k : Nat) : Rec := s.w.rB k
def State.rV (s : State) (k lane : Nat) : Word := s.w.rV k lane

/-- The helper mask of R18: live lanes off the path, in quads with a lane on it, while the helper bit is set. -/
def helperMask (live active : Word) (helper : Bool) : Word :=
  if helper then
    maskOf ((List.range 32).filter fun i =>
      live.getLsbD i && !active.getLsbD i && (List.range 4).any fun j => active.getLsbD (i / 4 * 4 + j))
  else 0

/-- The guard p[MODE.G] (R71). -/
def State.guardMask (s : State) : Word := s.rP s.path.modeG
/-- Helper lanes of the issuing path, guard apart. -/
def State.helperLanes (s : State) : Word := helperMask s.w.live s.path.mask s.w.helper
/-- Active lanes under the guard. -/
def State.activeGuarded (s : State) : Word := s.path.mask &&& s.guardMask
/-- Lanes an instruction acts on: active and helper lanes under the guard (R71, R19). -/
def State.acting (s : State) : Word := (s.path.mask ||| s.helperLanes) &&& s.guardMask
/-- Acting helper lanes. -/
def State.actingHelpers (s : State) : Word := s.helperLanes &&& s.guardMask

/-- The code entry of the warp's task. -/
def State.codeva (s : State) : Nat := s.task.codeva

/-- Move the issuing path past an instruction of n bytes. -/
def State.advance (n : Nat) (s : State) : State :=
  s.modPath fun p => { p with pc := p.pc + BitVec.ofNat 57 n, waited := false }

/-- Move the issuing path to an address. -/
def State.jump (a : VAddr) (s : State) : State := s.modPath fun p => { p with pc := a, waited := false }

/-- Put the issuing path into a wait state; its PC stays at the instruction. -/
def State.wait (s : State) (st : PathState) : State := s.modPath fun p => { p with st := st, waited := false }

/-- The instruction's wait at this PC has ended. -/
def State.waitDone (s : State) : Bool := s.path.waited

/-! Signatures (R225, R226) -/

/-- The current run is checked and folds: mortise, tenon or dowel, and not in recipe mode (R284). -/
def State.folds (s : State) : Bool := s.blk.kind != .plain && !s.w.recipe

/-- Fold bytes into one class of a path's running CRC: 0 SS, 1 VS, 2 MS, 3 AS. -/
def Sig.fold (g : Sig) (cls : Nat) (l : List Nat) : Sig :=
  match cls with
  | 0 => { g with ss := crcBytes g.ss l }
  | 1 => { g with vs := crcBytes g.vs l }
  | 2 => { g with ms := crcBytes g.ms l }
  | _ => { g with asig := crcBytes g.asig l }

/-- Sum of two signatures, class by class. -/
def Sig.add (a b : Sig) : Sig := ⟨a.ss + b.ss, a.vs + b.vs, a.ms + b.ms, a.asig + b.asig⟩

/-- Fold the records whose bytes are fixed and that no pending record of their class precedes: running signature, records kept, classes blocked. -/
def foldReady (g : Sig) (kept : List FoldItem) (blocked : List Nat) : List FoldItem → Sig × List FoldItem
  | [] => (g, kept.reverse)
  | it :: r =>
    if it.pend.isSome || blocked.contains it.cls then foldReady g (it :: kept) (it.cls :: blocked) r
    else foldReady (g.fold it.cls it.bytes) kept blocked r

/-- Fold what can be folded of a list of records. -/
def Path.drainFolds (p : Path) (l : List FoldItem) : Path :=
  let (g, kept) := foldReady p.sig [] [] l
  { p with sig := g, folds := kept }

/-- Fold a record of a class after the records of its class before it. -/
def State.fold (s : State) (cls : Nat) (l : List Nat) : State :=
  if s.folds then
    s.modPath fun p => if p.folds.any (fun it => it.cls == cls) then { p with folds := p.folds ++ [⟨cls, none, l⟩] } else { p with sig := p.sig.fold cls l }
  else s

/-- Fold a record of class VS. -/
def State.foldVS (s : State) (l : List Nat) : State := s.fold 1 l

/-- Keep the place of pending work's record of a class. -/
def State.foldPendAs (s : State) (cls id : Nat) : State :=
  if s.folds then s.modPath fun p => { p with folds := p.folds ++ [⟨cls, some id, []⟩] } else s

/-- Keep the place of a pending access's record of class VS. -/
def State.foldPend (s : State) (id : Nat) : State := s.foldPendAs 1 id

/-- Fix the records of a class of pending work of a warp. -/
def Warp.fixFoldAs (w : Warp) (b : Bool) (cls id : Nat) (l : List Nat) : Warp :=
  let p := w.path b
  w.setPath b (p.drainFolds (p.folds.map fun it => if it.pend = some id ∧ it.cls = cls then ⟨cls, none, l⟩ else it))

/-- Fix the record of a pending access of a warp. -/
def Warp.fixFold (w : Warp) (b : Bool) (id : Nat) (l : List Nat) : Warp := w.fixFoldAs b 1 id l

/-- The CRCs a segment starts with: the start offset and active mask (R225). -/
def segStart (codeva : Nat) (pc : VAddr) (mask : Word) : Sig :=
  let c := crcBytes 0 (leBytes 4 ((pc.toNat + 2 ^ 57 - codeva) % 2 ^ 57 / 4) ++ leBytes 4 mask.toNat)
  ⟨c, c, c, c⟩

/-! Faults injected (R244) -/

/-- A run of the current block qualifies under an injection register's filters. -/
def injQualifies (s : State) (inj : Nat) (tgt : Nat) : Bool :=
  bitOf inj 0 && bits inj 2 1 == tgt && (!bitOf inj 3 || s.blk.kind == .mortise) &&
  (!bitOf inj 58 || bits inj 57 48 == s.blk.vf)

/-- Take one qualifying result past INJ of the block's core: the bit to flip, if the injection falls on it. -/
def State.inject (s : State) (tgt : Nat) : Option Nat × State :=
  let off := 0x1000 + 8 * s.blk.core
  let inj := (s.reg Config.pf blkRas off).toNat
  if injQualifies s inj tgt then
    if bits inj 47 16 = 0 then
      (some (bits inj 9 4),
        { s.setRegBits Config.pf blkRas off 0 0 0 with
          chk := { s.chk with health := Tbl.set s.chk.health 0x490 (Tbl.get s.chk.health 0x490 + 1) } })
    else (none, s.setRegBits Config.pf blkRas off 47 16 (bits inj 47 16 - 1))
  else (none, s)

/-! Rewind points (R281, R282) -/

/-- The valid point names a register; a write to s0 writes nothing and names none (R65). -/
def RewindPoint.names (r : RewindPoint) : RegRef → Bool
  | .v n => n / 16 == bits r.word.toNat 15 12 && bitOf r.lit.toNat (n % 16)
  | .s n => n != 0 && n / 16 == bits r.word.toNat 17 16 && bitOf r.lit.toNat (16 + n % 16)
  | .b _ => true
  | .p _ => false

/-- The warp's valid point becomes invalid. -/
def State.noPoint (s : State) : State := s.modW fun w => { w with point := none }

/-- Whether the warp's valid point names one of these registers. -/
def State.named (s : State) (l : List RegRef) : Bool :=
  match s.w.point with
  | some r => l.any r.names
  | none => false

/-! Results -/

/-- Flip a bit of a value below a width. -/
def flipAt (n x : Nat) (b : Option Nat) : Nat :=
  match b with
  | some i => if i < n then x ^^^ 2 ^ i else x
  | none => x

/-- Write a scalar result without its record: injection and register (R65, R244). The result holds the record's bytes. Whether a result that s0 discards qualifies for an injection is not said: the model lets it (DESIGN CHOICE, log entry 94). -/
def State.putS (s : State) (k : Nat) (x : DWord) : List Nat × State :=
  let (b, s1) := s.inject 1
  let y := BitVec.ofNat 64 (flipAt 64 x.toNat b)
  (if k = 0 then [] else 0x12 :: k :: leBytes 8 y.toNat, s1.modW fun w => w.wS k y)

/-- Write a scalar result: injection, register, signature (R65, R226, R244). -/
def State.writeS (s : State) (k : Nat) (x : DWord) : State :=
  let (l, s1) := s.putS k x
  if k = 0 then s1 else s1.foldVS l

/-- Write a predicate register (R65, R226). -/
def State.writeP (s : State) (k : Nat) (x : Word) : State :=
  let s2 := s.modW fun w => w.wP k x
  if k = 0 then s2 else s2.foldVS (0x14 :: k :: leBytes 4 x.toNat)

/-- Write a buffer register (R226). -/
def State.writeB (s : State) (k : Nat) (x : Rec) : State :=
  (s.modW fun w => w.wB k x).foldVS (0x13 :: k :: leBytes 16 x.toNat)

/-- Write lanes of one v register in a warp. -/
def Warp.wVL (w : Warp) (k : Nat) (l : List (Nat × Word)) : Warp := l.foldl (fun w e => w.wV k e.1 e.2) w

/-- The lane an injection names (R244). -/
def State.injLane (s : State) : Nat := bits (s.reg Config.pf blkRas (0x1000 + 8 * s.blk.core)).toNat 63 59

/-- The values of one register of a result whose values span several registers, from the low one up. -/
def vecPart (l : List (Nat × Nat)) (i : Nat) : List (Nat × Word) := l.map fun e => (e.1, BitVec.ofNat 32 (e.2 / 2 ^ (32 * i)))

/-- Write lanes of n registers from k without their records: injection and registers (R244). Whether a vector result that does not write lane LANE qualifies is not said: the model takes it as not qualifying (DESIGN CHOICE, log entry 94). The result holds the VS records of the lanes of `act`, one for each register (R226). -/
def State.putVec (s : State) (k n : Nat) (l : List (Nat × Nat)) (act : Word) : List Nat × State :=
  let lane := s.injLane
  let (b, s1) := if l.any fun e => e.1 == lane then s.inject 0 else (none, s)
  let l1 := l.map fun e => if e.1 = lane then (e.1, flipAt (32 * n) e.2 b) else e
  ((List.range n).flatMap fun i => 0x11 :: (k + i) :: (vecPart (l1.filter fun e => act.getLsbD e.1) i).flatMap fun e => leBytes 4 e.2.toNat,
    s1.modW fun w => (List.range n).foldl (fun w i => w.wVL (k + i) (vecPart l1 i)) w)

/-- Write lanes of n registers from k as one vector result; helper lanes fold nothing (R226, R19). -/
def State.writeVec (s : State) (k n : Nat) (l : List (Nat × Nat)) : State :=
  let (r, s1) := s.putVec k n l s.path.mask
  s1.foldVS r

/-- Write lanes of one v register. -/
def State.writeV (s : State) (k : Nat) (l : List (Nat × Word)) : State := s.writeVec k 1 (l.map fun e => (e.1, e.2.toNat))

/-- The 64-bit value of a register pair in a lane. -/
def State.rV64 (s : State) (k lane : Nat) : DWord := BitVec.ofNat 64 ((s.rV k lane).toNat + (s.rV (k + 1) lane).toNat * 2 ^ 32)

/-- Set bits of FPFLAGS (R74). -/
def State.orFlags (s : State) (f : BitVec 6) : State := s.modW fun w => { w with fpflags := w.fpflags ||| f }

/-- Set lanes' bits of the flag predicate p[MODE.FP] (R73). -/
def State.setFP (s : State) (m : Word) : State :=
  if m = 0 then s else s.writeP s.path.modeFP (s.rP s.path.modeFP ||| m)

/-! Reporting a terminal trap -/

/-- A TERM record (R154). -/
def termRecord (vf part xcode cause : Nat) (write : Bool) (level stage va xpc aux task core : Nat) : BitVec 256 :=
  let w0 := 0x10 + xcode * 2 ^ 8 + vf % 1024 * 2 ^ 16 + part % 32 * 2 ^ 26 + (if write then 2 ^ 31 else 0) + 1 * 2 ^ 32
              + level * 2 ^ 48 + stage * 2 ^ 51 + cause * 2 ^ 52
  BitVec.ofNat 256 (w0 + va % 2 ^ 57 * 2 ^ 64 + xpc % 2 ^ 57 * 2 ^ 128 + (aux % 2 ^ 32 + task * 2 ^ 32 + core * 2 ^ 52) * 2 ^ 192)

/-- Queue a terminal record (R157): none is ever dropped. -/
def State.queueTerm (s : State) (fn : Nat) (r : BitVec 256) (task : Option (Nat × Nat)) : State :=
  { s with rep := { s.rep with term := s.rep.term ++ [⟨fn, r, task⟩] } }

/-- A run that holds no storage for gang tiles (R429). -/
def Block.isCheck (b : Block) : Bool := b.kind == .tenon || b.kind == .dowel

/-- A run holds its stores (R235): a mortise run that is not unverified, or a dowel run. -/
def Block.holds (b : Block) : Bool := (b.kind == .mortise || b.kind == .dowel) && !b.unver

/-- Take blocks and all they hold off the machine: warps, engine entries, tile messages, and stores on their way to a version set. -/
def State.dropBlocks (s : State) (bids : List Nat) : State :=
  let gone (b : Nat) : Bool := bids.contains b
  let heldStore (r : LineReq) : Bool := r.kind == 1 && gone (r.wid / 32) && (s.blockOf (r.wid / 32)).holds
  { s with
    mm := { s.mm with reqs := s.mm.reqs.filter fun r => !heldStore r }
    blocks := s.blocks.filter (fun e => !gone e.1)
    warps := s.warps.filter (fun e => !gone (e.1 / 32))
    sends := s.sends.filter (fun x => !gone x.bid)
    eng := { s.eng with
      matq := s.eng.matq.map (fun e => (e.1, e.2.filter fun m => !gone m.bid))
      bphys := s.eng.bphys.filter (fun e => !gone e.2.1)
      active := (s.eng.tokens.filter fun t => gone (t.wid / 32)).foldl (fun a t => t.cores.foldl (fun a c => AL.put a c s.now) a) s.eng.active
      tokens := s.eng.tokens.filter (fun t => !gone (t.wid / 32))
      tileMsgs := s.eng.tileMsgs.filter (fun m => !gone m.dst) }
    gangs := (s.gangs.map fun e => (e.1, { e.2 with bids := e.2.bids.filter fun b => !gone b })).filter fun e => !e.2.bids.isEmpty }

/-- The blocks and check runs of a task. -/
def State.taskBlocks (s : State) (vf name : Nat) : List Nat :=
  (s.blocks.filter fun e => e.2.vf == vf && e.2.task == name).map (·.1)

/-- Kill a task (R41, R280): every block goes, with its held versions and queued copies; the name stays taken until its record is written. -/
def State.killTask (s : State) (vf name : Nat) : State :=
  if s.taskLive vf name then
    (s.dropBlocks (s.taskBlocks vf name)).updTask vf name fun t => { t with st := .killed, hitCopies := none }
  else s

/-- Queue a task's one TERM record; later ones are not reported (R280). -/
def State.termOnce (s : State) (vf name : Nat) (r : BitVec 256) : State :=
  if (s.taskOf vf name).termSent then s
  else (s.updTask vf name fun t => { t with termSent := true }).queueTerm vf r (some (vf, name))

/-- Kill a task with its one TERM record; a task already killed reports nothing more (R280). Its name is free once the record has been written (R41). -/
def State.killWith (s : State) (vf name : Nat) (r : BitVec 256) : State :=
  if s.taskLive vf name then
    let s1 := (s.termOnce vf name r).killTask vf name
    if s1.rep.term.any fun x => x.task == some (vf, name) then s1 else { s1 with tasks := AL.del s1.tasks (taskKey vf name) }
  else s

/-! Traps (R276 to R280) -/

def tcIllop : Nat := 0x01
def tcBounds : Nat := 0x03
def tcTag : Nat := 0x04
def tcRostore : Nat := 0x05
def tcAlign : Nat := 0x06
def tcPartial : Nat := 0x07
def tcStack : Nat := 0x08
def tcRole : Nat := 0x09
def tcHandle : Nat := 0x0A
def tcQueue : Nat := 0x0B
def tcPurity : Nat := 0x0C
def tcWindow : Nat := 0x0D
def tcSoft : Nat := 0x0E
def tcBreak : Nat := 0x0F
def tcAccess : Nat := 0x10
def tcUncorr : Nat := 0x11
def tcInteg : Nat := 0x12
def tcCheck : Nat := 0x13

/-- A code is recoverable (R276). -/
def recoverable (code : Nat) : Bool := code < 0x10

/-- What a terminal trap adds to its record (R145, R154, R280): cause, level, stage, an AUX of its own, and a GPA. -/
structure TermInfo where
  cause : Nat
  level : Nat
  stage : Nat
  write : Bool
  aux : Option Nat
  /-- The GPA that stands in place of XPC, for a stage-2 result (R145). -/
  gpa : Option Nat
  deriving DecidableEq, Repr

/-- A terminal trap with nothing of its own to report. -/
def TermInfo.none : TermInfo := ⟨0, 0, 0, false, .none, .none⟩

/-- What UNCORR and INTEG report as their cause (R154). -/
def TermInfo.error (code : Nat) (write : Bool) : TermInfo := ⟨if code = tcUncorr then 1 else 5, 0, 0, write, .none, .none⟩

/-- CAUSE of the TERM record of a trap: that of its terminal data, and `tag` for a TAG trap (R154; which traps give that cause is DEDUCED, log entry 81). -/
def TermInfo.causeOf (ti : TermInfo) (code : Nat) : Nat := if code = tcTag then 4 else ti.cause

/-- AUX of a terminal trap with none of its own (R280). -/
def auxOf (lin idx : Nat) (pathB noHandler inside : Bool) : Nat :=
  lin % 2 ^ 24 + idx * 2 ^ 24 + (if pathB then 2 ^ 29 else 0) + (if noHandler then 2 ^ 30 else 0) + (if inside then 2 ^ 31 else 0)

/-- A check run is void (R234): abandoned, counted, and started again elsewhere when the mortise block still waits for it. -/
def State.voidRun (s : State) (bid : Nat) : State :=
  let b := s.blockOf bid
  let s1 := s.dropBlocks [bid]
  let s2 := { s1 with chk := { s1.chk with health := Tbl.set s1.chk.health 0x488 (Tbl.get s1.chk.health 0x488 + 1) } }
  s2.updBlock b.origin fun m => { m with phase := if b.kind = .dowel then 2 else 0, waitFrom := s.now, voidCore := some b.core }

/-- Entry to the handler on the trapping path (R278). -/
def Warp.enterHandler (w : Warp) (b : Bool) (entry : Nat) (now : Nat) : Warp :=
  let p := w.path b
  { w.setPath b { p with mode := Config.launchMode, fmt := 0, pc := BitVec.ofNat 57 entry, st := .ready, waited := false, since := now }
    with xmode := p.mode, xfmt := p.fmt, inHandler := true, handlerB := b, handlerDepth := p.stack.length + p.spilled }

/-- The trap registers, the rewind point and the other path at a trap (R277, R282). -/
def Warp.takeTrap (w : Warp) (b : Bool) (code : Nat) (xpc xfirst xaddr : VAddr) : Warp :=
  let o := w.path (!b)
  let w1 := if w.split then w.setPath (!b) { o with held := true } else w
  { w1 with xpc := xpc, xfirst := xfirst, xaddr := xaddr, xcode := BitVec.ofNat 8 code, point := Option.none }

/-- Deliver a trap to a path of a warp: the trap registers, then the handler or the end of the task (R277, R278, R280).
A terminal trap of a check run makes the run void (R234). -/
def State.trapAt (s : State) (wid : Nat) (b : Bool) (code : Nat) (xpc xfirst xaddr : VAddr) (ti : TermInfo) : State :=
  let w := s.warpOf wid
  let bl := s.blockOf w.bid
  let t := s.taskOf bl.vf bl.task
  let inside := w.inHandler || w.recipe
  if recoverable code && t.te && !inside then
    s.putWarp wid ((w.takeTrap b code xpc xfirst xaddr).enterHandler b ((t.codeva + t.trapoff) % 2 ^ 57) s.now)
  else
    let s1 := s.putWarp wid (w.takeTrap b code xpc xfirst xaddr)
    if bl.kind = .tenon ∨ bl.kind = .dowel then s1.voidRun w.bid
    else
      let aux := ti.aux.getD (auxOf bl.lin w.idx b (recoverable code && !t.te) (recoverable code && inside))
      s1.killWith bl.vf bl.task
        (termRecord bl.vf (s.partD bl.vf) code (ti.causeOf code) ti.write ti.level ti.stage xaddr.toNat (ti.gpa.getD xpc.toNat) aux bl.task bl.core)

/-- A trap of the instruction at the issuing path's PC. -/
def State.trapInfo (s : State) (code xaddr : Nat) (ti : TermInfo) : State :=
  s.trapAt s.cur s.curB code s.path.pc s.path.pc (BitVec.ofNat 57 xaddr) ti

/-- A trap with no terminal data of its own. -/
def State.trap (s : State) (code xaddr : Nat) : State := s.trapInfo code xaddr TermInfo.none

/-- ILLOP: XADDR 0 (R332). -/
def State.illop (s : State) : State := s.trap tcIllop 0

/-! Checks that many instructions share -/

/-- A v register lies inside the allotment (R64). -/
def State.vOk (s : State) (k : Nat) : Bool := k < s.w.allot

/-- A register pair is even and inside the allotment (R64). -/
def State.vPairOk (s : State) (k : Nat) : Bool := k % 2 == 0 && k + 1 < s.w.allot

/-- A register quad starts at a multiple of 4 and lies inside the allotment (R116). -/
def State.vQuadOk (s : State) (k : Nat) : Bool := k % 4 == 0 && k + 3 < s.w.allot

/-- The n registers from k that an access of a width in bytes names (R116). -/
def State.vWidthOk (s : State) (k width : Nat) : Bool :=
  if width ≤ 4 then s.vOk k else if width = 8 then s.vPairOk k else s.vQuadOk k

/-- In recipe mode a write to a named register or to a b register traps ILLOP (R284). -/
def State.recipeBlocks (s : State) (l : List RegRef) : Bool := s.w.recipe && s.named l

/-- Perform an instruction that writes registers and does nothing of R282 else: recipe mode, then the effect, which ends the point when a named register is written. -/
def State.writing (s : State) (l : List RegRef) (k : State → State) : State :=
  if s.recipeBlocks l then s.illop
  else if s.named l then k s.noPoint
  else k s

/-- Perform an instruction listed in R282: ILLOP in recipe mode (R284), and the point ends. -/
def State.ending (s : State) (k : State → State) : State :=
  if s.w.recipe then s.illop else k s.noPoint

/-- A scalar result and the next instruction. -/
def State.scalarResult (s : State) (d : Nat) (x : DWord) : State :=
  s.writing [.s d] fun s => (s.writeS d x).advance 4

/-- The whole-warp rule (R85): every lane active and the guard all ones. -/
def State.wholeWarp (s : State) : Bool := s.path.mask == 0xFFFFFFFF#32 && s.guardMask == 0xFFFFFFFF#32

end Sys2Proof.Machine
end

