-- ==== Sys2Proof/Machine/Memory.lean ====
section
/-! DEFINITION. Memory at its home slices: which memory exists, bytes and tags, timestamps and leases, held versions, generations, write-back and errors. -/

set_option Elab.async false

namespace Sys2Proof.Machine

/-- Change the memory system. -/
def State.modM (s : State) (f : MemSys → MemSys) : State := { s with mm := f s.mm }

/-! Places (R161, R485) -/

/-- Bytes of second-tier memory behind CXL port k (R317). -/
def tierBytes (k : Nat) : Nat := Config.tierPages k * 4096

/-- An SPA lies in a die's bonded DRAM. -/
def inDram (spa : Nat) : Bool := spa < 4 * Config.dramStride && spa % Config.dramStride < Config.dramBytes

/-- An SPA lies in second-tier memory. -/
def inTier (spa : Nat) : Bool :=
  Config.tierBase ≤ spa && spa < Config.tierBase + 8 * Config.tierStride &&
  (spa - Config.tierBase) % Config.tierStride < tierBytes ((spa - Config.tierBase) / Config.tierStride)

/-- An SPA of this package names memory (R485). -/
def spaHere (spa : Nat) : Bool := inDram spa || inTier spa

/-- An SPA names memory of another package (R485). -/
def spaRemote (spa : Nat) : Bool := 2 ^ 51 ≤ spa && spa < 2 ^ 52

/-- The home die of an SPA of this package (R161). -/
def homeDie (spa : Nat) : Nat := if spa < 4 * Config.dramStride then spa / Config.dramStride else bits spa 13 12

/-- The package a line of another package lies on, and its home die there (R161, R485). -/
def linePkg (line : Nat) : Nat := bits (line * 256) 50 38
def farDie (line : Nat) : Nat := homeDie (line * 256 % 2 ^ 38)

/-- The home slice of a line of a domain: die × 48 + slice (R299). -/
def State.homeSlice (s : State) (dom spa : Nat) : Nat :=
  let h := crcBytes 0 (leBytes 8 (spa / 256) ++ leBytes 8 (s.seedOf dom).toNat)
  homeDie spa * 48 + h.toNat / 2 ^ 32 * 48 / 2 ^ 32

/-- A die is in directory mode (R184). -/
def State.inDirMode (s : State) (d : Nat) : Bool := AL.has s.mm.dirMode d
/-- A mode switch is in progress. -/
def State.switchingDie (s : State) (d : Nat) : Bool := AL.has s.mm.switching d

/-! Bytes and tags -/

/-- The visible byte at an SPA: a dirty byte of L2, or the memory side's (R126). -/
def State.memByte (s : State) (a : Nat) : Byte := (AL.get? s.mm.dirty a).getD (Tbl.get s.mm.mem a)

/-- Consecutive visible bytes. -/
def State.memBytes (s : State) (a n : Nat) : List Nat := (List.range n).map fun i => (s.memByte (a + i)).toNat

/-- Write a byte at its home slice: it becomes dirty (R126). -/
def State.setMemByte (s : State) (a : Nat) (b : Byte) : State := s.modM fun m => { m with dirty := AL.put m.dirty a b }

/-- The tag of the sector that holds an SPA (R123). -/
def State.tagAt (s : State) (a : Nat) : Nat := (Tbl.get s.mm.tags (a / 64)).toNat

/-- Write a sector's tag. -/
def State.setTag (s : State) (a tag : Nat) : State := s.modM fun m => { m with tags := Tbl.set m.tags (a / 64) (BitVec.ofNat 4 tag) }

/-! Watch unit (R269) -/

/-- Delete the jig entries that name a region. -/
def jigForget (es : List JigEntry) (r : Region) : List JigEntry :=
  es.filter fun e => e.vf != r.vf ||
    !(e.outs.any (fun o => o.1 == r.base && o.2.1 == r.len && o.2.2.1 == r.dom) || e.ins.any (fun i => i.1 == r.base && i.2.1 == r.len && i.2.2 == r.dom))

/-- Drop the code hash made over a region (R267). -/
def hashForget (hs : AL (BitVec 256 × Nat × Nat)) (r : Region) : AL (BitVec 256 × Nat × Nat) :=
  hs.filter fun e => !(r.len == 0x40000 && e.1 == r.vf * 2 ^ 57 + r.base && e.2.2.2 == r.dom)

/-- Unwatch a region: it goes, with the code hash made over it, and every entry that names it (R267, R268). -/
def State.unwatch (s : State) (r : Region) : State :=
  { s with jig := { s.jig with regions := s.jig.regions.filter (· != r), entries := jigForget s.jig.entries r, hashes := hashForget s.jig.hashes r } }

/-- Advance the generation of every region that marks a frame, once per mark event (R269). -/
def State.bumpFrame (s : State) (frame : Nat) : State :=
  let dead := s.jig.regions.filter fun r => r.frames.contains frame && 2 ^ 48 - 1 ≤ r.gen + 1
  let s1 := { s with jig := { s.jig with
    regions := s.jig.regions.map fun r => if r.frames.contains frame ∧ r.gen + 1 < 2 ^ 48 - 1 then { r with gen := r.gen + 1 } else r } }
  dead.foldl (fun s r => s.unwatch r) s1

/-! Timestamps (R176, R181, R182) -/

/-- Largest timestamp a die has assigned (R185). -/
def State.noteTime (s : State) (d : Nat) (t : BitVec 40) : State :=
  s.modM fun m => if (Tbl.get m.high d).toNat < t.toNat then { m with high := Tbl.set m.high d t } else m

/-- Loads whose values are withheld lose their leases, and are performed again (R177, R182, R184). -/
def State.againIf (s : State) (p : LineReq → Bool) : State :=
  s.modM fun m => { m with reqs := m.reqs.map fun r =>
    if r.kind = 0 ∧ (r.stage = 2 ∨ r.stage = 3) ∧ r.withheld ≠ [] ∧ p r then { r with stage := 0, got := [], withheld := [], sectors := 0 } else r }

/-- Rebase: no lease and no timestamp survives, the epoch advances, and every die goes on in lease mode (R182). -/
def State.rebase (s : State) : State :=
  let s := s.againIf fun _ => true
  { s with
    gsc := 0
    epoch := s.epoch + 1
    dcopyPts := []
    jig := { s.jig with pts := [] }
    mm := { s.mm with wts := [], rts := [], l1 := [], l1Bad := [], high := [], dirMode := [], sharers := [], reqs := s.mm.reqs.map fun r => { r with wts := 0, rts := 0, sectors := 0, engPts := 0 } }
    warps := s.warps.map fun e => (e.1, { e.2 with pts := [], q := e.2.q.map fun q => (q.1, { q.2 with pts := [] }) })
    blocks := s.blocks.map fun e => (e.1, { e.2 with
      queues := e.2.queues.map fun q => (q.1, { q.2 with pts := [], ended := [], entries := q.2.entries.map fun c => { c with pts := [] } }) }) }

/-- Rebase when the slice would assign a timestamp too near the end (R182). -/
def State.rebaseIf (s : State) (t : Nat) : State := if Config.rebaseAt ≤ t then s.rebase else s

/-- Invalidate the L1 copies of the lines with a property, those still on their way included. -/
def State.dropCopies (s : State) (p : Nat → Bool) : State :=
  s.modM fun m => { m with
    l1 := m.l1.filter (fun e => !p (e.1 % 2 ^ 44))
    sharers := m.sharers.filter (fun e => !p e.1)
    reqs := m.reqs.map fun r => if p r.line then { r with sectors := 0 } else r }

/-- Invalidate every L1 copy of a line (R184). -/
def State.dropL1 (s : State) (line : Nat) : State := s.dropCopies fun l => l == line

/-- A load's lease at home (R176, R184): the new rts, with the sharer noted in directory mode. -/
def State.homeLease (s : State) (line core : Nat) (pts : BitVec 40) (lease : Nat) : BitVec 40 × BitVec 40 × State :=
  let d := homeDie (line * 256)
  if s.inDirMode d then
    let w := Tbl.get s.mm.wts line
    (w, Tbl.get s.mm.rts line,
      s.modM fun m => { m with sharers := Tbl.set m.sharers line (Tbl.get m.sharers line ||| (1#32 <<< clusterOf core)) })
  else
    let w0 := (Tbl.get s.mm.wts line).toNat
    let s1 := s.rebaseIf (max (Tbl.get s.mm.rts line).toNat (max (pts.toNat + lease) (w0 + lease)))
    let p := if Config.rebaseAt ≤ max (Tbl.get s.mm.rts line).toNat (max (pts.toNat + lease) (w0 + lease)) then 0 else pts.toNat
    let w := (Tbl.get s1.mm.wts line).toNat
    let r := max (Tbl.get s1.mm.rts line).toNat (max (p + lease) (w + lease))
    (BitVec.ofNat 40 w, BitVec.ofNat 40 r,
      (s1.modM fun m => { m with rts := Tbl.set m.rts line (BitVec.ofNat 40 r) }).noteTime d (BitVec.ofNat 40 r))

/-- A line's answer to a read by an engine that keeps no copy: in directory mode it is no sharer (R176, R184). -/
def State.engineLease (s : State) (line : Nat) (pts : BitVec 40) (lease : Nat) : BitVec 40 × State :=
  if s.inDirMode (homeDie (line * 256)) then (Tbl.get s.mm.wts line, s)
  else
    let (w, _, s1) := s.homeLease line 0 pts lease
    (w, s1)

/-- The time a store or atomic takes at home (R176): later than every lease granted. In directory mode every sharer's copy goes first (R184). -/
def State.homeTime (s : State) (line : Nat) (pts : BitVec 40) : BitVec 40 × State :=
  let d := homeDie (line * 256)
  let t0 := max pts.toNat ((Tbl.get s.mm.rts line).toNat + 1)
  let s1 := s.rebaseIf t0
  let p := if Config.rebaseAt ≤ t0 then 0 else pts.toNat
  let t := BitVec.ofNat 40 (max p ((Tbl.get s1.mm.rts line).toNat + 1))
  let s2 := (s1.modM fun m => { m with wts := Tbl.set m.wts line t, rts := Tbl.set m.rts line t }).noteTime d t
  (t, if s2.inDirMode d then s2.dropL1 line else s2)

/-- Apply bytes of one line at home: dirty bytes, the line's domain, tags of a KIND 2 store, and one generation bump (R123, R126, R256, R269). -/
def State.applyLine (s : State) (dom line : Nat) (bs : List (Nat × Nat)) (tag : Option Nat) : State :=
  let s1 := bs.foldl (fun s e => s.setMemByte (line * 256 + e.1) (BitVec.ofNat 8 e.2)) s
  let s2 := match tag with
    | some t => bs.foldl (fun (s : State) (e : Nat × Nat) => s.setTag (line * 256 + e.1) t) s1
    | none => s1
  ({ s2 with mm := { s2.mm with l2dom := AL.put s2.mm.l2dom line dom } }).bumpFrame (line / 16)

/-! Frame ownership (R256, R259) -/

/-- Frames of the package's memory (R485). -/
def allFrames : Nat := 4 * (Config.dramBytes / 4096) + Config.tierTotal

/-- CARVE (R259): frames of the management carve-out on each die, which hold the FOT and the management domain's tree region at depth 8. -/
def carve : Nat := (8 * allFrames + 1227133440 + 4 * 4096 - 1) / (4 * 4096)

/-- A frame lies in the carve-out: the highest frames of a die's bonded DRAM. -/
def inCarve (frame : Nat) : Bool :=
  let i := frame % (Config.dramStride / 4096)
  frame < 4 * (Config.dramStride / 4096) && Config.dramBytes / 4096 - carve ≤ i && i < Config.dramBytes / 4096

/-- The leaf slot of a frame of the carve-out: ascending SPA (R259). -/
def carveSlot (frame : Nat) : Nat :=
  frame / (Config.dramStride / 4096) * carve + (frame % (Config.dramStride / 4096) + carve - Config.dramBytes / 4096)

/-- The frame of the carve-out that has a leaf slot. -/
def carveFrame (slot : Nat) : Nat := slot / carve * (Config.dramStride / 4096) + (Config.dramBytes / 4096 - carve) + slot % carve

/-- The ownership entry of a frame (R256, R257, R259): the carve-out belongs to the management domain, adopted once boot has built it; every other frame not listed belongs to the PF domain with ADOPTED = 0. -/
def State.fotOf (s : State) (frame : Nat) : FotEntry :=
  match AL.get? s.keys.fot frame with
  | some e => e
  | none =>
    if !inCarve frame then ⟨Config.pfDomain, false, none⟩
    else if s.keys.booted then ⟨Config.mgmtDomain, true, some (carveSlot frame)⟩
    else ⟨Config.mgmtDomain, false, none⟩

/-! Notices and error banks (R313, R318, R319) -/

/-- A notice record (R313). -/
def State.noticeRec (s : State) (typ port pkg part vf task detail : Nat) : BitVec 256 :=
  BitVec.ofNat 256 (typ + port * 2 ^ 8 + pkg % 2 ^ 13 * 2 ^ 12 + part * 2 ^ 25 + vf * 2 ^ 30 + task * 2 ^ 40
    + detail % 2 ^ 64 * 2 ^ 64 + s.now * 2 ^ 128)

/-- Signal an MSI-X vector of a function (R153). -/
def State.signal (s : State) (fn vec : Nat) : State := { s with rep := { s.rep with msix := s.rep.msix ++ [(fn, vec)] } }

/-- Advance HEAD of a ring after its record was written, and signal when it was empty and IE is set (R153). -/
def State.ringAdvance (s : State) (r : Nat) : State :=
  let wasEmpty := s.ringCount r = 0
  let s1 := s.setRingReg r 1 ((s.ringReg r 1 + 1) % 2 ^ 32)
  if wasEmpty ∧ bitOf (s.ringReg r 3) 16 then s1.signal (ringPlace r).1 (bits (s.ringReg r 3) 10 0) else s1

/-- Write a record at an SPA through its home slice, at a time of its own; it is no write for the watch unit (R269). A frame with ADOPTED = 0 is written by no agent (R256): such a record is lost (log entry 78). -/
def State.writeRecordAt (s : State) (spa : Nat) (r : BitVec 256) : State :=
  if spaHere spa && (s.fotOf (spa / 4096)).adopted then
    let s1 := s.modM fun m => { m with l2dom := AL.put m.l2dom (spa / 256) (s.fotOf (spa / 4096)).owner }
    (List.range 32).foldl (fun s i => s.setMemByte (spa + i) (BitVec.ofNat 8 (r.toNat / 2 ^ (8 * i)))) (s1.homeTime (spa / 256) 0).2
  else s

/-- Write the notices that the notice ring can take, in order; the PF's ring lies at an SPA (R153, R313). -/
def State.drainNotices (s : State) : List (BitVec 256) → State
  | [] => { s with rep := { s.rep with notices := [] } }
  | r :: rest =>
    if s.ringOpen 2050 then
      let slot := bits (s.ringReg 2050 0) 51 12 * 4096 + 32 * (s.ringReg 2050 1 % 2 ^ s.ringLog 2050)
      State.drainNotices ((s.writeRecordAt slot r).ringAdvance 2050) rest
    else { s with rep := { s.rep with notices := r :: rest } }

/-- Send a notice (R313). -/
def State.notice (s : State) (typ port pkg part vf task detail : Nat) : State :=
  s.drainNotices (s.rep.notices ++ [s.noticeRec typ port pkg part vf task detail])

/-- Update an error bank (R319). -/
def State.errBank (s : State) (fn bank : Nat) (uc attr : Bool) (dom kind addr : Nat) : State :=
  let o := 0x20 * bank
  let w := (s.reg fn blkErr o).toNat
  let valid := bitOf w 0
  let held := bitOf w 1
  let rec0 := 1 + (if uc then 2 else 0) + (if attr then 8 else 0) + dom * 16 + kind * 2 ^ 15
  let take (s : State) (keep : Nat) : State :=
    ((s.setReg fn blkErr o (BitVec.ofNat 64 (rec0 + keep))).setReg fn blkErr (o + 8) (BitVec.ofNat 64 (addr % 2 ^ 52))).setReg
      fn blkErr (o + 16) s.clock
  let cc := w / 2 ^ 32 * 2 ^ 32
  if uc then
    let s1 := if !valid || !held then take s cc
              else (s.setReg fn blkErr o (BitVec.ofNat 64 (w ||| 4))).notice 7 0 s.pkgid 0 0 0 bank
    s1.regSat fn blkErr (o + 24) 32 1
  else
    let s1 := if !valid then take s cc else s
    if s1.regBits fn blkErr o 63 32 = 2 ^ 32 - 1 then s1
    else s1.setRegBits fn blkErr o 63 32 (s1.regBits fn blkErr o 63 32 + 1)

/-- Log an error in the PF's bank of its unit, 0 memory, 1 L2 and counter cache, 2 cores, and in the VF's own bank where it is attributed to the VF (R255, R318, R319). -/
def State.unitError (s : State) (unit : Nat) (uc : Bool) (kind spa consumer : Nat) : State :=
  let owner := (s.fotOf (spa / 4096)).owner
  let s1 := s.errBank Config.pf (if unit ≠ 0 ∨ inDram spa then 3 * homeDie spa + unit else 13) uc true owner kind spa
  if owner < Config.vfs then s1.errBank owner 0 uc true owner kind 0
  else if 1024 ≤ owner ∧ owner < 1280 ∧ consumer < Config.vfs then s1.errBank consumer 0 uc true consumer kind 0
  else s1

/-- Log the repair of a clean L1 copy of a die's cores as a corrected error (R255). -/
def State.coreError (s : State) (die spa consumer : Nat) : State :=
  let owner := (s.fotOf (spa / 4096)).owner
  let s1 := s.errBank Config.pf (3 * die + 2) false true owner 0 spa
  if owner < Config.vfs then s1.errBank owner 0 false true owner 0 0
  else if 1024 ≤ owner ∧ owner < 1280 ∧ consumer < Config.vfs then s1.errBank consumer 0 false true consumer 0 0
  else s1

/-- Log a memory error. -/
def State.memError (s : State) (uc : Bool) (kind spa consumer : Nat) : State := s.unitError 0 uc kind spa consumer

/-! Counter blocks, the counter tree and the counter caches (R252, R253) -/

/-- Counter block of a slot of a domain. -/
def State.ctrOf (s : State) (dom slot : Nat) : CtrBlock := (AL.get? s.keys.ctrs (dom * 2 ^ 32 + slot)).getD ⟨0, [], false⟩
def State.setCtr (s : State) (dom slot : Nat) (c : CtrBlock) : State :=
  { s with keys := { s.keys with ctrs := AL.put s.keys.ctrs (dom * 2 ^ 32 + slot) c } }

/-- The offset of node i of level k in a domain's tree region (R252). -/
def treeNodeOff (depth k i : Nat) : Nat := 64 * (i + sumNat ((List.range k).map fun m => 8 ^ (depth - m)))

/-- Frames of the tree region of the management domain, at depth 8 (R259). -/
def mgmtRegion : Nat := 1227133440 / 4096

/-- The address of node i of level k of a domain's tree (R252). The management domain's region is larger than one die's part of the carve-out: it runs over the frames of the carve-out in ascending SPA, from its base on (DESIGN CHOICE, log entry 90; R259 says only that it lies in the carve-out, at a place that no software reads). -/
def treeNodeAddr (dom base depth k i : Nat) : Nat :=
  let o := treeNodeOff depth k i
  if dom = Config.mgmtDomain then carveFrame (carveSlot (base / 4096) + o / 4096) * 4096 + o % 4096 else base + o

/-- Depth and base of a domain's tree; depth 0 without one. -/
def State.treeOf (s : State) (dom : Nat) : Nat × Nat := (AL.get? s.keys.trees dom).getD (0, 0)

/-- Key of the counter of node i of level k of a domain's tree, which stands in its parent. -/
def nodeKey (dom k i : Nat) : Nat := (dom * 16 + (k + 1)) * 2 ^ 34 + i

/-- Raise the counter that the parent holds for node i of level k. -/
def State.raiseNode (s : State) (dom k i : Nat) : State :=
  { s with keys := { s.keys with nodes := Tbl.set s.keys.nodes (nodeKey dom k i) (Tbl.get s.keys.nodes (nodeKey dom k i) + 1) } }

/-- Raise the counters of the path from a leaf to the root: level k has index slot / 8^k (R252, R257 step 6). -/
def State.raisePath (s : State) (dom slot : Nat) : State :=
  (List.range (s.treeOf dom).1).foldl (fun s k => s.raiseNode dom k (slot / 8 ^ k)) s

/-- A line of the counter cache is that of node i of level k of a domain. -/
def CtrLine.isOf (c : CtrLine) (dom k i : Nat) : Bool := c.dom == dom && c.level == k && c.index == i

/-- Put a node into the counter cache of its address's home die, or mark it dirty there (R253). A domain without a tree has none. -/
def State.ctrPut (s : State) (dom k i : Nat) (dirty : Bool) : State :=
  let t := s.treeOf dom
  let old := s.mm.ctrCache.any fun c => c.isOf dom k i && c.dirty
  if t.1 = 0 then s
  else s.modM fun m => { m with ctrCache := ⟨homeDie (treeNodeAddr dom t.2 t.1 k i), dom, k, i, dirty || old⟩ :: m.ctrCache.filter fun c => !c.isOf dom k i }

/-- The node is verified and cached. -/
def State.ctrCached (s : State) (dom k i : Nat) : Bool := s.mm.ctrCache.any fun c => c.isOf dom k i

/-- Take cache entries away without writing them back. -/
def State.ctrDrop (s : State) (p : CtrLine → Bool) : State := s.modM fun m => { m with ctrCache := m.ctrCache.filter fun c => !p c }

/-- Write back one cache entry: its parent's counter is raised, and the parent is dirty in turn unless it is the root, which is held on die (R252, R253). -/
def State.ctrEvict (s : State) (c : CtrLine) : State :=
  let s1 := s.ctrDrop fun x => x.isOf c.dom c.level c.index
  if !c.dirty then s1
  else
    let s2 := s1.raiseNode c.dom c.level c.index
    if c.level + 1 < (s.treeOf c.dom).1 then s2.ctrPut c.dom (c.level + 1) (c.index / 8) true else s2

/-- Entries of one die's counter cache: 512 KiB of 64-byte entries (R253). -/
def ctrPlaces : Nat := 8192

/-- Bring a die's counter cache back to its size; the entry filled longest ago leaves (log entry 11). -/
def State.ctrTrim (die : Nat) : Nat → State → State
  | 0, s => s
  | n + 1, s =>
    let mine := s.mm.ctrCache.filter fun c => c.die == die
    if mine.length ≤ ctrPlaces then s
    else
      match mine.getLast? with
      | some c => State.ctrTrim die n (s.ctrEvict c)
      | none => s

/-- Bring every die's counter cache back to its size; the clock does so at its end. -/
def State.ctrTrims (s : State) : State := [0, 1, 2, 3].foldl (fun s d => State.ctrTrim d (s.mm.ctrCache.length) s) s

/-- Fill the counter block of a slot and the nodes of its path up to the first that is cached, each verified against its parent (R253). -/
def State.ctrFill (s : State) (dom slot : Nat) : State :=
  let ks := (List.range (s.treeOf dom).1).takeWhile fun k => !s.ctrCached dom k (slot / 8 ^ k)
  ks.reverse.foldl (fun s k => s.ctrPut dom k (slot / 8 ^ k) false) s

/-! Memory reads (R254, R255) -/

/-- A byte of the range is not dirty, so its sector is read from memory. -/
def State.consumes (s : State) (a n : Nat) : Bool := (List.range n).any fun i => !AL.has s.mm.dirty (a + i)

/-- Sectors a range of bytes touches. -/
def sectorsOf (a n : Nat) : List Nat := (List.range ((a + n - 1) / 64 + 1 - a / 64)).map fun i => a / 64 + i

/-- The first step of a read from memory (R254, R255): the ECC word of a sector is decoded. An uncorrectable error and a misdirected one poison the sector; an error of the clean cached line is repaired by reading the line again. The result is whether the data are lost. -/
def State.eccStep (s : State) (sec consumer : Nat) : Bool × State :=
  match AL.get? s.mm.upsets sec with
  | none => (false, s)
  | some k =>
    let s0 := s.modM fun m => { m with upsets := AL.del m.upsets sec }
    if k = 4 then (false, s0.unitError 1 false 0 (sec * 64) consumer)
    else if k = 1 then (false, s0.memError false 0 (sec * 64) consumer)
    else (true, (s0.modM fun m => { m with poison := insSorted sec m.poison }).memError true (if k = 3 then 1 else 0) (sec * 64) consumer)

/-- The MAC of a sector fails under its owner's key, or its side band's zero field is not zero (R228, R251, R254). -/
def State.macFails (s : State) (sec : Nat) : Bool := s.mm.macBad.contains sec || Tbl.get s.mm.sideTop sec != 0 || AL.has s.mm.sealDom sec

/-- The counter block of a frame, or a node of its path, fails its check; a cached one is trusted (R253, R254). -/
def State.treeFails (s : State) (frame : Nat) : Bool :=
  let fe := s.fotOf frame
  s.mm.treeBad.contains frame && !s.ctrCached fe.owner 0 (fe.cslot.getD 0)

/-- Read-check one sector that an access consumes: ECC, poison, the tree path, and the MAC (R254, R255). The result is the trap code, if any. -/
def State.checkSector (s : State) (sec consumer : Nat) : Option Nat × State :=
  let spa := sec * 64
  let (bad, s1) := s.eccStep sec consumer
  if bad then (some tcUncorr, s1)
  else if s1.mm.poison.contains sec then (some tcUncorr, s1.memError true 0 spa consumer)
  else if s1.treeFails (spa / 4096) then (some tcInteg, s1.memError true 2 spa consumer)
  else
    let fe := s1.fotOf (spa / 4096)
    let s2 := s1.ctrFill fe.owner (fe.cslot.getD 0)
    if s2.macFails sec then (some tcInteg, s2.memError true 2 spa consumer) else (none, s2)

/-- Read-check a range of bytes; the first failing sector decides. -/
def State.readCheck (s : State) (a n consumer : Nat) : Option Nat × State :=
  (sectorsOf a n).foldl (fun acc sec =>
    match acc.1 with
    | some _ => acc
    | none =>
      let lo := max a (sec * 64)
      let hi := min (a + n) (sec * 64 + 64)
      if acc.2.consumes lo (hi - lo) then acc.2.checkSector sec consumer else acc) (none, s)

/-- Discard the dirty bytes of a sector. -/
def State.discardDirty (s : State) (sec : Nat) : State := s.modM fun m => { m with dirty := m.dirty.filter fun e => e.1 / 64 != sec }

/-- Log a line found under another domain's tag in the PF's bank of its unit, 1 L2 of the home die or 2 the cores of a die (R256). -/
def State.keyMismatch (s : State) (die unit line : Nat) : State := s.errBank Config.pf (3 * die + unit) true false 0 3 (line * 256)

/-- A lookup of a line in L2 by an access of a domain. A cached line with another domain's tag is a miss: its content is discarded and logged (R256). -/
def State.lineDomain (s : State) (line dom : Nat) : State :=
  match AL.get? s.mm.l2dom line with
  | some d =>
    if d = dom then s
    else
      let s1 := [0, 1, 2, 3].foldl (fun (s : State) k => s.discardDirty (line * 4 + k)) s
      (s1.modM fun m => { m with l2dom := AL.put m.l2dom line dom }).keyMismatch (homeDie (line * 256)) 1 line
  | none => s.modM fun m => { m with l2dom := AL.put m.l2dom line dom }

/-- Write bytes inside one line through its home slice, as the hardware's own writes that are no store for any rule: context, stack and B-stage traffic (R83, R197, R287). The line stands in L2 under the domain of its frame (R256). To another package they send nothing (log entry 39). -/
def State.quietWrite (s : State) (spa : Nat) (l : List Nat) : State :=
  if spaRemote spa then s
  else (l.zip (List.range l.length)).foldl (fun s e => s.setMemByte (spa + e.2) (BitVec.ofNat 8 e.1))
    ((s.lineDomain (spa / 256) (s.fotOf (spa / 4096)).owner).homeTime (spa / 256) 0).2

/-- A line leaves L2, with its way. -/
def State.leaveL2 (s : State) (line : Nat) : State := s.modM fun m => { m with l2dom := AL.del m.l2dom line, l2way := AL.del m.l2way line }

/-! Held versions (R171, R235) -/

/-- A line request has been performed at its home: applied, or its value fixed (R162, R177). -/
def LineReq.performed (r : LineReq) : Bool := r.stage == 2 && (r.kind != 0 || r.withheld.isEmpty)

/-- The address of a byte of a lane. -/
def LineReq.addr (r : LineReq) (lane off : Nat) : Nat := AL.getD r.vas lane r.va + off

/-- Write-backs to memory of a warp that stand in a matrix queue, before a place in its program order: stores that have no request yet (R160, R199). -/
def State.queuedMats (s : State) (wid ord : Nat) : List MatEntry :=
  s.eng.matq.flatMap fun e => e.2.filter fun m => m.wid == wid && m.id < ord && m.op == 5 && !m.follower && !m.elems.isEmpty

/-- A queued write-back stores to a line with a property. -/
def MatEntry.storesTo (m : MatEntry) (p : Nat → Bool) : Bool := m.elems.any fun x => p (x.2.1 / 256)

/-- Matrix entries have left their queues, and the stores they made are performed (R144, R199). -/
def State.matsDone (s : State) (ids : List Nat) : Bool :=
  !(s.eng.matq.any fun q => q.2.any fun m => ids.contains m.id) &&
  !(s.mm.reqs.any fun r => !r.performed && match r.mat with
    | some m => ids.contains m
    | none => false)

/-- A warp number that no warp has, for the requests of engines. -/
def engWid : Nat := 2 ^ 60

/-- The request of an engine for a line of another package: lanes with their offsets and data, and the time of the engine's queue for the line's die (R176, R250). -/
def State.farReq (s : State) (e : EngRef) (pts : BitVec 40) (core vf dom spa va kind width : Nat) (tag : Option Nat) (lanes : List (Nat × Nat × Rec × Rec)) : State :=
  let (id, s1) := s.fresh
  let r : LineReq := {
    id := id, wid := engWid, pathB := false, pend := none, core := core, vf := vf, dom := dom, line := spa / 256, va := va, win := true
    kind := kind, op := .add, et := 0, width := width, tag := tag.getD 0, tagset := tag.isSome, lanes := lanes, stage := 0, wts := 0, rts := 0
    fill := 0, sectors := 0, got := [], withheld := [], xpc := 0, made := s.now, ord := id, mat := none, arrived := 0, tags := 0, vas := []
    eng := some e, ins := id, adaptive := false, engPts := pts }
  s1.modM fun m => { m with reqs := m.reqs ++ [r] }

/-- Accesses that a warp has issued and that are not complete, which its engine entries come after (R168, R169): line requests, and write-backs that stand in a matrix queue. -/
def State.outstanding (s : State) (wid : Nat) : List Nat :=
  (s.mm.reqs.filter fun r => r.wid == wid && !(r.kind == 0 && r.pend.isNone)).map (·.id) ++ (s.queuedMats wid s.nextId).map (·.id)

/-- The same, of what comes before a place in the warp's program order. -/
def State.outstandingTo (s : State) (wid ord : Nat) : List Nat :=
  (s.mm.reqs.filter fun r => r.wid == wid && r.ord < ord && !(r.kind == 0 && r.pend.isNone)).map (·.id) ++ (s.queuedMats wid ord).map (·.id)

/-- None of a list of requests and matrix entries, or of the stores they made, is left. -/
def State.beforeDone (s : State) (ids : List Nat) : Bool :=
  !(s.mm.reqs.any fun r => ids.contains r.id || (match r.mat with
    | some m => ids.contains m
    | none => false)) && !(s.eng.matq.any fun q => q.2.any fun m => ids.contains m.id)

/-- Line requests have been performed, or are gone. -/
def State.reqsDone (s : State) (ids : List Nat) : Bool := !(s.mm.reqs.any fun r => ids.contains r.id && !r.performed)

/-- Line requests to a die, and what write-backs store to it, have been performed (R165, R199). -/
def State.dieDone (s : State) (die : Nat) (ids : List Nat) : Bool :=
  !(s.mm.reqs.any fun r => !spaRemote (r.line * 256) && homeDie (r.line * 256) == die && (ids.contains r.id || r.mat.any ids.contains) && !r.performed) &&
  !(s.eng.matq.any fun q => q.2.any fun m => ids.contains m.id)

/-- The block, or one of its check runs, is the same checked block. -/
def State.sameBlock (s : State) (a b : Nat) : Bool := (s.blockOf a).origin == (s.blockOf b).origin

/-- A block other than the given one holds versions on a line. -/
def State.heldByOther (s : State) (bid line : Nat) : Bool :=
  s.blocks.any fun e => e.2.origin != (s.blockOf bid).origin && e.2.set.bytes.any fun b => b.1 / 256 == line

/-- Any block holds versions on a line. -/
def State.heldAny (s : State) (line : Nat) : Bool := s.blocks.any fun e => e.2.set.bytes.any fun b => b.1 / 256 == line

/-- The block whose versions a request sees. -/
def LineReq.bid (r : LineReq) : Nat :=
  match r.eng with
  | some (.copy b _ _) => b
  | some (.strm w _) | some (.fetch w _) => w / 32
  | some _ => engWid / 32
  | none => r.wid / 32

/-- Another block holds versions of the request's line (R171). A released version waits for none. -/
def State.reqHeld (s : State) (r : LineReq) : Bool := r.eng != some .held && s.heldByOther r.bid r.line

/-- Versions on a line that an engine's access has to wait for (R171). -/
def State.engHeld (s : State) (e : EngRef) (line : Nat) : Bool :=
  match e with
  | .copy b _ _ => s.heldByOther b line
  | .strm w _ | .fetch w _ => s.heldByOther (w / 32) line
  | .held => false
  | _ => s.heldAny line

/-- Two engine requests are of one queue, whose program order they keep (R164, R168, R169, R174, R270). -/
def EngRef.sameQueue : EngRef → EngRef → Bool
  | .copy b q _, .copy b' q' _ => b == b' && q == q'
  | .jig v _, .jig v' _ => v == v'
  | e, e' => e == e'

/-- The place of an engine's access among those that have arrived at a line's home slice (R161). -/
def State.placeOf (s : State) (e : EngRef) (line : Nat) : Option Nat := (s.mm.places.find? fun p => p.1 == line && p.2.1 == e).map fun p => p.2.2

/-- An engine's access does not pass one that arrived at the line before it and waits there no longer for versions (R161, R171). -/
def State.engTurn (s : State) (e : EngRef) (line : Nat) : Bool :=
  let mine := s.placeOf e line
  let first (n : Nat) : Bool := mine.all (n < ·)
  !(s.mm.reqs.any fun q => q.line == line && q.stage == 1 && first q.arrived && !s.reqHeld q) &&
  !(s.mm.places.any fun p => p.1 == line && p.2.1 != e && first p.2.2 && !s.engHeld p.2.1 line)

/-- An engine's access stands at a line: it may be performed there now when no versions and no earlier access are in its way, and the die does not switch its mode (R161, R171, R184). -/
def State.engFree (s : State) (e : EngRef) (line : Nat) : Bool :=
  !s.engHeld e line && s.engTurn e line && (spaRemote (line * 256) || !s.switchingDie (homeDie (line * 256)))

/-- An engine that waits at a held line has its place there from now on (R161). -/
def State.notePlace (s : State) (x : EngRef × Nat) : State :=
  if s.engHeld x.1 x.2 && (s.placeOf x.1 x.2).isNone then
    let (k, s1) := s.fresh
    s1.modM fun m => { m with places := m.places ++ [(x.2, x.1, k + 1)] }
  else s

/-- Note which engines wait at held lines, in the order in which they came (R161). -/
def State.notePlaces (s : State) (l : List (EngRef × Nat)) : State :=
  l.foldl State.notePlace (s.modM fun m => { m with places := m.places.filter fun p => l.contains (p.2.1, p.1) })

/-- A byte as a block's own loads see it: its held version, or the visible byte. -/
def State.ownByte (s : State) (bid a : Nat) : Byte := (AL.get? (s.blockOf bid).set.bytes a).getD (s.memByte a)

/-- Consecutive bytes as a block sees them. -/
def State.ownBytes (s : State) (bid a n : Nat) : List Nat := (List.range n).map fun i => (s.ownByte bid (a + i)).toNat

/-- Hold the bytes of a line as versions. -/
def State.holdLine (s : State) (bid line : Nat) (bs : List (Nat × Nat)) (tag : Option Nat) : State :=
  s.updBlock bid fun b => { b with set := { b.set with
    bytes := bs.foldl (fun t e => AL.put t (line * 256 + e.1) (BitVec.ofNat 8 e.2)) b.set.bytes
    tags := match tag with
      | some t => bs.foldl (fun g e => AL.put g ((line * 256 + e.1) / 64) (BitVec.ofNat 4 t)) b.set.tags
      | none => b.set.tags } }

/-- The lines a version set holds. -/
def VersionSet.lines (v : VersionSet) : List Nat := sortNub (v.bytes.map fun e => e.1 / 256)

/-- The release time of a set on a die (R181). -/
def State.releaseTime (s : State) (lines : List Nat) : Nat :=
  lines.foldl (fun t l => max t (max ((Tbl.get s.mm.rts l).toNat + 1) ((Tbl.get s.mm.wts l).toNat + 1))) 0

/-- A line of this package lies on a die. -/
def onDie (die line : Nat) : Bool := !spaRemote (line * 256) && homeDie (line * 256) == die

/-- The mode of a die after a switch (R184). A load whose value is withheld is performed again in the mode that results. -/
def State.setDir (s : State) (die cause : Nat) : State :=
  ((s.dropCopies (onDie die)).againIf fun r => onDie die r.line).modM fun m => { m with
    dirMode := if cause = 0 then AL.del m.dirMode die else AL.put m.dirMode die cause
    switching := AL.del m.switching die }

/-- A switch of a die's mode in progress ends (R184). -/
def State.endSwitch (s : State) (die : Nat) : State :=
  match AL.get? s.mm.switching die with
  | some c => s.setDir die c
  | none => s

/-- Install a set's versions of one die at one time, and raise GSC to it (R181, R240). A release waits for a switch of the die's mode: the switch ends, and the release is made in the mode that results (R184). -/
def State.releaseDie (s : State) (v : VersionSet) (d : Nat) : State :=
  let ls := v.lines.filter fun l => onDie d l
  if ls.isEmpty then s
  else
    let s := s.endSwitch d
    let s0 := s.rebaseIf (s.releaseTime ls)
    let t := s0.releaseTime ls
    let s1 := ls.foldl (fun s l =>
      let bs := (v.bytes.filter fun e => e.1 / 256 == l).map fun e => (e.1 % 256, e.2.toNat)
      let dom := (s.fotOf (l / 16)).owner
      let s1 := s.applyLine dom l bs none
      let s2 := s1.modM fun m => { m with wts := Tbl.set m.wts l (BitVec.ofNat 40 t), rts := Tbl.set m.rts l (BitVec.ofNat 40 t) }
      if s2.inDirMode d then s2.dropL1 l else s2) s0
    let s2 := v.tags.foldl (fun s e => if !spaRemote (e.1 * 64) && homeDie (e.1 * 64) == d then s.setTag (e.1 * 64) e.2.toNat else s) s1
    let s3 := s2.noteTime d (BitVec.ofNat 40 t)
    { s3 with gsc := if s3.gsc.toNat < t then BitVec.ofNat 40 t else s3.gsc }

/-- Release a set on every die (R171, R181). -/
def State.releaseSet (s : State) (v : VersionSet) : State := [0, 1, 2, 3].foldl (fun s d => s.releaseDie v d) s

/-- The tag that a set gives a byte of memory, if its sector was stored through KIND 2. -/
def VersionSet.tagOf (v : VersionSet) (a : Nat) : Option Nat := (AL.get? v.tags (a / 64)).map (·.toNat)

/-- Send a set's versions of lines of other packages to their homes (R171, R250, R261); the result is the requests: of each line, one for the bytes without a tag and one for those of each tag (R123). -/
def State.releaseFar (s : State) (vf core : Nat) (v : VersionSet) : List Nat × State :=
  let groups := (v.lines.filter fun l => spaRemote (l * 256)).flatMap fun l =>
    let bs := v.bytes.filter fun e => e.1 / 256 == l
    ((bs.map fun e => v.tagOf e.1).eraseDups).map fun t => (l, t, bs.filter fun e => v.tagOf e.1 == t)
  groups.foldl (fun (acc : List Nat × State) g =>
    let data := (g.2.2.zip (List.range g.2.2.length)).map fun x => (x.2, x.1.1 % 256, BitVec.ofNat 128 x.1.2.toNat, (0 : Rec))
    (acc.1 ++ [acc.2.nextId], acc.2.farReq .held 0 core vf 0 (g.1 * 256) 0 1 1 g.2.1 data)) ([], s)

/-! Write-back (R252, R253) -/

/-- Dirty bytes of a sector. -/
def State.dirtyOf (s : State) (sec : Nat) : AL Byte := s.mm.dirty.filter fun e => e.1 / 64 == sec

/-- Write back one sector's dirty bytes (R253 to R255): the sector is read and checked when not all its bytes are new, counters are bumped, the page is re-encrypted at a wrap, losses are logged. -/
def State.writeBackSector (s : State) (sec : Nat) : State :=
  let ds := s.dirtyOf sec
  let frame := sec / 64
  let fe := s.fotOf frame
  let slot := fe.cslot.getD 0
  let c := s.ctrOf fe.owner slot
  let full := ds.length = 64
  let (lost, s0) := if full then (false, s.modM fun m => { m with upsets := AL.del m.upsets sec }) else s.eccStep sec Config.vfs
  if ds.isEmpty then s
  else if s.treeFails frame then (s.discardDirty sec).memError true 4 (sec * 64) Config.vfs
  else if lost || ((s.mm.poison.contains sec || s.macFails sec) && !full) then
    (s0.discardDirty sec).memError true 4 (sec * 64) Config.vfs
  else
    let m := Tbl.get c.minors (sec % 64) + 1
    if c.exhausted || (m = 0 && c.major = BitVec.ofNat 64 (2 ^ 64 - 1)) then
      let s1 := (s0.discardDirty sec).setCtr fe.owner slot { c with exhausted := true }
      (s1.modM fun m => { m with poison := insSorted sec m.poison }).memError true 4 (sec * 64) Config.vfs
    else
      let c1 : CtrBlock := if m = 0 then ⟨c.major + 1, [], false⟩ else { c with minors := Tbl.set c.minors (sec % 64) m }
      let s1 := ((s0.setCtr fe.owner slot c1).ctrFill fe.owner slot).ctrPut fe.owner 0 slot true
      let s2 := s1.modM fun m => { m with
        mem := ds.reverse.foldl (fun t e => Tbl.set t e.1 e.2) m.mem
        poison := m.poison.filter (· != sec)
        sideTop := Tbl.set m.sideTop sec 0
        sealDom := AL.del m.sealDom sec
        macBad := m.macBad.filter (· != sec) }
      s2.discardDirty sec

/-- Write back the dirty bytes of a line (R126, R253). -/
def State.writeBackLine (s : State) (line : Nat) : State := [0, 1, 2, 3].foldl (fun s k => s.writeBackSector (line * 4 + k)) s

/-- Write back and invalidate every line of the given domains (R300). -/
def State.flushDomains (s : State) (p : Nat → Bool) : State :=
  let lines := sortNub ((s.mm.dirty.filter fun e => p (s.fotOf (e.1 / 4096)).owner).map fun e => e.1 / 256)
  let s1 := lines.foldl (fun s l => s.writeBackLine l) s
  s1.modM fun m => { m with
    l1 := m.l1.filter (fun e => !p e.2.dom)
    l2dom := m.l2dom.filter (fun e => !p e.2)
    l2way := m.l2way.filter (fun e => !(AL.get? m.l2dom e.1).any p)
    reqs := m.reqs.map fun r => if p r.dom then { r with sectors := 0 } else r }

/-- A page is exhausted: every write-back to it is refused (R253). -/
def State.pageExhausted (s : State) (frame : Nat) : Bool :=
  let fe := s.fotOf frame
  (s.ctrOf fe.owner (fe.cslot.getD 0)).exhausted

end Sys2Proof.Machine
end

