-- ==== Sys2Proof/Machine/Crypto.lean ====
section
/-! DEFINITION. SHA3-256 (R267), AES-256 and GHASH (R249, R251), and the sealed form of a sector outside the die. -/

set_option Elab.async false

namespace Sys2Proof.Machine

/-! SHA3-256 (FIPS 202) -/

/-- Round constants of Keccak-f[1600]. -/
def keccakRc : List DWord :=
  [0x0000000000000001#64, 0x0000000000008082#64, 0x800000000000808A#64, 0x8000000080008000#64,
   0x000000000000808B#64, 0x0000000080000001#64, 0x8000000080008081#64, 0x8000000000008009#64,
   0x000000000000008A#64, 0x0000000000000088#64, 0x0000000080008009#64, 0x000000008000000A#64]
  ++
  [0x000000008000808B#64, 0x800000000000008B#64, 0x8000000000008089#64, 0x8000000000008003#64,
   0x8000000000008002#64, 0x8000000000000080#64, 0x000000000000800A#64, 0x800000008000000A#64,
   0x8000000080008081#64, 0x8000000000008080#64, 0x0000000080000001#64, 0x8000000080008008#64]

/-- Rotation of lane (x, y), at index x + 5 y. -/
def keccakRot : List Nat :=
  [0, 1, 62, 28, 27, 36, 44, 6, 55, 20, 3, 10, 43, 25, 39, 41, 45, 15, 21, 8, 18, 2, 61, 56, 14]

/-- A lane of the state. -/
def lane (a : List DWord) (x y : Nat) : DWord := a.getD (x % 5 + 5 * (y % 5)) 0

/-- One round. -/
def keccakRound (a : List DWord) (rc : DWord) : List DWord :=
  let c := (List.range 5).map fun x => lane a x 0 ^^^ lane a x 1 ^^^ lane a x 2 ^^^ lane a x 3 ^^^ lane a x 4
  let d := (List.range 5).map fun x => c.getD ((x + 4) % 5) 0 ^^^ (c.getD ((x + 1) % 5) 0).rotateLeft 1
  let t := (List.range 25).map fun i => a.getD i 0 ^^^ d.getD (i % 5) 0
  -- B[y, 2x + 3y] = rot(A[x, y]); the source of B[u, v] has y = u and x = (v - 3u) / 2 modulo 5
  let b := (List.range 25).map fun i =>
    let u := i % 5
    let v := i / 5
    let y := u
    let x := (v + 2 * u) * 3 % 5
    (lane t x y).rotateLeft (keccakRot.getD (x + 5 * y) 0)
  let e := (List.range 25).map fun i => lane b (i % 5) (i / 5) ^^^ (~~~(lane b (i % 5 + 1) (i / 5)) &&& lane b (i % 5 + 2) (i / 5))
  match e with
  | h :: r => (h ^^^ rc) :: r
  | [] => []

/-- The permutation. -/
def keccakF (a : List DWord) : List DWord := keccakRc.foldl keccakRound a

/-- Absorb one 136-byte block. -/
def sha3Absorb (a : List DWord) (blk : List Nat) : List DWord :=
  keccakF ((List.range 25).map fun i =>
    if i < 17 then a.getD i 0 ^^^ BitVec.ofNat 64 (leNat ((blk.drop (8 * i)).take 8)) else a.getD i 0)

/-- Absorb a message block by block; the fuel bounds the number of blocks. -/
def sha3Go : Nat → List DWord → List Nat → List DWord
  | 0, a, _ => a
  | n + 1, a, m =>
    if m.length < 136 then
      let pad := if m.length = 135 then [0x86] else 0x06 :: (List.replicate (134 - m.length) 0 ++ [0x80])
      sha3Absorb a (m ++ pad)
    else sha3Go n (sha3Absorb a (m.take 136)) (m.drop 136)

/-- SHA3-256 of a list of bytes, as the little-endian number of its 32 bytes. -/
def sha3 (m : List Nat) : BitVec 256 :=
  let a := sha3Go (m.length / 136 + 1) (List.replicate 25 0) m
  BitVec.ofNat 256 (leNat ((a.take 4).flatMap fun w => leBytes 8 w.toNat))

/-! AES-256 -/

/-- Multiply by x in GF(2^8). -/
def xtime (a : Nat) : Nat := let b := a * 2; if b < 256 then b else (b % 256) ^^^ 0x1B

/-- Multiply in GF(2^8). -/
def gmul (a b : Nat) : Nat :=
  ((List.range 8).foldl (fun (acc : Nat × Nat) i => (if bitOf b i then acc.1 ^^^ acc.2 else acc.1, xtime acc.2)) (0, a)).1

/-- The inverse a^254 in GF(2^8), zero for zero. -/
def ginv (a : Nat) : Nat :=
  let a2 := gmul a a
  let a4 := gmul a2 a2
  let a8 := gmul a4 a4
  let a16 := gmul a8 a8
  let a32 := gmul a16 a16
  let a64 := gmul a32 a32
  let a128 := gmul a64 a64
  gmul a2 (gmul a4 (gmul a8 (gmul a16 (gmul a32 (gmul a64 a128)))))

/-- The S-box. -/
def sbox (a : Nat) : Nat :=
  let b := ginv a
  let rot (n : Nat) : Nat := (b * 2 ^ n) % 256 ^^^ (b / 2 ^ (8 - n))
  b ^^^ rot 1 ^^^ rot 2 ^^^ rot 3 ^^^ rot 4 ^^^ 0x63

/-- Exclusive or of two byte lists. -/
def xorBytes (a b : List Nat) : List Nat := List.zipWith (fun x y => x ^^^ y) a b

/-- The sixty words of the AES-256 key schedule, as byte lists, latest first. -/
def aesExpand : Nat → Nat → List (List Nat) → List (List Nat)
  | 0, _, ws => ws
  | n + 1, i, ws =>
    let prev := ws.headD []
    let t :=
      if i % 8 = 0 then
        match (prev.drop 1 ++ prev.take 1).map sbox with
        | h :: r => (h ^^^ (List.range (i / 8 - 1)).foldl (fun a _ => xtime a) 1) :: r
        | [] => []
      else if i % 8 = 4 then prev.map sbox else prev
    aesExpand n (i + 1) (xorBytes (ws.getD 7 []) t :: ws)

/-- Round keys of a 32-byte key, sixteen bytes each. -/
def aesKeys (key : List Nat) : List (List Nat) :=
  let w0 := (List.range 8).map fun i => (key.drop (4 * i)).take 4
  let ws := (aesExpand 52 8 w0.reverse).reverse
  (List.range 15).map fun i => ((ws.drop (4 * i)).take 4).flatMap id

/-- SubBytes and ShiftRows on a column-major block. -/
def aesSubShift (b : List Nat) : List Nat :=
  (List.range 16).map fun i => sbox (b.getD ((i % 4) + 4 * ((i / 4 + i % 4) % 4)) 0)

/-- MixColumns. -/
def aesMix (b : List Nat) : List Nat :=
  (List.range 16).map fun i =>
    let c := i / 4 * 4
    let at_ (k : Nat) : Nat := b.getD (c + (i + k) % 4) 0
    gmul (at_ 0) 2 ^^^ gmul (at_ 1) 3 ^^^ at_ 2 ^^^ at_ 3

/-- Encrypt one 16-byte block under a 32-byte key. -/
def aes256 (key blk : List Nat) : List Nat :=
  let ks := aesKeys key
  let b0 := xorBytes blk (ks.headD [])
  let b13 := (List.range 13).foldl (fun b r => xorBytes (aesMix (aesSubShift b)) (ks.getD (r + 1) [])) b0
  xorBytes (aesSubShift b13) (ks.getD 14 [])

/-! GHASH (SP 800-38D), with blocks as numbers whose most significant bit is bit 0 of the block -/

/-- Multiply in GF(2^128). -/
def ghMul (x y : BitVec 128) : BitVec 128 :=
  ((List.range 128).foldl (fun (acc : BitVec 128 × BitVec 128) i =>
    (if x.getMsbD i then acc.1 ^^^ acc.2 else acc.1,
     if acc.2.getLsbD 0 then (acc.2 >>> 1) ^^^ (0xE1#128 <<< 120) else acc.2 >>> 1)) (0, y)).1

/-- A block of bytes as a number, first byte most significant. -/
def beBlock (b : List Nat) : BitVec 128 := BitVec.ofNat 128 (b.foldl (fun a x => a * 256 + x) 0)

/-- The bytes of a block. -/
def blockBytes (x : BitVec 128) : List Nat := (leBytes 16 x.toNat).reverse

/-- GHASH of a list of blocks. -/
def ghash (h : BitVec 128) (bs : List (List Nat)) : BitVec 128 := bs.foldl (fun a b => ghMul (a ^^^ beBlock b) h) 0

/-! Sealing a sector (R251) -/

/-- The key of a domain: the draw made when it was created (R249, log entry 6). -/
def State.domainKey (s : State) (dom : Nat) : List Nat := leBytes 32 (Config.keyDraw (AL.getD s.keys.doms dom 0)).toNat

/-- The counter input of AES block j of a sector (R251), as its 16 little-endian bytes. -/
def sectorIv (sec minor major j : Nat) (node mack : Bool) : List Nat :=
  leBytes 16 (j + sec % 2 ^ 46 * 2 ^ 2 + minor * 2 ^ 48 + major * 2 ^ 55 + (if node then 2 ^ 126 else 0) + (if mack then 2 ^ 127 else 0))

/-- Ciphertext and MAC of 64 bytes under a key and counters (R251). -/
def sealBytes (key : List Nat) (sec minor major : Nat) (node : Bool) (p : List Nat) : List Nat × Nat :=
  let h := beBlock (aes256 key (List.replicate 16 0))
  let c := (List.range 4).flatMap fun j => xorBytes ((p.drop (16 * j)).take 16) (aes256 key (sectorIv sec minor major j node false))
  let t := xorBytes
    (blockBytes (ghash h ((List.range 4).map (fun j => (c.drop (16 * j)).take 16) ++ [sectorIv sec minor major 0 node false])))
    (aes256 key (sectorIv sec minor major 0 node true))
  (c, leNat t % 2 ^ 56)

/-- What a bus outside the die sees of a sector: the ciphertext and MAC of its memory-side bytes under its owner's key and counters, or under the key that a log entry was written with (R228, R251, R252). -/
def State.sealed (s : State) (sec : Nat) : List Nat × Nat :=
  let fe := s.fotOf (sec / 64)
  let c := s.ctrOf fe.owner (fe.cslot.getD 0)
  sealBytes (s.domainKey ((AL.get? s.mm.sealDom sec).getD fe.owner)) sec (Tbl.get c.minors (sec % 64)).toNat c.major.toNat false (Tbl.bytes s.mm.mem (sec * 64) 64)

/-- A page's counter block as the 64 bytes its tree stores (R252). -/
def CtrBlock.bytes (c : CtrBlock) : List Nat :=
  leBytes 64 (c.major.toNat + sumNat ((List.range 64).map fun i => (Tbl.get c.minors i).toNat * 2 ^ (64 + 7 * i)))

/-- The side band of a sector: the tagged ECC word over ciphertext, tag and address, the MAC, and eight zero bits (R251, R255). -/
def sideBand (c : List Nat) (tag sec mac : Nat) : BitVec 128 :=
  BitVec.ofNat 128 ((Config.eccWord (BitVec.ofNat 512 (leNat c)) (BitVec.ofNat 4 tag) (BitVec.ofNat 46 sec)).toNat + mac % 2 ^ 56 * 2 ^ 64)

/-- The side band that a bus outside the die sees beside a sector: a poisoned sector has the poison word as its ECC (R251, R255). -/
def State.sideBandOf (s : State) (sec : Nat) : BitVec 128 :=
  let (c, mac) := s.sealed sec
  let b := sideBand c (s.tagAt (sec * 64)) sec mac + BitVec.ofNat 128 ((Tbl.get s.mm.sideTop sec).toNat * 2 ^ 120)
  if s.mm.poison.contains sec then BitVec.ofNat 128 (b.toNat / 2 ^ 64 * 2 ^ 64 + Config.poisonWord.toNat) else b

/-- How the decoder classifies a sector that it reads with a check word (R255): clean with its tag, poison, or another syndrome. Which syndromes are one data symbol's and which an address difference's is the code's, which the specification does not give (log entry 75). -/
def eccClean (c : List Nat) (sec : Nat) (ecc : DWord) : Option Nat :=
  (List.range 16).find? fun t => ecc == Config.eccWord (BitVec.ofNat 512 (leNat c)) (BitVec.ofNat 4 t) (BitVec.ofNat 46 sec)

/-- An inner node as the 64 bytes its tree stores: the counters of its eight children, child c at bits [64c+63:64c] (R252). -/
def State.nodeBytes (s : State) (dom k i : Nat) : List Nat :=
  (List.range 8).flatMap fun c => leBytes 8 (Tbl.get s.keys.nodes (nodeKey dom (k - 1) (8 * i + c))).toNat

/-- What the tree region holds for node i of level k of a domain: ciphertext and MAC under the tree domain's key with NODE = 1, MINOR = 0, and MAJOR the counter that the parent holds for it (R251, R252). -/
def State.sealedNode (s : State) (dom k i : Nat) : List Nat × Nat :=
  let t := s.treeOf dom
  sealBytes (s.domainKey dom) (treeNodeAddr dom t.2 t.1 k i / 64) 0 (Tbl.get s.keys.nodes (nodeKey dom k i)).toNat true
    (if k = 0 then (s.ctrOf dom i).bytes else s.nodeBytes dom k i)

end Sys2Proof.Machine
end

