-- ==== Sys2Proof/Machine/Translate.lean ====
section
/-! DEFINITION. Two-stage translation, translation caches and the merge tables (file 06). -/

set_option Elab.async false

namespace Sys2Proof.Machine

/-! Table entries (R136 to R139) -/

def pteV (e : Nat) : Bool := bitOf e 0
def pteLeaf (e : Nat) : Bool := bitOf e 1
def pteW (e : Nat) : Bool := bitOf e 2
def pteX (e : Nat) : Bool := bitOf e 3
def pteP (e : Nat) : Bool := bitOf e 4
def pteSpan (e : Nat) : Nat := bits e 6 5
def pteWin (e : Nat) : Bool := bitOf e 7
def pteFrame (e : Nat) : Nat := bits e 51 12
def pteKd (e : Nat) : Nat := bits e 62 52

/-- Bytes one entry of a level covers. -/
def levelSize (k : Nat) : Nat := 4096 * 512 ^ k

/-- The page size of a leaf (R138); the SPAN code multiplies by 4. -/
def pageSize (k span : Nat) : Nat := levelSize k * 4 ^ span

/-- The SPAN code is reserved at the level (R138). -/
def spanReserved (k span : Nat) : Bool := if k = 0 then false else if k = 1 then span == 3 else span != 0

/-- Malformed for guest and host entries alike (R139). -/
def pteMalformed (e k : Nat) : Bool :=
  bits e 11 8 != 0 || bitOf e 63 ||
  (if pteLeaf e then k ≥ 3 || spanReserved k (pteSpan e) || pteFrame e * 4096 % pageSize k (pteSpan e) != 0
   else k == 0 || pteW e || pteX e || pteSpan e != 0 || pteWin e) ||
  (pteKd e != 0 && !pteWin e)

/-- A guest entry is malformed (R139); its frame always lies below GPA 2^52. -/
def guestMalformed (e k : Nat) : Bool := pteMalformed e k || pteWin e

/-- Every frame of a host leaf's page has memory, the right owner and ADOPTED = 1 (R139); frames of other packages are not tested here. With WIN = 1 the owner is a window domain: no leaf maps the carve-out or another domain's private frame (R259, R262; log entry 77). -/
def State.hostFramesOk (s : State) (vf e k : Nat) : Bool :=
  let want := if pteWin e then pteKd e else vf
  (!pteWin e || (1024 ≤ pteKd e && pteKd e < 1280)) &&
  (List.range (pageSize k (pteSpan e) / 4096)).all fun i =>
    let spa := (pteFrame e + i) * 4096
    spaRemote spa || (spaHere spa && (s.fotOf (spa / 4096)).owner == want && (s.fotOf (spa / 4096)).adopted)

/-- A host entry is malformed (R139). -/
def State.hostMalformed (s : State) (vf e k : Nat) : Bool :=
  pteMalformed e k || (pteLeaf e && !s.hostFramesOk vf e k)

/-! Walks (R140) -/

/-- How a translation ends. -/
inductive Walk where
  | ok (spa : Nat) (w x win : Bool) (size dom : Nat)
  /-- Stage 2 or 1, level, address: GPA or VA. -/
  | invalid (stage2 : Bool) (level addr : Nat)
  /-- Stage, level, address aligned to the region of the stopping entry, whether a guest table was being read (R147, R151), and the address aligned to the page as far as the walk knows its size. -/
  | nonres (stage2 : Bool) (level addr : Nat) (table : Bool) (page : Nat)
  /-- A table's memory failed its read check: trap code (R254). -/
  | failed (code : Nat)
  deriving DecidableEq, Repr

/-- An 8-byte coherent read of a table entry for a VF, or the failure of its sector (R140, R254). A frame with ADOPTED = 0 is read by no agent: its words count as zero (R256, log entry 78). A table of another package gives a word of that package's (log entry 39). -/
def State.read8 (s : State) (vf spa : Nat) : Nat × Option Nat × State :=
  if spaRemote spa then ((Config.remoteTable s.free spa).toNat, none, { s with free := s.free + 1 })
  else if !(s.fotOf (spa / 4096)).adopted then (0, none, s)
  else
    let (c, s1) := (s.lineDomain (spa / 256) (s.fotOf (spa / 4096)).owner).readCheck spa 8 vf
    (leNat (s1.memBytes spa 8), c, s1)

/-- A leaf's SPAN code makes it one of a group at its level (R138). -/
def spanGroup (e k : Nat) : Bool := pteV e && pteLeaf e && pteSpan e != 0 && k ≤ 1 && !spanReserved k (pteSpan e)

/-- The entry of a table that an access uses: any entry of a span group may serve (R138); log entry 8. -/
def State.readEntry (s : State) (vf table idx k : Nat) : Nat × Option Nat × State :=
  let (e, f, s1) := s.read8 vf (table + 8 * idx)
  if f.isNone && spanGroup e k then
    let n := 4 ^ pteSpan e
    let base := idx / n * n
    if (List.range n).all fun i => leNat (s1.memBytes (table + 8 * (base + i)) 8) == e then (e, f, s1)
    else s1.read8 vf (table + 8 * (base + Config.freeChoice (s1.free + idx) % n))
  else (e, f, s1)

/-- The bytes a stopping entry covers: its page, or the region of a pointer (R147). -/
def stopSize (e k : Nat) : Nat := if pteLeaf e then pageSize k (pteSpan e) else levelSize k

/-- The host walk over the levels left to read (R140). -/
def State.hostWalk (vf ga : Nat) : State → Nat → List Nat → Walk × State
  | s, _, [] => (.invalid true 0 ga, s)
  | s, t, k :: ks =>
    let (e, f, s1) := s.readEntry vf t (bits ga (20 + 9 * k) (12 + 9 * k)) k
    match f with
    | some c => (.failed c, s1)
    | none =>
      if !pteV e || s1.hostMalformed vf e k then (.invalid true k ga, s1)
      else if !pteP e then
        let a := ga / stopSize e k * stopSize e k
        (.nonres true k a false a, s1)
      else if pteLeaf e then
        let size := pageSize k (pteSpan e)
        (.ok (pteFrame e * 4096 + ga % size) (pteW e) (pteX e) (pteWin e) size (if pteWin e then pteKd e else vf), s1)
      else State.hostWalk vf ga s1 (pteFrame e * 4096) ks

/-- A cached translation that covers an address (R141). -/
def tlbFind (l : List TlbEntry) (loc vf va : Nat) : Option TlbEntry :=
  l.find? fun e => e.loc == loc && e.vf == vf && e.va ≤ va && va < e.va + e.size

/-- The translation a cached entry gives. -/
def TlbEntry.walk (e : TlbEntry) (va : Nat) : Walk := .ok (e.spa + (va - e.va)) e.w e.x e.win e.size e.dom

/-- Put an entry into a translation cache of n places at its place; the oldest entry there leaves (log entry 11). -/
def tlbPut (n : Nat) (l : List TlbEntry) (e : TlbEntry) : List TlbEntry :=
  let others := l.filter fun x => x.loc != e.loc
  let same := l.filter fun x => x.loc == e.loc && !(x.vf == e.vf && x.va == e.va)
  others ++ e :: same.take (n - 1)

/-- The entry that caches a translation. -/
def tlbEntryOf (loc vf va : Nat) : Walk → Option TlbEntry
  | .ok spa w x win size dom => some ⟨loc, vf, dom, va / size * size, size, spa - va % size, w, x, win⟩
  | _ => none

/-- Host translation through the die's nested TLB (R141). -/
def State.hostT (s : State) (die vf ga : Nat) : Walk × State :=
  match tlbFind s.mm.tlbN die vf ga with
  | some e => (e.walk ga, s)
  | none =>
    let (r, s1) := State.hostWalk vf ga s (s.hroot vf) [4, 3, 2, 1, 0]
    (r, match tlbEntryOf die vf ga r with
        | some e => s1.modM fun m => { m with tlbN := tlbPut 4096 m.tlbN e }
        | none => s1)

/-- A non-resident host result as a guest walk meets it (R147, R151): while a table was read, or on the final GPA of a guest page of a size at a VA. -/
def Walk.inGuest (table : Bool) (va size : Nat) : Walk → Walk
  | .nonres true k a _ _ => .nonres true k a table (va / size * size)
  | r => r

/-- The guest walk over the levels left to read (R140). -/
def State.guestWalk (die vf va : Nat) : State → Nat → List Nat → Walk × State
  | s, _, [] => (.invalid false 0 va, s)
  | s, g, k :: ks =>
    let idx := bits va (20 + 9 * k) (12 + 9 * k)
    match s.hostT die vf ((g + 8 * idx) % 2 ^ 52) with
    | (.ok sa _ _ _ _ _, s1) =>
      let (e, f, s1) := s1.readEntry vf (sa - 8 * idx) idx k
      match f with
      | some c => (.failed c, s1)
      | none =>
        if !pteV e || guestMalformed e k then (.invalid false k va, s1)
        else if !pteP e then
          let a := va / stopSize e k * stopSize e k
          (.nonres false k a false a, s1)
        else if pteLeaf e then
          let size := pageSize k (pteSpan e)
          match s1.hostT die vf (pteFrame e * 4096 + va % size) with
          | (.ok spa w x win hsize dom, s2) => (.ok spa (pteW e && w) (pteX e && x) win (min size hsize) dom, s2)
          | (r, s2) => (r.inGuest false va size, s2)
        else State.guestWalk die vf va s1 (pteFrame e * 4096) ks
    | (r, s1) => (r.inGuest true va (levelSize k), s1)

/-- Translate a guest VA for a core: its L1 TLB, its cluster's L2 TLB, then a nested walk whose success both caches keep (R140, R141). A walk is one action of the model; log entry 12. -/
def State.translate (s : State) (core vf va : Nat) : Walk × State :=
  match tlbFind s.mm.tlb1 core vf va with
  | some e => (e.walk va, s)
  | none =>
    match tlbFind s.mm.tlb2 (clusterOf core) vf va with
    | some e => (e.walk va, s.modM fun m => { m with tlb1 := tlbPut 512 m.tlb1 { e with loc := core } })
    | none =>
      let (r, s1) := State.guestWalk (dieOf core) vf va s (s.groot vf) [4, 3, 2, 1, 0]
      (r, match tlbEntryOf core vf va r with
          | some e => s1.modM fun m =>
              { m with tlb1 := tlbPut 512 m.tlb1 e, tlb2 := tlbPut 8192 m.tlb2 { e with loc := clusterOf core } }
          | none => s1)

/-! The GPA of an access (R318) -/

/-- The GPA that the guest tables of a VF give a VA, over the levels left to read; 0 where they give none. -/
def State.guestPlace (die vf va : Nat) : State → Nat → List Nat → Nat
  | _, _, [] => 0
  | s, g, k :: ks =>
    let idx := bits va (20 + 9 * k) (12 + 9 * k)
    match s.hostT die vf ((g + 8 * idx) % 2 ^ 52) with
    | (.ok sa _ _ _ _ _, s1) =>
      let e := leNat (s1.memBytes sa 8)
      if !pteV e then 0
      else if pteLeaf e then pteFrame e * 4096 + va % pageSize k (pteSpan e)
      else State.guestPlace die vf va s1 (pteFrame e * 4096) ks
    | _ => 0

/-- An access has put a record into its VF's error bank: the state after it holds one that the state before did not. -/
def State.newError (s : State) (vf : Nat) (t : State) : Bool :=
  let old := (s.reg vf blkErr 0).toNat
  let new := (t.reg vf blkErr 0).toNat
  vf < Config.vfs && ((bitOf new 0 && !bitOf old 0) || (bitOf new 1 && !bitOf old 1))

/-- The record that an access has just put into its VF's error bank names its GPA (R318). -/
def State.noteGpa (s : State) (core vf va : Nat) (r : Option Nat × State) : Option Nat × State :=
  if s.newError vf r.2 then
    (r.1, r.2.setReg vf blkErr 8 (BitVec.ofNat 64 (State.guestPlace (dieOf core) vf va s (s.groot vf) [4, 3, 2, 1, 0])))
  else r

/-- An access of a VF at a VA reads n bytes at an SPA: its lines are looked up under its domain (R256), and what comes from memory is checked (R254, R255, R318). -/
def State.readVa (s : State) (core vf dom va spa n : Nat) : Option Nat × State :=
  let s1 := (List.range ((spa + n - 1) / 256 + 1 - spa / 256)).foldl (fun (s : State) i => s.lineDomain (spa / 256 + i) dom) s
  s.noteGpa core vf va (s1.readCheck spa n vf)

/-! Requests to the merge table (R147, R151) -/

/-- The record type a request takes: S2TABLE or S2DATA for a host walk (R156). -/
def mergeType (stage2 table : Bool) (typ : Nat) : Nat := if stage2 then (if table then 5 else 6) else typ

/-- Raise a request at a die's merge table: fold into a live entry, take a free one, or find none free. -/
def State.raise (s : State) (die core vf task va typ : Nat) (write : Bool) (r : Walk) : Option (Nat × Nat) × State :=
  match r with
  | .nonres stage2 level addr table _ =>
    let ty := mergeType stage2 table typ
    let live := (List.range 256).find? fun i =>
      match AL.get? s.mm.merges (die * 256 + i) with
      | some e => e.vf == vf && e.stage2 == stage2 && e.addr == addr && e.typ == ty
      | none => false
    match live with
    | some i =>
      let k := die * 256 + i
      (some (k, (Tbl.get s.mm.mergeSeq k).toNat),
        s.modM fun m => { m with merges := AL.upd m.merges k fun e => { e with count := min 65535 (e.count + 1), write := e.write || write } })
    | none =>
      match (List.range 256).find? fun i => !AL.has s.mm.merges (die * 256 + i) with
      | some i =>
        let k := die * 256 + i
        let e : MergeEntry := ⟨vf, stage2, addr, ty, level, 1, write, va / 4096 * 4096, task, core, false, s.rep.order⟩
        (some (k, (Tbl.get s.mm.mergeSeq k).toNat),
          { s with rep := { s.rep with order := s.rep.order + 1 }, mm := { s.mm with merges := AL.put s.mm.merges k e } })
      | none => (none, s)
  | _ => (none, s)

/-- A data request of an access: dropped and counted in REQDROP when no entry is free (R151). -/
def State.raiseData (s : State) (core vf task va : Nat) (write : Bool) (r : Walk) : State :=
  match s.raise (dieOf core) core vf task va 1 write r with
  | (some _, s1) => s1
  | (none, s1) => s1.regSat vf blkXlate 0x20 32 1

/-- A live merge entry with this sequence. -/
def State.mergeLive (s : State) (k sq : Nat) : Bool := AL.has s.mm.merges k && (Tbl.get s.mm.mergeSeq k).toNat == sq

/-- Terminal data of an ACCESS trap on a translation result (R145, R154, R156): for stage 2 the record gives the GPA. -/
def accessInfo (r : Walk) (write : Bool) : TermInfo :=
  match r with
  | .invalid stage2 level a => ⟨2, level, if stage2 then 1 else 0, write, none, if stage2 then some a else none⟩
  | _ => ⟨3, 0, 0, write, none, none⟩

/-- The PF's own TERM record of an invalid host result met at a VA (R156): the GPA stands at 0x10 (R145). -/
def State.hostInvalid (s : State) (vf task core va : Nat) (write : Bool) (r : Walk) : State :=
  match r with
  | .invalid true level a => s.queueTerm Config.pf (termRecord vf (s.partD vf) tcAccess 2 write level 1 va a 0 task core) none
  | _ => s

/-- An ACCESS trap on a translation result; an invalid host result also reports to the PF's terminal ring (R145, R156). -/
def State.accessTrap (s : State) (va : Nat) (write : Bool) (r : Walk) : State :=
  (s.trapInfo tcAccess va (accessInfo r write)).hostInvalid s.blk.vf s.blk.task s.blk.core va write r

end Sys2Proof.Machine
end

