-- ==== Sys2Proof/Machine/Jig.lean ====
section
/-! DEFINITION. Pure tasks, watched regions and the jig table (file 12). -/

set_option Elab.async false

namespace Sys2Proof.Machine

/-- Buffer record i of a task record (R38). -/
def Task.brec (t : Task) (i : Nat) : Rec := BitVec.ofNat 128 (t.record.toNat / 2 ^ (8 * (0x40 + 16 * i)))

/-- Fields of a buffer record (R114). -/
def recBase (r : Rec) : Nat := bits r.toNat 56 0
def recKind (r : Rec) : Nat := bits r.toNat 58 57
def recRo (r : Rec) : Bool := bitOf r.toNat 59
def recTag (r : Rec) : Nat := bits r.toNat 63 60
def recStride (r : Rec) : Nat := bits r.toNat 87 64
def recSww (r : Rec) : Nat := bits r.toNat 91 88
def recSws (r : Rec) : Nat := bits r.toNat 95 92
def recExtent (r : Rec) : Nat := bits r.toNat 127 96

/-- A record of a linear kind is malformed by its own bits (R115). -/
def recMalformed (r : Rec) : Bool := recKind r == 3 || recSww r > 8 || (recSww r != 0 && recSws r + recSww r > 8)

/-- Region i of a task is an argument region, and OUT (R263). -/
def Task.argUse (t : Task) (i : Nat) : Bool := bitOf (t.f 0x20 11 8) i
def Task.argOut (t : Task) (i : Nat) : Bool := bitOf (t.f 0x20 15 12) i

/-- Ranges of the argument regions, base and length, in ascending order: IN or OUT (R263). -/
def Task.regions (t : Task) (out : Bool) : List (Nat × Nat) :=
  ((List.range 4).filter fun i => t.argUse i && t.argOut i == out).map fun i => (recBase (t.brec i), recExtent (t.brec i) * recStride (t.brec i))

/-- Two ranges overlap. -/
def overlap (a b : Nat × Nat) : Bool := a.1 < b.1 + b.2 && b.1 < a.1 + a.2

/-- Some pair of a list overlaps. -/
def overlapPair : List (Nat × Nat) → Bool
  | [] => false
  | a :: r => r.any (overlap a) || overlapPair r

/-- The 4 KiB pages a range touches. -/
def pagesOf (base len : Nat) : List Nat :=
  if len = 0 then [] else (List.range ((base + len - 1) / 4096 + 1 - base / 4096)).map fun i => (base / 4096 + i) * 4096

/-- A walk the HTS makes for itself; it fills no cache. -/
def State.htsWalk (s : State) (vf va : Nat) : Walk := (State.guestWalk 0 vf va s (s.groot vf) [4, 3, 2, 1, 0]).1

/-- The frame and domain of a valid, resident page of this package. -/
def State.pageFrame (s : State) (vf va : Nat) : Option (Nat × Nat) :=
  match s.htsWalk vf va with
  | .ok spa _ _ _ _ dom => if spaHere spa then some (spa / 4096, dom) else none
  | _ => none

/-- Words that another package's memory gives (log entry 39). -/
def State.farBytes (s : State) (n : Nat) : List Nat × State :=
  (((List.range ((n + 7) / 8)).flatMap fun i => leBytes 8 (Config.freeWord (s.free + i)).toNat).take n, { s with free := s.free + (n + 7) / 8 })

/-- Bytes at a guest VA, read page by page as the stream engine reads a record (R38, R254, R267); none when a page cannot be read or a sector fails its check (log entry 91). -/
def State.htsBytes (s : State) (vf va n : Nat) : Option (List Nat) × State :=
  (pagesOf va n).foldl (fun (acc : Option (List Nat) × State) p =>
    match acc.1, acc.2.htsWalk vf p with
    | some l, .ok spa _ _ _ _ dom =>
      let lo := max va p
      let hi := min (va + n) (p + 4096)
      if spaRemote spa then
        let (bs, s1) := acc.2.farBytes (hi - lo)
        (some (l ++ bs), s1)
      else match acc.2.readVa 0 vf dom lo (spa + (lo - p)) (hi - lo) with
        | (none, s1) => (some (l ++ s1.memBytes (spa + (lo - p)) (hi - lo)), s1)
        | (some _, s1) => (none, s1)
    | _, _ => (none, acc.2)) (some [], s)

/-- The domain of a region: that of its first page (R267). -/
def State.regionDom (s : State) (vf base : Nat) : Nat :=
  match s.htsWalk vf base with
  | .ok _ _ _ _ _ dom => dom
  | _ => vf

/-- A watched region by identity (R268). -/
def State.watched (s : State) (vf base len dom : Nat) : Option Region :=
  s.jig.regions.find? fun r => r.vf == vf && r.base == base && r.len == len && r.dom == dom

/-- Every page of a range is valid and resident in this package (R268). -/
def State.pagesHere (s : State) (vf base len : Nat) : Bool := (pagesOf base len).all fun p => (s.pageFrame vf p).isSome

/-- Mark the frames of a region at a generation, where its pages and their marks allow (R268). -/
def State.mark (s : State) (vf base len dom gen : Nat) : Option State :=
  match s.watched vf base len dom with
  | some _ => some s
  | none =>
    let frames := sortNub ((pagesOf base len).filterMap fun p => (s.pageFrame vf p).map (·.1))
    if !s.pagesHere vf base len || frames.any fun f => 8 ≤ (s.jig.regions.filter fun r => r.frames.contains f).length then none
    else some { s with jig := { s.jig with regions := s.jig.regions ++ [⟨vf, base, len, dom, gen, frames⟩] } }

/-- Place a region under watch at a generation, where R268 allows. -/
def State.watch (s : State) (vf base len dom gen : Nat) : Option State :=
  if (s.watched vf base len dom).isNone && 4096 ≤ s.jig.regions.length then none else s.mark vf base len dom gen

/-- A watched region whose pages are all valid, resident and marked stays; otherwise it is unwatched at once (R270). -/
def State.verifyRegion (s : State) (vf base len dom : Nat) : State :=
  match s.watched vf base len dom with
  | none => s
  | some r =>
    if (pagesOf base len).all fun p =>
        match s.pageFrame vf p with
        | some (f, _) => r.frames.contains f
        | none => false
    then s else s.unwatch r

/-- The stream table's bytes, when every page can be read; empty for NSTR = 0 (R267). -/
def State.streamBytes (s : State) (t : Task) : Option (List Nat) × State := s.htsBytes t.vf t.stabva (64 * t.nstr)

/-- A pure task bypasses the table, whatever its stream table (R263, R275). -/
def State.jigBypass (s : State) (t : Task) : Bool :=
  let ins := t.regions false
  let outs := t.regions true
  !s.jigEn (s.partD t.vf) ||
  (List.range 4).any (fun i => t.argUse i && (recKind (t.brec i) == 1 || recMalformed (t.brec i))) ||
  (ins ++ outs).any (fun r => r.2 == 0) || overlapPair outs || outs.any (fun o => ins.any (overlap o))

/-- The code hash of a (VF, CODEVA) pair, kept while the window stays watched and its generation stands (R267). A window that cannot be watched is hashed afresh at each lookup, which may still hit and insert (DESIGN CHOICE, log entry 96: R271 says only that it is watched as an IN region is). -/
def State.codeHash (s : State) (t : Task) : Option (BitVec 256) × State :=
  let base := t.codeva
  let dom := s.regionDom t.vf base
  let s0 := s.verifyRegion t.vf base 0x40000 dom
  let key := t.vf * 2 ^ 57 + base
  let kept := match s0.watched t.vf base 0x40000 dom, AL.get? s0.jig.hashes key with
    | some r, some (h, g, d) => if r.gen = g ∧ d = dom then some h else none
    | _, _ => none
  match kept with
  | some h => (some h, s0)
  | none =>
    let s1 := (s0.watch t.vf base 0x40000 dom 0).getD s0
    match s1.htsBytes t.vf base 0x40000 with
    | (some bs, s2) =>
      (some (sha3 bs), match s2.watched t.vf base 0x40000 dom with
        | some r => { s2 with jig := { s2.jig with hashes := AL.put s2.jig.hashes key (sha3 bs, r.gen, dom) } }
        | none => s2)
    | (none, s2) => (none, s2)

/-- Bytes of a task record. -/
def Task.bytes (t : Task) (off n : Nat) : List Nat := leBytes n (t.record.toNat / 2 ^ (8 * off))

/-- The key of a pure task (R267): the IN regions carry base, length, domain and generation. -/
def jigKeyOf (t : Task) (code : BitVec 256) (streams : List Nat) (ins : List (Nat × Nat × Nat × Nat)) : BitVec 256 :=
  sha3 (leBytes 32 code.toNat ++ t.bytes 0x10 16 ++ t.bytes 0x20 2 ++ t.bytes 0x80 64 ++ t.bytes 0xC0 64 ++ t.bytes 0x40 64
    ++ (t.nstr :: streams) ++ ins.flatMap fun r => leBytes 8 r.1 ++ leBytes 8 r.2.1 ++ leBytes 2 r.2.2.1 ++ leBytes 6 r.2.2.2)

/-- Count in a jig counter of a partition, saturating (R275). -/
def State.jigCount (s : State) (p off : Nat) : State := s.regSat Config.pf blkPart (partOff p + 0x3000 + off) 64 1

/-- A hit's outputs: none where the lookup must miss, else the copies to make (R270). -/
def hitCopiesOf (outs : List (Nat × Nat × Nat)) (es : List (Nat × Nat × Nat × Nat)) : Option (List (Nat × Nat × Nat)) :=
  if outs.length ≠ es.length then none
  else (outs.zip es).foldl (fun acc p =>
    match acc with
    | none => none
    | some l =>
      let (n, e) := p
      if n.2.1 ≠ e.2.1 then none
      else if n.1 = e.1 ∧ n.2.2 = e.2.2.1 then some l
      else if overlap (n.1, n.2.1) (e.1, e.2.1) then none
      else some (l ++ [(e.1, n.1, n.2.1)])) (some [])

/-- A copy to one of a task's OUT regions, with the tag and kind of the region's record (R123, R270). The source side is checked against the same tag: its own record is gone (DESIGN CHOICE, log entry 91). -/
def Task.jigCopy (t : Task) (x : Nat × Nat × Nat) : JigCopy :=
  let r := ((List.range 4).find? fun i => t.argUse i && t.argOut i && recBase (t.brec i) == x.2.1).map t.brec
  { src := x.1, dst := x.2.1, len := x.2.2, done := 0, buf := [], tag := recTag (r.getD 0), tagset := recKind (r.getD 0) == 2, hold := none, far := none }

/-- Look up a pure task that has become Ready (R270, R271). The result is the task as it goes on: a hit with its copies, a miss with the key kept for insertion, or a bypass. A hit whose copies would go to a faulted jig queue, which takes no entries (R211), is a miss (DESIGN CHOICE, log entry 91). -/
def State.jigLookup (s : State) (t : Task) : State :=
  let p := s.partD t.vf
  let name := t.name
  let bypass (s : State) : State := (s.jigCount p 0x38).updTask t.vf name fun t => { t with bypass := true }
  if s.jigBypass t then bypass s
  else match s.streamBytes t with
  | (none, s) => bypass s
  | (some streams, s) =>
    let ins := (t.regions false).map fun r => (r.1, r.2, s.regionDom t.vf r.1)
    let outs := (t.regions true).map fun r => (r.1, r.2, s.regionDom t.vf r.1)
    let s0 := ins.foldl (fun s r => s.verifyRegion t.vf r.1 r.2.1 r.2.2) s
    let allWatched := ins.all fun r => (s0.watched t.vf r.1 r.2.1 r.2.2).isSome
    let (code, s1) := s0.codeHash t
    -- every unwatched IN region goes under watch at generation 0 (R271)
    let (ok, s2) := ins.foldl (fun (acc : Bool × State) r =>
      match acc.2.watch t.vf r.1 r.2.1 r.2.2 0 with
      | some s' => (acc.1, s')
      | none => (false, acc.2)) (true, s1)
    let gens := ins.map fun r => match s2.watched t.vf r.1 r.2.1 r.2.2 with
      | some w => w.gen
      | none => 0
    let key := code.map fun c => jigKeyOf t c streams ((ins.zip gens).map fun (r, g) => (r.1, r.2.1, r.2.2, g))
    let entry := match key with
      | some k => if allWatched then s2.jig.entries.find? fun (e : JigEntry) => e.vf == t.vf && e.key == k else none
      | none => none
    let s3 := match entry with
      | some e => e.outs.foldl (fun (s : State) (o : Nat × Nat × Nat × Nat) => s.verifyRegion t.vf o.1 o.2.1 o.2.2.1) s2
      | none => s2
    let good := match entry with
      | some e =>
        if s3.jig.entries.contains e && e.outs.all fun (o : Nat × Nat × Nat × Nat) =>
            match s3.watched t.vf o.1 o.2.1 o.2.2.1 with
            | some w => w.gen == o.2.2.2
            | none => false
        then (hitCopiesOf outs e.outs).filter fun (l : List (Nat × Nat × Nat)) => l.isEmpty || !s3.jig.faulted.contains t.vf
        else none
      | none => none
    match good, entry with
    | some cs, some e =>
      let cs := cs.map t.jigCopy
      let s4 := { s3 with jig := { s3.jig with entries := e :: s3.jig.entries.filter (· != e) } }
      (s4.jigCount p 0x10).updTask t.vf name fun t => { t with hitCopies := some cs, jigKey := some e.key }
    | _, _ =>
      (s3.jigCount p 0x18).updTask t.vf name fun t => { t with jigKey := if ok then key else none, inGens := gens }

/-- An entry names a region, as one of its ranges or as its code window. -/
def JigEntry.names (e : JigEntry) (r : Region) : Bool :=
  e.vf == r.vf && (e.outs.any (fun o => o.1 == r.base && o.2.1 == r.len && o.2.2.1 == r.dom) ||
    e.ins.any (fun i => i.1 == r.base && i.2.1 == r.len && i.2.2 == r.dom) || (r.len == 0x40000 && e.code == (r.base, r.dom)))

/-- A task that missed and is to be inserted when it retires needs a region (R271, R273). -/
def Task.jigNeeds (t : Task) (r : Region) : Bool :=
  t.vf == r.vf && t.st != .killed && t.jigKey.isSome && t.hitCopies.isNone &&
  (((t.regions false).any fun i => i.1 == r.base && i.2 == r.len) || (r.len == 0x40000 && t.codeva == r.base))

/-- Release the watched regions that no entry names and no task in progress needs (R274), with the code hashes made over them. -/
def State.releaseRegions (s : State) : State :=
  let needed (r : Region) : Bool := s.jig.entries.any (fun e => e.names r) || s.tasks.any fun t => t.2.jigNeeds r
  { s with jig := { s.jig with
    regions := s.jig.regions.filter needed
    hashes := (s.jig.regions.filter fun r => !needed r).foldl hashForget s.jig.hashes } }

/-- Evict the least recently used entry of a partition, other than one that is to be replaced (R274). -/
def State.jigEvict (s : State) (p : Nat) (old : JigEntry → Bool) : State :=
  match (s.jig.entries.filter fun e => e.part == p && !old e).getLast? with
  | some e => (({ s with jig := { s.jig with entries := s.jig.entries.filter (· != e) } }).jigCount p 0x30).releaseRegions
  | none => s

/-- Evict until a partition holds at most n entries beside one that is to be replaced. -/
def State.jigEvictTo (s : State) (p n : Nat) (old : JigEntry → Bool) : Nat → State
  | 0 => s
  | k + 1 => if n < (s.jig.entries.filter fun e => e.part == p && !old e).length then (s.jigEvict p old).jigEvictTo p n old k else s

/-- Make room for the regions that are not watched yet by evicting entries of a partition (R274). -/
def State.jigRegionRoom (s : State) (vf p : Nat) (outs : List (Nat × Nat × Nat)) (old : JigEntry → Bool) : Nat → State
  | 0 => s
  | k + 1 =>
    let n := (outs.filter fun r => (s.watched vf r.1 r.2.1 r.2.2).isNone).length
    if 4096 < s.jig.regions.length + n && s.jig.entries.any (fun e => e.part == p && !old e) then (s.jigEvict p old).jigRegionRoom vf p outs old k else s

/-- Insert a missed pure task at retirement, or count the failure (R273). Nothing is evicted for a task whose regions cannot be watched (R268, R274). An entry of its key is replaced by a successful insertion alone. -/
def State.jigInsert (s : State) (t : Task) : State :=
  let p := s.partD t.vf
  let ins := (t.regions false).map fun r => (r.1, r.2, s.regionDom t.vf r.1)
  let outs := (t.regions true).map fun r => (r.1, r.2, s.regionDom t.vf r.1)
  let gensSame := (ins.zip t.inGens).all fun (r, g) => match s.watched t.vf r.1 r.2.1 r.2.2 with
    | some w => w.gen == g
    | none => false
  match t.jigKey with
  | none => s.jigCount p 0x28
  | some k =>
    let old (e : JigEntry) : Bool := e.vf == t.vf && e.key == k
    let s0 := outs.foldl (fun (s : State) r => s.verifyRegion t.vf r.1 r.2.1 r.2.2) s
    let canMark := (outs.foldl (fun (acc : Option State) r => acc.bind fun s => s.mark t.vf r.1 r.2.1 r.2.2 0) (some s0)).isSome
    if !t.pureNow || !t.voted || !gensSame || s.jquota p = 0 || !(ins.all fun r => s.pagesHere t.vf r.1 r.2.1) || !canMark then (s0.releaseRegions).jigCount p 0x28
    else
      let s1 := s0.jigEvictTo p (s0.jquota p - 1) old s0.jig.entries.length
      let s2 := s1.releaseRegions.jigRegionRoom t.vf p outs old (s1.jig.entries.length + 1)
      let (ok, s3) := outs.foldl (fun (acc : Bool × State) r =>
        match acc.2.watch t.vf r.1 r.2.1 r.2.2 0 with
        | some s' => (acc.1, s')
        | none => (false, acc.2)) (true, s2)
      if !ok then (s3.releaseRegions).jigCount p 0x28
      else
        let os := outs.map fun r => (r.1, r.2.1, r.2.2, match s3.watched t.vf r.1 r.2.1 r.2.2 with
          | some w => w.gen
          | none => 0)
        ({ s3 with jig := { s3.jig with entries := ⟨t.vf, p, k, os, ins, (t.codeva, s.regionDom t.vf t.codeva)⟩ :: s3.jig.entries.filter fun e => !old e } }).jigCount p 0x20

/-! The jig queue (R270, R272) -/

/-- A VF's hits whose 640 clocks are over and that have copies left. -/
def State.jigTasks (s : State) (vf : Nat) : List Task :=
  (s.tasks.filter fun (e : Nat × Task) => e.2.vf == vf && e.2.st == .ready && e.2.readyAt + 640 ≤ s.now && (match e.2.hitCopies with
    | some l => !l.isEmpty
    | none => false)).map fun (e : Nat × Task) => e.2

/-- The head of a VF's jig queue: the copies of its hits in the order of their lookups, those of one clock by name (R168, R270; log entry 87). A faulted queue performs nothing and takes no entry (R211). -/
def State.jigHead (s : State) (vf : Nat) : Option (Task × JigCopy) :=
  if s.jig.faulted.contains vf then none
  else (minBy (fun (t : Task) => t.readyAt * 2 ^ 20 + t.name) (s.jigTasks vf)).bind fun t => (t.hitCopies.bind (·.head?)).map fun c => (t, c)

/-- Replace the first copy of a task, or drop it once it is complete. -/
def State.putJig (s : State) (t : Task) (c : JigCopy) : State :=
  s.updTask t.vf t.name fun t => { t with hitCopies := t.hitCopies.map fun l => if c.len ≤ c.done then l.tail else c :: l.tail }

/-- Time of a VF's jig queue for a die. -/
def State.jigTime (s : State) (vf d : Nat) : BitVec 40 := Tbl.get (AL.getD s.jig.pts vf []) d

/-- An answer raises the jig queue's time. -/
def State.jigRaise (s : State) (vf d : Nat) (x : BitVec 40) : State :=
  { s with jig := { s.jig with pts := AL.put s.jig.pts vf (ptsUp (AL.getD s.jig.pts vf []) d x) } }

/-- A hit's copy stops (R272): its entry is deleted, its task is killed with the record of R212, and its VF's queue is faulted with every later entry, which stay unperformed (R211; what ends the fault the rules do not say: DEDUCED, log entry 91). The record's AUX takes the bytes done of the copy and their sixteenth as the lane, and XPC and CORE are 0, since no `cpy` and no core made the copy (DESIGN CHOICE, log entry 91). The level, stage and GPA are those of the walk that stopped it (R154). -/
def State.jigStop (s : State) (vf name code cause addr : Nat) (at_ : Nat × Nat × Option Nat) : State :=
  match AL.get? s.tasks (taskKey vf name) with
  | none => s
  | some t =>
    let done := match t.hitCopies with
      | some (c :: _) => c.done
      | _ => 0
    let s1 := { s with jig := { s.jig with
      entries := s.jig.entries.filter fun e => !(e.vf == vf && some e.key == t.jigKey)
      faulted := insSorted vf s.jig.faulted } }
    s1.killWith vf name (termRecord vf (s1.partD vf) code (cause + 1) (cause = 2) at_.1 at_.2.1 addr (at_.2.2.getD 0)
      (done % 2 ^ 16 + done / 16 % 32 * 2 ^ 16 + cause * 2 ^ 21) name 0)

/-- Where a walk stopped: level, stage, and GPA for stage 2 (R145, R154). -/
def Walk.stopAt : Walk → Nat × Nat × Option Nat
  | .invalid stage2 level a => (level, if stage2 then 1 else 0, if stage2 then some a else none)
  | _ => (0, 0, none)

/-- What a page that cannot be used does to a hit's copy (R156, R211). The merge table is that of die 0 and the request's CORE is 0, since no core made the copy (DESIGN CHOICE, log entry 91). -/
def State.jigMiss (s : State) (t : Task) (c : JigCopy) (va : Nat) (write : Bool) (w : Walk) : State :=
  match w with
  | .nonres .. =>
    match s.raise 0 0 t.vf t.name va 1 write w with
    | (some k, s1) => s1.putJig t { c with hold := some k }
    | (none, s1) => s1.regSat t.vf blkXlate 0x20 32 1
  | .failed k => s.jigStop t.vf t.name k (if k = tcUncorr then 0 else 4) va (0, 0, none)
  | _ => (s.jigStop t.vf t.name tcAccess 1 va w.stopAt).hostInvalid t.vf t.name 0 va write w

/-- The VA of a copy's next transfer. -/
def JigCopy.nextVa (c : JigCopy) : Nat := if c.buf.isEmpty then c.src + c.done else c.dst + c.done

/-- A page that a copy of a VF's jig queue waits for is declared invalid: the copy stops (R155, R211). -/
def State.jigBad (s : State) (vf k sq : Nat) (p : BadPage) : State :=
  match s.jigHead vf with
  | some (t, c) =>
    if c.hold = some (k, sq) then
      s.jigStop vf t.name tcAccess 1 c.nextVa (p.level, p.stage, p.gpa)
    else s
  | none => s

/-- Bytes from an SPA on, up to a number, whose sectors carry a tag (R123). -/
def State.tagRun (s : State) (spa n : Nat) (tag : Nat) : Nat :=
  match (sectorsOf spa n).find? fun x => s.tagAt (x * 64) != tag with
  | some x => x * 64 - spa
  | none => n

/-- A request of a hit's copy to another package: 32 bytes at most (R250). -/
def State.jigFar (s : State) (t : Task) (c : JigCopy) (dom spa va kind : Nat) (bs : List Nat) : State :=
  let id := s.nextId
  let lanes := (bs.zip (List.range 32)).map fun e => (e.2, spa % 256 + e.2, BitVec.ofNat 128 e.1, (0 : Rec))
  (s.farReq (.jig t.vf t.name) (s.jigTime t.vf (farDie (spa / 256))) 0 t.vf dom spa (va / 256 * 256) kind 1 (if kind = 1 ∧ c.tagset then some c.tag else none) lanes).putJig t { c with far := some id }

/-- Read the bytes of a hit's next transfer: what lies on one line of each side. -/
def State.jigRead (s : State) (t : Task) (c : JigCopy) : State :=
  let va := c.src + c.done
  let n := min (c.len - c.done) (min (256 - va % 256) (256 - (c.dst + c.done) % 256))
  match s.htsWalk t.vf va with
  | .ok spa _ _ win _ dom =>
    if spaRemote spa then s.jigFar t c dom spa va 0 (List.replicate (min n 32) 0)
    else
      let m := s.tagRun spa n c.tag
      if m = 0 then s.jigStop t.vf t.name tcAccess 3 va (0, 0, none)
      else
        let k := if (s.readVa 0 t.vf dom va spa m).1.isNone then m else min m (64 - spa % 64)
        match s.readVa 0 t.vf dom va spa k with
        | (some x, s1) => s1.jigStop t.vf t.name x (if x = tcUncorr then 0 else 4) va (0, 0, none)
        | (none, s1) =>
          let d := homeDie spa
          let (x, s2) := if win then (Tbl.get s1.mm.wts (spa / 256), s1) else s1.engineLease (spa / 256) (s1.jigTime t.vf d) (s1.lease t.vf)
          (s2.jigRaise t.vf d x).putJig t { c with buf := s2.memBytes spa k }
  | w => s.jigMiss t c va false w

/-- Write the bytes that have been read. -/
def State.jigWrite (s : State) (t : Task) (c : JigCopy) : State :=
  let va := c.dst + c.done
  match s.htsWalk t.vf va with
  | .ok spa wr _ _ _ dom =>
    if !wr then s.jigStop t.vf t.name tcAccess 2 va (0, 0, none)
    else if spaRemote spa then s.jigFar t c dom spa va 1 (c.buf.take 32)
    else
      let n := if c.tagset then c.buf.length else s.tagRun spa c.buf.length c.tag
      if n = 0 then s.jigStop t.vf t.name tcAccess 3 va (0, 0, none)
      else if s.pageExhausted (spa / 4096) then s.jigStop t.vf t.name tcUncorr 0 va (0, 0, none)
      else
        let d := homeDie spa
        let (x, s1) := (s.lineDomain (spa / 256) dom).homeTime (spa / 256) (s.jigTime t.vf d)
        let s2 := s1.applyLine dom (spa / 256) (((c.buf.take n).zip (List.range n)).map fun e => (spa % 256 + e.2, e.1)) (if c.tagset then some c.tag else none)
        (s2.jigRaise t.vf d x).putJig t { c with done := c.done + n, buf := c.buf.drop n }
  | w => s.jigMiss t c va true w

/-- The SPA that the next transfer of a copy names, and its domain, where its page gives one. -/
def State.jigNext (s : State) (t : Task) (c : JigCopy) : Option (Nat × Nat) :=
  match s.htsWalk t.vf c.nextVa with
  | .ok spa _ _ _ _ dom => some (spa, dom)
  | _ => none

/-- The next transfer of a copy may be made: its page is not waited for, and its line is free (R161, R171, R184). -/
def State.jigFree (s : State) (t : Task) (c : JigCopy) : Bool :=
  c.far.isNone && c.hold.all (fun h => !s.mergeLive h.1 h.2) && (s.jigNext t c).all fun x => s.engFree (.jig t.vf t.name) (x.1 / 256)

/-- One line transfer of a VF's jig queue (R209, R270). -/
def State.jigStep (s : State) (vf : Nat) : State :=
  match s.jigHead vf with
  | none => s
  | some (t, c) =>
    if !s.jigFree t c then s
    else if c.buf.isEmpty then s.jigRead t { c with hold := none } else s.jigWrite t { c with hold := none }

/-- Another package's answer to a transfer of a hit's copy. -/
def State.jigAnswer (s : State) (vf name : Nat) (r : LineReq) : State :=
  match AL.get? s.tasks (taskKey vf name) with
  | some t =>
    match t.hitCopies with
    | some (c :: _) =>
      if c.far ≠ some r.id then s
      else
        let n := r.lanes.length
        let c1 := if r.kind = 0 then { c with far := none, buf := r.lanes.map fun l => (((AL.get? r.got l.1).getD 0).toNat % 256) }
          else { c with far := none, done := c.done + n, buf := c.buf.drop n }
        (s.jigRaise vf (farDie r.line) r.wts).putJig t c1
    | _ => s
  | none => s

end Sys2Proof.Machine
end

