-- ==== Sys2Proof/Machine/Hts.lean ====
section
/-! DEFINITION. The hardware task scheduler: posting, counters, readiness, retirement (R38 to R49). -/

set_option Elab.async false

namespace Sys2Proof.Machine

def stOk : Nat := 0
def stFull : Nat := 1
def stNameused : Nat := 2
def stBadrec : Nat := 3
def stGangmod : Nat := 4
def stPurearg : Nat := 6
def stBadrole : Nat := 7
def stNoname : Nat := 8
def stIsready : Nat := 9
def stRange : Nat := 10
def stBusy : Nat := 11

/-- Fields of role-table entry i (R39): byte 5, byte 4 and the entry offset. -/
def roleV (r : BitVec 2048) (i : Nat) : Bool := recBits r (0xC0 + 16 * i) 47 47 == 1
def roleAllot (r : BitVec 2048) (i : Nat) : Nat := recBits r (0xC0 + 16 * i) 39 32
def rolePrio (r : BitVec 2048) (i : Nat) : Nat := recBits r (0xC0 + 16 * i) 41 40
def roleEntry (r : BitVec 2048) (i : Nat) : Nat := recBits r (0xC0 + 16 * i) 31 0
def roleRsvd (r : BitVec 2048) (i : Nat) : Bool := recBits r (0xC0 + 16 * i) 46 42 == 0 && recBits r (0xC0 + 16 * i) 63 48 == 0 && recBits r (0xC8 + 16 * i) 63 0 == 0

/-- The number of roles: the valid entries from entry 0 on (R39). -/
def roleCount (r : BitVec 2048) : Nat := ((List.range 4).takeWhile (roleV r)).length

/-- Every reserved field of a record is zero (R38, R39); the fields the hardware writes are not looked at. -/
def recReserved (r : BitVec 2048) : Bool :=
  recBits r 0 63 58 == 0 && recBits r 8 31 22 == 0 && recBits r 8 63 47 == 0 && recBits r 0x10 63 57 == 0 &&
  recBits r 0x18 31 24 == 0 && recBits r 0x20 7 6 == 0 && recBits r 0x20 63 52 == 0 && recBits r 0x28 63 60 == 0 &&
  recBits r 0x30 63 61 == 0 && recBits r 0x38 63 57 == 0 && (List.range 4).all (roleRsvd r)

/-- Successor names SUCC0 to SUCC3 (R38). -/
def recSuccs (r : BitVec 2048) : List Nat := [recBits r 0x28 19 0, recBits r 0x28 39 20, recBits r 0x28 59 40, recBits r 0x20 51 32]

/-- BADREC (R42). -/
def recBad (r : BitVec 2048) : Bool :=
  let n := recBits r 0x10 15 0 * recBits r 0x10 31 16 * recBits r 0x10 47 32
  let gang := recBits r 0x10 51 48
  !recReserved r || n == 0 || gang == 0 || gang > 12 ||
  recBits r 0x18 7 0 == 0 || recBits r 0x18 7 0 > 32 || recBits r 0x18 23 8 > 1792 || recBits r 0x20 2 0 == 7 ||
  recBits r 0 7 0 != 0 || recBits r 0x18 63 32 % 4 != 0 || recBits r 0x30 5 0 != 0 || recBits r 0x38 11 0 != 0 ||
  recBits r 0x30 60 57 > 8 || (recSuccs r).any (fun x => x != 0 && x == recBits r 8 19 0) ||
  n > 2 ^ 32 || recBits r 0x38 56 0 + n * 0x400000 > 2 ^ 57

/-- PUREARG (R42). -/
def recPureArg (r : BitVec 2048) : Bool :=
  recBits r 0x20 3 3 == 1 &&
  (recBits r 0x20 11 8 == 0 ||
   (List.range 4).any fun i => bitOf (recBits r 0x20 11 8) i && !bitOf (recBits r 0x20 15 12) i &&
     !recRo (BitVec.ofNat 128 (r.toNat / 2 ^ (8 * (0x40 + 16 * i)))))

/-- BADROLE (R39). -/
def recBadRole (r : BitVec 2048) : Bool :=
  (List.range 4).any fun i => roleV r i &&
    (roleCount r ≤ i || roleAllot r i == 0 || roleAllot r i > 32 || roleEntry r i % 4 != 0)

/-- Tasks a VF has counted against its quota (R40). -/
def State.liveCount (s : State) (vf : Nat) : Nat := (s.tasks.filter fun t => t.2.vf == vf).length

/-- Validate a record a VF posts: the lowest-numbered code that applies (R42). NOFIT never applies on the AJ-9600. -/
def State.htsValidate (s : State) (vf : Nat) (r : BitVec 2048) : Nat :=
  let name := recBits r 8 19 0
  let n := recBits r 0x10 15 0 * recBits r 0x10 31 16 * recBits r 0x10 47 32
  if Config.htsTasks ≤ s.tasks.length ∨ s.quota vf ≤ s.liveCount vf then stFull
  else if name = 0 ∨ AL.has s.tasks (taskKey vf name) then stNameused
  else if recBad r then stBadrec
  else if n % recBits r 0x10 51 48 ≠ 0 then stGangmod
  else if recPureArg r then stPurearg
  else if recBadRole r then stBadrole
  else stOk

/-- A task becomes Ready (R41), and a pure one is looked up in the jig table (R270). -/
def State.taskReady (s : State) (vf name : Nat) : State :=
  let s1 := s.updTask vf name fun t => { t with st := .ready, counter := 0, readyAt := s.now }
  let t := s1.taskOf vf name
  if t.f 0x20 3 3 = 1 ∧ t.pureNow then s1.jigLookup t else s1

/-- The record as the HTS keeps it: VF and PART are its own (R38). -/
def State.htsRecord (s : State) (vf : Nat) (r : BitVec 2048) : BitVec 2048 :=
  BitVec.ofNat 2048 (putBits (putBits r.toNat (8 * 8 + 41) (8 * 8 + 32) vf) (8 * 8 + 46) (8 * 8 + 42) (s.partD vf))

/-- Post a record for a VF (R42): the status, and the state with the task live when it is OK. -/
def State.htsPost (s : State) (vf : Nat) (r : BitVec 2048) : Nat × State :=
  let code := s.htsValidate vf r
  if code ≠ stOk then (code, s)
  else
    let name := recBits r 8 19 0
    let t : Task := { Task.idle with vf := vf, record := s.htsRecord vf r, counter := recBits r 0x20 31 16, pureNow := recBits r 0x20 3 3 == 1 }
    let s1 := { s with tasks := AL.put s.tasks (taskKey vf name) t }
    (stOk, if t.counter = 0 then s1.taskReady vf name else s1)

/-- Decrement a task's counter (R43). -/
def State.htsDec (s : State) (vf name k : Nat) : Nat × State :=
  match AL.get? s.tasks (taskKey vf name) with
  | none => (stNoname, s)
  | some t =>
    match t.st with
    | .killed => (stNoname, s)
    | .waiting =>
      if k = 0 ∨ 65535 < k then (stRange, s)
      else if k < t.counter then (stOk, s.updTask vf name fun t => { t with counter := t.counter - k })
      else if k = t.counter then (stOk, s.taskReady vf name)
      else (stRange, s)
    | _ => (stIsready, s)

/-- Increment a task's counter (R43). -/
def State.htsAdd (s : State) (vf name k : Nat) : Nat × State :=
  match AL.get? s.tasks (taskKey vf name) with
  | none => (stNoname, s)
  | some t =>
    match t.st with
    | .killed => (stNoname, s)
    | .waiting =>
      if k = 0 ∨ 65535 < k then (stRange, s)
      else if t.counter + k ≤ 65535 then (stOk, s.updTask vf name fun t => { t with counter := t.counter + k }) else (stRange, s)
    | _ => (stIsready, s)

/-- `tskq`: state code in [18:16], counter in [15:0]; 0 for a name that is not live (R41, R43). -/
def State.htsQuery (s : State) (vf name : Nat) : Nat :=
  match AL.get? s.tasks (taskKey vf name) with
  | none => 0
  | some t =>
    let code := match t.st with
      | .waiting => 1
      | .ready => 2
      | .running => 3
      | .held => 4
      | .killed => 0
    if code = 0 then 0 else code * 65536 + t.counter

/-- A decrement the device makes itself: a failure is dropped and counted in LOSTDEC (R45). -/
def State.decOrLose (s : State) (vf name : Nat) : State :=
  let (c, s1) := s.htsDec vf name 1
  if c = stOk then s1 else s1.regSat vf blkPostwin 0x110 32 1

/-- A task retires (R45): a missed pure task is inserted first (R476), the name is free, then the successors are decremented in order. -/
def State.retireTask (s : State) (vf name : Nat) : State :=
  let t := s.taskOf vf name
  let s0 := if t.f 0x20 3 3 = 1 ∧ !t.bypass ∧ t.hitCopies.isNone then s.jigInsert t else s
  let s1 := { s0 with tasks := AL.del s0.tasks (taskKey vf name) }
  (recSuccs t.record).foldl (fun s n => if n = 0 then s else s.decOrLose vf n) s1

/-- Perform an HTS operation: its status, and the state. -/
def State.htsDo (s : State) (vf : Nat) (o : HtsOp) : Nat × State :=
  match o.op with
  | 0 => s.htsPost vf o.record
  | 1 => s.htsDec vf o.name o.k
  | _ => s.htsAdd vf o.name o.k

/-- Perform a held HTS operation; its status is not reported (R47). -/
def State.htsPerform (s : State) (vf : Nat) (o : HtsOp) : State := (s.htsDo vf o).2

/-- The entries of a block's copy queues that a list names are gone. -/
def State.copiesGone (s : State) (bid : Nat) (ids : List Nat) : Bool := !((s.blockOf bid).queues.any fun q => q.2.entries.any fun e => ids.contains e.id)

/-- Everything that a released operation comes after is visible (R46). -/
def State.sendDue (s : State) (x : HtsSend) : Bool := s.beforeDone x.op.after && s.copiesGone x.bid x.op.cops

/-- The operations among which one that waits keeps its place: those of its warp that report their status, or those of its block (R46, R439). -/
def HtsSend.line (x : HtsSend) : Nat := if x.ret.isSome then 2 ^ 61 + x.op.wid else x.bid

/-- The status goes to the pending register of the operation, which is then complete (R439). -/
def State.htsReturn (s : State) (x : HtsSend) (code : Nat) : State :=
  match x.ret with
  | none => s
  | some pid => s.updWarp x.op.wid fun w => { w with pend := w.pend.map fun p => if p.id = pid then { p with got := [(0, BitVec.ofNat 128 code)], waiting := [] } else p }

/-- Perform the operations that wait, each when its turn among its warp's or block's has come and what it comes after is visible (R46). `stuck` are the lines with an operation left. -/
def State.sendOps (s : State) (stuck : List Nat) : List HtsSend → State
  | [] => s
  | x :: r =>
    if stuck.contains x.line || !s.sendDue x then s.sendOps (x.line :: stuck) r
    else
      let (code, s1) := ({ s with sends := s.sends.erase x }).htsDo x.vf x.op
      (s1.htsReturn x code).sendOps stuck r

/-- Release a version set and then perform its held HTS operations in program order (R171, R240). Lines of other packages are sent, and the operations then wait for their acknowledgements. -/
def State.release (s : State) (vf : Nat) (v : VersionSet) : State :=
  let (ids, s1) := (s.releaseSet v).releaseFar vf 0 v
  if ids.isEmpty then v.ops.foldl (fun s o => s.htsPerform vf o) s1
  else { s1 with sends := s1.sends ++ v.ops.map fun o => ⟨vf, 2 ^ 60, { o with after := ids, cops := [] }, none⟩ }

/-- The run's warps come after the stores that have just been released: their times rise to those of the lines (R163, R176, R181). -/
def State.ownRelease (s : State) (bid : Nat) (v : VersionSet) : State :=
  let up (pts : Tbl 40) : Tbl 40 := (v.lines.filter fun l => !spaRemote (l * 256)).foldl (fun p l => ptsUp p (homeDie (l * 256)) (Tbl.get s.mm.wts l)) pts
  (s.warpsOf bid).foldl (fun s k => s.updWarp k fun w => { w with pts := up w.pts }) s

/-- Release the set of a run that goes on without one: each held operation still follows what its warp issued before it (R46, R228, R236). -/
def State.releaseEarly (s : State) (bid : Nat) (v : VersionSet) : State :=
  let vf := (s.blockOf bid).vf
  let (ids, s1) := ((s.releaseSet v).ownRelease bid v).releaseFar vf (s.blockOf bid).core v
  let new := v.ops.map fun o => (⟨vf, bid, { o with after := o.after ++ ids }, none⟩ : HtsSend)
  { s1 with sends := s1.sends ++ new }.sendOps [] (s1.sends ++ new)

/-- Count in the health record (R246). -/
def State.health (s : State) (off : Nat) : State :=
  { s with chk := { s.chk with health := Tbl.set s.chk.health off (Tbl.get s.chk.health off + 1) } }

/-- Lines that held versions of a set may occupy in a slice (R236): the share of the partition's ways, 1,024 lines to a way. -/
def State.clampLines (s : State) (p slice : Nat) : Nat := popc 16 (s.ways p slice) * 1024 * s.clampSixteenths p / 16

/-- Lines of a set beyond its share in each slice: spilled to the check region (R236). -/
def State.spilledLines (s : State) (bid : Nat) : Nat :=
  let b := s.blockOf bid
  let p := s.partD b.vf
  let ks := (b.set.lines.filter fun l => !spaRemote (l * 256)).map fun l => s.homeSlice (s.fotOf (l / 16)).owner (l * 256)
  sumNat ((sortNub ks).map fun k => (ks.filter (· == k)).length - s.clampLines p k)

/-- The run of a block becomes unlogged or unverified: its versions are released and its later stores are plain (R228, R236). -/
def State.unverify (s : State) (bid off : Nat) : State :=
  let b := s.blockOf bid
  if b.unver then s
  else
    let s1 := s.updBlock bid fun b => { b with set := ⟨[], [], []⟩, unver := true }
    let s2 := (s1.releaseEarly bid b.set).health off
    s2.updTask b.vf b.task fun t => { t with voted := false }

/-- Bytes of the check region in use: log slots of mortise runs, and spilled lines at 256 bytes each; log entry 25. -/
def State.checkUsed (s : State) (p : Nat) : Nat :=
  sumNat (s.blocks.map fun e =>
    if s.partD e.2.vf = p ∧ e.2.kind ≠ .plain ∧ !e.2.unver then
      (if e.2.kind = .mortise then e.2.logSize else 0) + 256 * s.spilledLines e.1
    else 0)

/-- Where a mortise run's log slot lies in the check region: at the first multiple of its size that no other slot of the partition meets (R228, log entry 25). -/
def State.logPlace (s : State) (p : Nat) : Nat :=
  let n := s.logSlot p
  let used := (s.blocks.filter fun e => s.partD e.2.vf == p && e.2.kind == .mortise && !e.2.unver).map fun e => (e.2.logAt, e.2.logSize)
  ((((List.range (min (2 ^ s.checkLog2 p / n) (257 * (used.length + 1)))).map fun i => s.checkBase p + i * n).find? fun a => !used.any (overlap (a, n))).getD (s.checkBase p))

/-- The set of a run has grown past its share and the check region: the run becomes unverified (R236). -/
def State.spillCheck (s : State) (bid : Nat) : State :=
  let p := s.partD (s.blockOf bid).vf
  if s.spilledLines bid = 0 || s.checkUsed p ≤ 2 ^ s.checkLog2 p then s else s.unverify bid 0x3F0

end Sys2Proof.Machine
end

