-- ==== Sys2Proof/Machine/Replay.lean ====
section
/-! DEFINITION. The replay log (R228 to R231), check runs that draw on it (R233, R234), and the purity test (R265, R266). -/

set_option Elab.async false

namespace Sys2Proof.Machine

/-- Entry types (R230). -/
def leLoad : Nat := 1
def leNrmask : Nat := 2
def leAtom : Nat := 3
def leTatom : Nat := 4
def leTimg : Nat := 5
def leVal : Nat := 6
def leCpydone : Nat := 7
def leTread : Nat := 8

/-- The current run logs (R228, R284). -/
def State.logging (s : State) : Bool := s.blk.kind == .mortise && !s.blk.unver && !s.w.recipe

/-- The current run replays the log of its mortise run (R233); in recipe mode nothing is logged, so nothing is taken (R284). -/
def State.checkRun (s : State) : Bool := s.blk.kind == .tenon || s.blk.kind == .dowel

/-- The bytes of an entry: its header and its padded payload (R229). -/
def LogEntry.bytes (e : LogEntry) : List Nat :=
  let h := e.typ % 16 + e.warp % 32 * 2 ^ 4 + (if e.strm then 2 ^ 9 else 0) + e.lmask.toNat * 2 ^ 10 + e.w % 8 * 2 ^ 42 + e.seq % 8192 * 2 ^ 51
  leBytes 8 h ++ e.payload ++ List.replicate ((8 - e.payload.length % 8) % 8) 0

/-- Write an entry whose value is fixed into its block's log slot: into memory, under the key of the VF's domain, and as no store for any rule (R228). -/
def State.logWrite (s : State) (b : Block) (e : LogEntry) : State :=
  let a := b.logAt + e.place
  let secs := sectorsOf a e.bytes.length
  if !e.filled || !spaHere a then s
  else
    (secs.foldl (fun (s : State) k => s.discardDirty k) s).modM fun m => { m with
      mem := Tbl.setBytes m.mem a e.bytes
      sealDom := secs.foldl (fun t k => AL.put t k b.vf) m.sealDom }

/-- Append an entry of n payload bytes to a stream of a block, or make the run unlogged when it would not fit (R228). The result is the entry's place in the stream. -/
def State.logPutAt (s : State) (bid widx : Nat) (strm : Bool) (typ : Nat) (lmask : Word) (w n : Nat) (payload : Option (List Nat)) : Nat × State :=
  let b := s.blockOf bid
  let sz := 8 + (n + 7) / 8 * 8
  let wid := bid * 32 + widx
  let seq := ((s.warpOf wid).path strm).logSeq
  let e : LogEntry := ⟨typ, widx, strm, lmask, w, seq, payload.getD [], payload.isSome, false, ((s.warpOf wid).path strm).accs, b.logBytes⟩
  if b.logSize < b.logBytes + sz then (seq, s.unverify bid 0x3E8)
  else
    (seq, ((s.logWrite b e).updBlock bid fun b => { b with logBytes := b.logBytes + sz, log := b.log ++ [e] }).updWarp wid
      fun w => w.setPath strm { w.path strm with logSeq := seq + 1 })

/-- Log an entry of the issuing path. -/
def State.logPut (s : State) (typ : Nat) (lmask : Word) (w n : Nat) (payload : Option (List Nat)) : Nat × State :=
  if s.logging then s.logPutAt s.bid s.w.idx s.curB typ lmask w n payload else (s.path.logSeq, s)

/-- Log a 64-bit result (VAL). -/
def State.logVal (s : State) (x : DWord) : State := (s.logPut leVal 0 3 8 (some (leBytes 8 x.toNat))).2

/-- Fix the payload of an entry. -/
def State.logFill (s : State) (bid widx : Nat) (strm : Bool) (seq : Nat) (payload : List Nat) : State :=
  let mine (e : LogEntry) : Bool := e.warp == widx && e.strm == strm && e.seq == seq && !e.void
  let fix (e : LogEntry) : LogEntry := { e with payload := payload, filled := true }
  let s1 := ((s.blockOf bid).log.filter mine).foldl (fun (s : State) e => s.logWrite (s.blockOf bid) (fix e)) s
  s1.updBlock bid fun b => { b with log := b.log.map fun e => if mine e then fix e else e }

/-- The entries of a stream that count: void ones are skipped (R231). -/
def streamOf (log : List LogEntry) (widx : Nat) (strm : Bool) : List LogEntry :=
  log.filter fun e => e.warp == widx && e.strm == strm && !e.void

/-- The next entry of the issuing path's stream. -/
def State.logNext (s : State) : Option LogEntry := (streamOf (s.blockOf s.blk.origin).log s.w.idx s.curB)[s.path.logSeq]?

/-- The non-resident lanes a check run takes for the instruction at hand: the next entry's, when that is the instruction's own NRMASK entry (R150, R228, log entry 27). -/
def State.nrTaken (s : State) : Option Word :=
  match s.logNext with
  | some e => if s.checkRun && !s.w.recipe && e.typ == leNrmask && e.acc == s.path.accs then some e.lmask else none
  | none => none

/-- An access of the path is made: its NRMASK entry, if it has one, is logged or taken (R150, R230). -/
def State.countAccess (s : State) (taken : Bool) (nr : Word) (w : Nat) : State :=
  let s1 := if taken then s.modPath fun p => { p with logSeq := p.logSeq + 1 }
    else if nr = 0 then s else (s.logPut leNrmask nr w 0 (some [])).2
  if s.w.recipe then s1 else s1.modPath fun p => { p with accs := p.accs + 1 }

/-- A check run diverges and ends at once (R234): its warps go, and its signatures count as differing. -/
def State.diverge (s : State) (bid : Nat) : State :=
  { s.updBlock bid (fun b => { b with diverged := true }) with warps := s.warps.filter fun e => e.1 / 32 != bid }

/-- Take the next entry when it fits the instruction, else diverge (R234). -/
def State.logTake (s : State) (fits : LogEntry → Bool) (k : List Nat → State → State) : State :=
  match s.logNext with
  | some e => if fits e then k e.payload (s.modPath fun p => { p with logSeq := p.logSeq + 1 }) else s.diverge s.bid
  | none => s.diverge s.bid

/-- An entry of a type and mask. -/
def LogEntry.is (typ : Nat) (lmask : Word) (e : LogEntry) : Bool := e.typ == typ && e.lmask == lmask

/-- A 64-bit result that a mortise run logs and a check run takes from the log (R230). -/
def State.replayed (s : State) (x : DWord) (k : DWord → State → State) : State :=
  if s.checkRun && !s.w.recipe then s.logTake (LogEntry.is leVal 0) fun p s => k (BitVec.ofNat 64 (leNat p)) s
  else k x (s.logVal x)

/-- The mask a PURITY entry carries, which tells it from a logged value (log entry 13). -/
def purityMask : Word := 0xFFFFFFFF#32

/-- The purity test (R265, R266): `viol` is the address of the lowest violating lane, or 0, where there is one. The result is the state to go on in, or the state after the trap. -/
def State.purityTest (s : State) (viol : Option Nat) : Except State State :=
  match viol with
  | none => .ok s
  | some a =>
    let t := s.task
    if s.checkRun then
      match s.logNext with
      | some e =>
        if t.f 0x20 3 3 = 1 ∧ t.te ∧ !s.w.recipe ∧ e.typ = leVal ∧ e.lmask = purityMask then
          .error ((s.modPath fun p => { p with logSeq := p.logSeq + 1 }).trap tcPurity a)
        else .ok s
      | none => .ok s
    else if t.pureNow then
      let s1 := s.updTask s.blk.vf s.blk.task fun t => { t with pureNow := false }
      if t.te then .error (((s1.logPut leVal purityMask 3 8 (some (leBytes 8 tcPurity))).2).trap tcPurity a) else .ok s1
    else .ok s

/-- Go on after the purity test. -/
def State.purity (s : State) (viol : Option Nat) (k : State → State) : State :=
  match s.purityTest viol with
  | .ok s1 => k s1
  | .error s1 => s1

/-- An address lies in one of a list of ranges. -/
def inRanges (rs : List (Nat × Nat)) (a : Nat) : Bool := rs.any fun r => r.1 ≤ a && a < r.1 + r.2

/-- The lowest-lane address that violates purity as a read, or as a write (R265). -/
def Task.readViol (t : Task) (as : List Nat) : Option Nat := as.find? fun a => !inRanges (t.regions false ++ t.regions true) a
def Task.writeViol (t : Task) (as : List Nat) : Option Nat := as.find? fun a => !inRanges (t.regions true) a

end Sys2Proof.Machine
end

