-- ==== Sys2Proof/Machine/Operands.lean ====
section
/-! DEFINITION. Element types, and the operand forms of memory and tile instructions (R89, R90, R114 to R122, R134, R351, R369). -/

set_option Elab.async false

namespace Sys2Proof.Machine

/-! Element types (R69, R89, R90) -/

/-- Bits of an element. -/
def etBits (et : Nat) : Nat :=
  match et with
  | 0 => 32 | 1 => 32 | 2 => 32
  | 3 => 16 | 4 => 16 | 5 => 16
  | 8 => 64 | 9 => 64 | 10 => 64
  | _ => 8
/-- The type takes a register pair. -/
def etWide (et : Nat) : Bool := et == 8 || et == 9 || et == 10
/-- Registers a value of the type takes. -/
def etRegs (et : Nat) : Nat := if etWide et then 2 else 1
/-- Signed integer types. -/
def etSigned (et : Nat) : Bool := et == 0 || et == 5 || et == 6 || et == 9
/-- Class INT of R441. -/
def etInt (et : Nat) : Bool := et == 0 || et == 1 || et == 5 || et == 6 || et == 7 || et == 9 || et == 10
/-- Class FLT of R441. -/
def etFlt (et : Nat) : Bool := et == 2 || et == 3 || et == 4 || et == 8
/-- The floating-point format of a type. -/
def etFmt (et : Nat) : Fmt :=
  match et with
  | 2 => f32F | 3 => bf16F | 4 => f16F | 8 => f64F | 11 => e4m3F | _ => e5m2F

/-- The code of an element type (R69). -/
def etCode : ElemType → Nat
  | .i32 => 0 | .n32 => 1 | .f32 => 2 | .bf16x2 => 3 | .f16x2 => 4 | .i16x2 => 5 | .i8x4 => 6 | .n8x4 => 7
  | .f64 => 8 | .i64 => 9 | .n64 => 10 | .e4m3x4 => 11 | .e5m2x4 => 12

/-- Elements of a value, lowest first. -/
def elemsOf (et x : Nat) : List Nat :=
  (List.range (32 * etRegs et / etBits et)).map fun i => x / 2 ^ (etBits et * i) % 2 ^ etBits et

/-- Pack elements, lowest first. -/
def packElems (n : Nat) : List Nat → Nat
  | [] => 0
  | x :: r => x % 2 ^ n + 2 ^ n * packElems n r

/-- The value of n registers from k in a lane. -/
def State.vVal (s : State) (k n lane : Nat) : Nat :=
  packElems 32 ((List.range n).map fun i => (s.rV (k + i) lane).toNat)

/-- n registers from k lie in the allotment, a pair even, a quad from a multiple of 4 (R64, R116). -/
def State.vRegsOk (s : State) (k n : Nat) : Bool := k % n == 0 && k + n ≤ s.w.allot

/-! Buffer records (R114 to R121) -/

/-- The second register of an image record (R117). -/
def imgH (r : Rec) : Nat := bits r.toNat 15 0
def imgW (r : Rec) : Nat := bits r.toNat 31 16
def imgC (r : Rec) : Nat := bits r.toNat 47 32
def imgN (r : Rec) : Nat := bits r.toNat 63 48
def imgPitch (r : Rec) : Nat := bits r.toNat 87 64
def imgPad (r : Rec) : Nat := bits r.toNat 89 88

/-- An image record's second register is malformed (R121). -/
def imgMalformed (r : Rec) : Bool :=
  imgH r == 0 || imgW r == 0 || imgC r == 0 || imgN r == 0 || imgPad r == 3 || bits r.toNat 127 90 != 0

/-- The record in b register k is malformed (R115); the second register is the next one. -/
def badRecord (k : Nat) (r r2 : Rec) : Bool := recMalformed r || (recKind r == 1 && (k == 31 || imgMalformed r2))

/-- What a lane's index names (R116, R118). -/
inductive LaneAcc where
  /-- Index or channel out of range. -/
  | bounds
  /-- A padded lane: no memory access. -/
  | pad
  /-- n at or beyond N: no memory access, and the flag. -/
  | over
  | mem (va : Nat)
  deriving DecidableEq, Repr

/-- The address of an offset, swizzled within its line and wrapped (R116). -/
def recAddr (r : Rec) (off : Nat) : Nat :=
  let f := off / 256 % 2 ^ recSww r
  let o := if recSww r = 0 then off else off ^^^ (f * 2 ^ recSws r)
  (recBase r + o) % 2 ^ 57

/-- A lane of a linear access (R116). -/
def linearLane (r : Rec) (i : Nat) : LaneAcc := if recExtent r ≤ i then .bounds else .mem (recAddr r (i * recStride r))

/-- A coordinate clamped to an image edge. -/
def edge (x : Int) (n : Nat) : Nat := if x < 0 then 0 else min x.toNat (n - 1)

/-- A lane of an image access (R118): yx and nc are the two index words. -/
def imageLane (r r2 : Rec) (load : Bool) (yx nc : Nat) : LaneAcc :=
  let y := sext 16 (bits yx 15 0)
  let x := sext 16 (bits yx 31 16)
  let n := bits nc 15 0
  let c := bits nc 31 16
  let inside := decide (0 ≤ y) && decide (y < imgH r2) && decide (0 ≤ x) && decide (x < imgW r2)
  let at_ (y x : Nat) : LaneAcc := .mem (recAddr r (((n * imgH r2 + y) * imgW r2 + x) * imgPitch r2 + c * recStride r))
  if imgC r2 ≤ c then .bounds
  else if imgN r2 ≤ n then .over
  else if inside then at_ y.toNat x.toNat
  else if imgPad r2 = 1 && load then at_ (edge y (imgH r2)) (edge x (imgW r2))
  else .pad

/-- A lane of an access (R116, R118). -/
def recLane (r r2 : Rec) (load : Bool) (i0 i1 : Nat) : LaneAcc :=
  if recKind r = 1 then imageLane r r2 load i0 i1 else linearLane r i0

/-- The least value of a type, as a 32-bit pattern (R119). -/
def padWord (et : Nat) : Nat :=
  match et with
  | 0 => 0x80000000 | 2 => 0xFF800000 | 3 => 0xFF80FF80 | 4 => 0xFC00FC00 | 5 => 0x80008000 | 6 => 0x80808080
  | 11 => 0xFEFEFEFE | 12 => 0xFCFCFCFC | _ => 0

/-- The least value of a type, as a 64-bit pattern (R119). -/
def padDouble (et : Nat) : Nat :=
  match et with
  | 8 => 0xFFF0000000000000
  | 9 => 0x8000000000000000
  | 10 => 0
  | _ => padWord et * (2 ^ 32 + 1)

/-- The pad value of an access of a width in bytes (R119). For a 64-bit type below 64 bits, the low bytes of its pattern, which are zero. -/
def padValue (r2 : Rec) (et width : Nat) : Nat :=
  if imgPad r2 = 2 then
    (if width ≤ 4 then (if etWide et then padDouble et else padWord et) % 2 ^ (8 * width)
     else if width = 8 then padDouble et else padDouble et * (2 ^ 64 + 1))
  else 0

/-- Lanes of an access in ascending order: the acting lanes, with their outcomes. -/
abbrev Accs := List (Nat × LaneAcc)

/-- The index words of a lane: one register, or a pair for an image record (R118). -/
def State.idx (s : State) (r : Rec) (vi lane : Nat) : Nat × Nat :=
  ((s.rV vi lane).toNat, if recKind r = 1 then (s.rV (vi + 1) lane).toNat else 0)

/-- The accesses of lanes of a mask through b[bk] at v[vi]. -/
def State.accs (s : State) (bk vi : Nat) (load : Bool) (m : Word) : Accs :=
  (lanesOf m).map fun i =>
    let (i0, i1) := s.idx (s.rB bk) vi i
    (i, recLane (s.rB bk) (s.rB (bk + 1)) load i0 i1)

/-- The one access of a uniform instruction, as lane 0 (R351). -/
def State.uacc (s : State) (bk sc : Nat) (load : Bool) : Accs :=
  let x := (s.rS sc).toNat
  let r := s.rB bk
  [(0, if recKind r = 1 then imageLane r (s.rB (bk + 1)) load (x % 2 ^ 32) (x / 2 ^ 32)
       else if 2 ^ 32 ≤ x then .bounds else linearLane r x)]

/-- The index register of an access lies in the allotment; the pair for an image record (R64, R118). -/
def State.idxOk (s : State) (bk vi : Nat) : Bool := s.vOk vi && (recKind (s.rB bk) != 1 || s.vOk (vi + 1))

/-- The addresses of the lanes that have one. -/
def Accs.addrs (l : Accs) : List (Nat × Nat) := l.filterMap fun e => match e.2 with
  | .mem a => some (e.1, a)
  | _ => none

/-- Checks 1 to 4 of R122: the trap code and XADDR of the first that fails. Helper lanes take no part in checks 2 to 4 (R19).
A store through a read-only record none of whose acting lanes has an address (all padded, or past N) raises no ROSTORE, and XADDR is the address of the first lane that has one: the model's choice (log entry 88). -/
def accCheck (bad : Bool) (ro store : Bool) (width : Nat) (l : Accs) (helpers : Word) : Option (Nat × Nat) :=
  let real := l.filter fun e => !helpers.getLsbD e.1
  if bad then some (tcBounds, 0)
  else if real.any (fun e => e.2 == .bounds) then some (tcBounds, 0)
  else match (Accs.addrs real).find? fun e => e.2 % width != 0 with
    | some e => some (tcAlign, e.2)
    | none =>
      match (Accs.addrs real).head? with
      | some e => if store && ro then some (tcRostore, e.2) else none
      | none => none

/-- Lanes that access memory: helper lanes that fail a check access nothing (R19). -/
def memLanes (width : Nat) (l : Accs) (helpers : Word) : List (Nat × Nat) :=
  (Accs.addrs l).filter fun e => !helpers.getLsbD e.1 || e.2 % width == 0

/-- Bytes of MODE.MW. -/
def Path.width (p : Path) : Nat := 2 ^ p.modeMW

/-- Element types whose loads sign-extend (R369). -/
def etSext (et : Nat) : Bool := et == 0 || et == 5 || et == 6 || et == 9

/-- A loaded value as its registers hold it: narrow values extended to 32 bits (R369). -/
def loadValue (et width x : Nat) : Nat :=
  if width < 4 && etSext et then wrap 32 (sext (8 * width) x) else x % 2 ^ (8 * width)

/-- A uniformly loaded value as s[SA] holds it (R372). -/
def loadScalar (et width x : Nat) : Nat :=
  if width < 8 && etSext et then wrap 64 (sext (8 * width) x) else x % 2 ^ (8 * width)

/-- Registers of a width in bytes. -/
def widthRegs (width : Nat) : Nat := if width ≤ 4 then 1 else width / 4

/-! Atomic operations (R347) -/

def atomCode : AtomOp → Nat
  | .add => 0 | .min => 1 | .max => 2 | .and => 3 | .or => 4 | .xor => 5 | .exch => 6 | .cas => 7

/-- Width and element type agree for an atomic (R346). -/
def atomTypeOk (op : AtomOp) (mw et : Nat) : Bool :=
  ((mw == 2 && (et ≤ 7 || et == 11 || et == 12)) || (mw == 3 && etWide et)) &&
  (atomCode op > 2 || (mw == 2 && et ≤ 2) || (mw == 3 && etWide et))

/-- The value an atomic leaves in memory (R347): w bytes wide; rounding by RNE, subnormals kept. -/
def atomNew (op : AtomOp) (et width old x c : Nat) : Nat :=
  let n := 8 * width
  match op with
  | .add => if etFlt et then ((etFmt et).addF 0 false old x).bits else (old + x) % 2 ^ n
  | .min =>
    if etFlt et then ((etFmt et).minmax false false old x).bits
    else if intVal n (etSigned et) x < intVal n (etSigned et) old then x else old
  | .max =>
    if etFlt et then ((etFmt et).minmax false true old x).bits
    else if intVal n (etSigned et) old < intVal n (etSigned et) x then x else old
  | .and => old &&& x
  | .or => old ||| x
  | .xor => old ^^^ x
  | .exch => x
  | .cas => if old = c then x else old

/-- An atomic writes memory: all do but a cas that finds another value (R348). -/
def atomWrites (op : AtomOp) (old c : Nat) : Bool := op != .cas || old == c

/-! Tiles (R128, R134) -/

def tileRows (d : BitVec 64) : Nat := bits d.toNat 12 0
def tileCols (d : BitVec 64) : Nat := bits d.toNat 25 13
def tileEb (d : BitVec 64) : Nat := bits d.toNat 28 26
def tileLevel (d : BitVec 64) : Nat := bits d.toNat 30 29
def tileAcc (d : BitVec 64) : Bool := bitOf d.toNat 31
def tileMirror (d : BitVec 64) : Bool := bitOf d.toNat 32
/-- Bytes of an element. -/
def tileElem (d : BitVec 64) : Nat := 2 ^ tileEb d
/-- Bytes of a tile. -/
def tileBytes (d : BitVec 64) : Nat := tileRows d * tileCols d * tileElem d
/-- Size in 256-byte granules (R128). -/
def tileGran (d : BitVec 64) : Nat := (tileBytes d + 255) / 256
/-- A tile of the gang: mirror or level 1 (R130). -/
def tileGang (d : BitVec 64) : Bool := tileMirror d || tileLevel d == 1

/-- A tile usable by the block: valid and returned to it (R131, R134). -/
def Block.tile? (b : Block) (h : Nat) : Option Tile :=
  if 64 ≤ h then none else
  match AL.get? b.tiles h with
  | some t => if t.returned then some t else none
  | none => none

/-- A byte of a tile: the byte stored, or what a new tile holds: zero for a mirror or level-1 tile, otherwise unspecified (R426, log entry 4). -/
def Tile.byte (t : Tile) (i : Nat) : Byte :=
  match AL.get? t.bytes i with
  | some b => b
  | none => if tileGang t.desc then 0 else Config.tileByte t.serial i

def Tile.get (t : Tile) (off n : Nat) : Nat := leNat ((List.range n).map fun i => (t.byte (off + i)).toNat)
def Tile.put (t : Tile) (off : Nat) (l : List Nat) : Tile :=
  { t with bytes := (l.zip (List.range l.length)).foldl (fun m e => AL.put m (off + e.2) (BitVec.ofNat 8 e.1)) t.bytes }

/-- The tile whose bytes a handle of a block names: a level-1 tile lies with its owner. -/
def State.tileStore (s : State) (bid h : Nat) : Tile :=
  let t := (AL.get? (s.blockOf bid).tiles h).getD ⟨0, false, false, 0, bid, 0, [], 0, none, []⟩
  if tileLevel t.desc = 1 && t.owner != bid then (AL.get? (s.blockOf t.owner).tiles h).getD t else t

/-- Change the bytes of a block's own copy of a tile. -/
def State.updTile (s : State) (bid h : Nat) (f : Tile → Tile) : State :=
  s.updBlock bid fun b => { b with tiles := AL.upd b.tiles h f }

end Sys2Proof.Machine
end

