-- ==== Sys2Proof/Machine/Access.lean ====
section
/-! DEFINITION. A memory instruction at issue: checks, translation, residency, logging, signatures, and the line requests it makes (R122 to R125, R145 to R147, R150, R162, R177, R230, R233, R340). -/

set_option Elab.async false

namespace Sys2Proof.Machine

/-- What a memory instruction asks for. -/
structure MemIns where
  /-- 0 load, 1 store, 2 atomic. -/
  kind : Nat
  bk : Nat
  width : Nat
  et : Nat
  accs : Accs
  /-- Acting helper lanes. -/
  helpers : Word
  uniform : Bool
  /-- A window page traps WINDOW (R261). -/
  noWindow : Bool
  op : AtomOp
  /-- Operand and comparand by lane. -/
  data : AL (Nat × Nat)
  /-- 0 v registers, 1 an s register, 2 nothing is written. -/
  destKind : Nat
  dest : Nat
  la : Nat
  len : Nat
  deriving DecidableEq, Repr

/-- Lanes that may fail a check. -/
def MemIns.real (m : MemIns) : Accs := m.accs.filter fun e => !m.helpers.getLsbD e.1
/-- A lane mask, every bit for a uniform access (R351). -/
def MemIns.flagMask (m : MemIns) (x : Word) : Word := if m.uniform && x != 0 then 0xFFFFFFFF#32 else x
/-- Registers the result goes to. -/
def MemIns.regs (m : MemIns) : List RegRef :=
  match m.destKind with
  | 0 => (List.range (widthRegs m.width)).map fun i => .v (m.dest + i)
  | 1 => (if m.dest = 0 then [] else [.s m.dest]) ++ if m.width = 16 then [.s (m.dest + 1)] else []
  | _ => []

/-! Translation -/

/-- Translate pages in ascending order, once each (R145). -/
def State.walks (s : State) (core vf : Nat) : List Nat → List (Nat × Walk) × State
  | [] => ([], s)
  | p :: r =>
    let (w, s1) := s.translate core vf (p * 4096)
    let (ws, s2) := s1.walks core vf r
    ((p, w) :: ws, s2)

/-- The pages of a list of addresses. -/
def pagesOfAddrs (l : List (Nat × Nat)) : List Nat := sortNub (l.map fun e => e.2 / 4096)

/-- The walk of an address's page. -/
def walkAt (ws : List (Nat × Walk)) (a : Nat) : Walk := (AL.get? ws (a / 4096)).getD (.invalid false 0 a)

/-- The SPA of an address on a translated page. -/
def Walk.spa (w : Walk) (a : Nat) : Nat :=
  match w with
  | .ok spa _ _ _ _ _ => spa + a % 4096
  | _ => 0
def Walk.isOk : Walk → Bool
  | .ok .. => true
  | _ => false
def Walk.isWin : Walk → Bool
  | .ok _ _ _ win _ _ => win
  | _ => false
def Walk.isNonres : Walk → Bool
  | .nonres .. => true
  | _ => false
def Walk.dom : Walk → Nat
  | .ok _ _ _ _ _ dom => dom
  | _ => 0
/-- A page that makes the instruction trap: invalid, unreadable, or not writable for a write (R145). -/
def Walk.denies (w : Walk) (write : Bool) : Bool :=
  match w with
  | .ok _ wr _ _ _ _ => write && !wr
  | .nonres .. => false
  | _ => true

/-- A trap on a denied page: ACCESS, or the code of an unreadable table. -/
def State.denyTrap (s : State) (va : Nat) (write : Bool) (w : Walk) : State :=
  match w with
  | .failed c => s.trapInfo c va (.error c write)
  | _ => s.accessTrap va write w

/-- One page of each non-resident region that addresses touch, as the walks found them: an instruction raises one request for each non-resident page (R147, R148). -/
def nonresPages (ws : List (Nat × Walk)) (l : List (Nat × Nat)) : List Nat :=
  (pagesOfAddrs (l.filter fun e => (walkAt ws e.2).isNonres)).foldl
    (fun ps p => if ps.any fun q => walkAt ws (q * 4096) == walkAt ws (p * 4096) then ps else ps ++ [p]) []

/-- Park the issuing path on a non-resident page (R149, R150). -/
def State.park (s : State) (va typ : Nat) (write : Bool) (w : Walk) : State :=
  match s.raise (dieOf s.blk.core) s.blk.core s.blk.vf s.blk.task va typ write w with
  | (some e, s1) => s1.wait (.parked [e] none)
  | (none, s1) => s1.wait (.operandWait (.mergeFree (dieOf s.blk.core)))

/-! Tags (R122 check 5, R123) -/

/-- The tag that a block's own KIND 2 stores gave an SPA: as a check run follows them, or held with its versions. -/
def Block.ownTag (b : Block) (a : Nat) : Option Nat :=
  match AL.get? b.tagView (a / 64) with
  | some t => some t.toNat
  | none => (AL.get? b.set.tags (a / 64)).map (·.toNat)

/-- The tag the block's own accesses see at an SPA. -/
def State.ownTag (s : State) (bid a : Nat) : Nat := ((s.blockOf bid).ownTag a).getD (s.tagAt a)

/-- A check run notes the tags that its KIND 2 store or copy sets, whether or not it performs it (R123, R233). -/
def State.viewTags (s : State) (bid : Nat) (spas : List Nat) (tag : Nat) : State :=
  if (s.blockOf bid).isCheck then
    s.updBlock bid fun b => { b with tagView := spas.foldl (fun t a => AL.put t (a / 64) (BitVec.ofNat 4 tag)) b.tagView }
  else s

/-- Requests of tag-setting stores on a line that are not performed yet. -/
def State.tagPending (s : State) (lines : List Nat) : List Nat :=
  (s.mm.reqs.filter fun r => r.tagset && (r.stage == 0 || r.stage == 1) && lines.contains r.line).map (·.id)

/-- The issuing warp's own write-backs through KIND 2 that still stand in a matrix queue, on lines of a list (R123, R199). -/
def State.tagMats (s : State) (lines : List Nat) : List Nat :=
  ((s.queuedMats s.cur s.nextId).filter fun m => m.tagset && m.storesTo lines.contains).map (·.id)

/-- Lines on which another block holds versions with tags. -/
def State.tagHeld (s : State) (bid : Nat) (lines : List Nat) : List Nat :=
  lines.filter fun l => s.blocks.any fun e => e.2.origin != (s.blockOf bid).origin && e.2.set.tags.any fun t => t.1 / 4 == l

/-! Lines (R124) -/

/-- The lanes of one line. -/
structure LineGroup where
  va : Nat
  spa : Nat
  win : Bool
  dom : Nat
  lanes : List (Nat × Nat)
  deriving DecidableEq, Repr

/-- Group lanes by virtual line, in ascending order of lines and of lanes. -/
def lineGroups (ws : List (Nat × Walk)) (l : List (Nat × Nat)) : List LineGroup :=
  (sortNub (l.map fun e => e.2 / 256)).map fun v =>
    let w := walkAt ws (v * 256)
    ⟨v * 256, w.spa (v * 256) / 256 * 256, w.isWin, w.dom, l.filter fun e => e.2 / 256 == v⟩

/-- The requests of an instruction: the lanes of one line of memory in ascending order. Lanes that reach a line through two addresses of one frame are served as one, so that they keep the order of R125. -/
def sendGroups (ws : List (Nat × Walk)) (l : List (Nat × Nat)) : List LineGroup :=
  let spaLine (a : Nat) : Nat := (walkAt ws a).spa a / 256
  (lineGroups ws l).foldl (fun gs g =>
    if gs.any fun h => h.spa == g.spa then gs
    else gs ++ [{ g with lanes := l.filter fun e => spaLine e.2 * 256 == g.spa }]) []

/-- Bytes a store writes in a line, ascending, the higher lane winning each byte (R125). -/
def lineBytes (width : Nat) (data : AL (Nat × Nat)) (lanes : List (Nat × Nat)) : List (Nat × Nat) :=
  lanes.foldl (fun t e =>
    let bs := leBytes width ((AL.get? data e.1).getD (0, 0)).1
    (bs.zip (List.range width)).foldl (fun t b => AL.put t (e.2 % 256 + b.2) b.1) t) []

/-- The SS record of the bytes stored in a line (R226). -/
def storeRecord (va : Nat) (bs : List (Nat × Nat)) : List Nat :=
  0x01 :: leBytes 8 va ++ leBytes 32 (bs.foldl (fun m b => m + 2 ^ b.1) 0) ++ bs.map (·.2)

/-- The SS and AS record of a lane's atomic (R226). -/
def atomRecord (op : AtomOp) (width va x c : Nat) : List Nat :=
  0x02 :: leBytes 8 va ++ [atomCode op, width] ++ leBytes 16 (x % 2 ^ (8 * width) + (if op = .cas then c % 2 ^ (8 * width) * 2 ^ (8 * width) else 0))

/-! Results -/

/-- Write the registers of a finished access: raw values by lane; the bytes of its VS record (R369, R372). -/
def State.putResult (s : State) (destKind dest width et : Nat) (lanes helpers : Word) (got : AL Rec) : List Nat × State :=
  let val (i : Nat) : Nat := ((AL.get? got i).getD 0).toNat
  match destKind with
  | 0 => s.putVec dest (widthRegs width) ((lanesOf lanes).map fun i => (i, loadValue et width (val i))) (lanes &&& ~~~helpers)
  | 1 =>
    if width = 16 then
      let (r0, s1) := s.putS dest (BitVec.ofNat 64 (val 0))
      let (r1, s2) := s1.putS (dest + 1) (BitVec.ofNat 64 (val 0 / 2 ^ 64))
      (r0 ++ r1, s2)
    else s.putS dest (BitVec.ofNat 64 (loadScalar et width (val 0)))
  | _ => ([], s)

/-- The payload of a LOAD or ATOM entry. -/
def logPayload (width : Nat) (mask : Word) (got : AL Rec) : List Nat :=
  (lanesOf mask).flatMap fun i => leBytes width ((AL.get? got i).getD 0).toNat

/-- The values of a LOAD or ATOM entry by lane. -/
def logValues (width : Nat) (mask : Word) (p : List Nat) : AL Rec :=
  let ls := lanesOf mask
  (ls.zip (List.range ls.length)).map fun (i, j) => (i, BitVec.ofNat 128 (leNat ((p.drop (width * j)).take width)))

/-- A pending access whose lines have all answered writes its registers and is complete (R326). -/
def State.finishPend (s : State) (wid : Nat) (p : Pend) : State :=
  s.onPath wid p.pathB fun s =>
    let (r, s1) := s.putResult p.kind p.dest p.width p.et p.lanes p.helpers p.got
    let s2 := if p.logType = 0 then s1 else s1.logFill s1.bid s1.w.idx p.pathB p.logSeq (logPayload p.width p.logMask p.got)
    s2.modW fun w =>
      let w1 := w.fixFold p.pathB p.id r
      { w1 with
        pend := w1.pend.filter (fun q => q.id != p.id)
        pathA := { w1.pathA with windows := w1.pathA.windows.filter fun x => x.1 != p.id }
        pathB := { w1.pathB with windows := w1.pathB.windows.filter fun x => x.1 != p.id } }

/-- Deliver a line's values to the pending access it belongs to. -/
def State.answerPend (s : State) (wid pid rid : Nat) (got : AL Rec) : State :=
  match (s.warpOf wid).pend.find? fun p => p.id == pid with
  | none => s
  | some p =>
    let p1 := { p with got := got.foldl (fun (t : AL Rec) (e : Nat × Rec) => AL.put t e.1 e.2) p.got, waiting := p.waiting.filter (· != rid) }
    if p1.waiting.isEmpty then s.finishPend wid p1
    else s.updWarp wid fun w => { w with pend := w.pend.map fun (q : Pend) => if q.id = pid then p1 else q }

/-! L1 (R162, R175, R176) -/

def l1Key (core line : Nat) : Nat := core * 2 ^ 44 + line

/-- The sectors that lanes touch, as a 4-bit mask. -/
def sectorMask (lanes : List (Nat × Nat)) : BitVec 4 := lanes.foldl (fun m e => m ||| (1#4 <<< (e.2 % 256 / 64))) 0

/-- An L1 copy that serves a load now. -/
def State.l1Hit (s : State) (core dom line : Nat) (need : BitVec 4) (pts : BitVec 40) : Option L1Line :=
  match AL.get? s.mm.l1 (l1Key core line) with
  | some c =>
    let d := homeDie (line * 256)
    if c.dom = dom ∧ c.sectors &&& need = need ∧ !s.switchingDie d ∧ (s.inDirMode d ∨ pts.toNat ≤ c.rts.toNat) then some c else none
  | none => none

/-- What a core does about its L1 copy of a line before an access at a VA looks it up: a copy under another domain's tag is discarded and logged, and an uncorrectable error is repaired by dropping the copy, to be fetched again (R255, R256, R318). -/
def State.l1Scrub (s : State) (core vf dom va line : Nat) : State :=
  let k := l1Key core line
  match AL.get? s.mm.l1 k with
  | none => s
  | some c =>
    if c.dom ≠ dom then (s.modM fun m => { m with l1 := AL.del m.l1 k }).keyMismatch (dieOf core) 2 line
    else if s.mm.l1Bad.contains k then
      (s.noteGpa core vf va (none, (s.modM fun m => { m with l1 := AL.del m.l1 k, l1Bad := m.l1Bad.filter (· != k) }).coreError (dieOf core) (line * 256) vf)).2
    else s

/-- The bytes of a line as a block sees them over a copy: its own versions win (R171). -/
def State.overlay (s : State) (bid line : Nat) (copy : BitVec 2048) (off n : Nat) : Nat :=
  leNat ((List.range n).map fun i =>
    match AL.get? (s.blockOf bid).set.bytes (line * 256 + off + i) with
    | some b => b.toNat
    | none => copy.toNat / 2 ^ (8 * (off + i)) % 256)

/-- A request that takes part in its warp's order at a home die: no prefetch, window or other package (R163, R170). -/
def LineReq.ordered (r : LineReq) : Bool := !(r.kind == 0 && r.pend.isNone) && !r.win && !spaRemote (r.line * 256) && r.eng.isNone

/-- Accesses of the warp to a die that are not complete: a later load's value is not final before they are (R163, R177). -/
def State.unacked (s : State) (wid die : Nat) : List Nat :=
  (s.mm.reqs.filter fun r => r.wid == wid && r.ordered && onDie die r.line).map (·.id) ++
  ((s.queuedMats wid s.nextId).filter fun m => m.storesTo (onDie die)).map (·.id)

/-- A store or atomic of the warp to a line has not been performed: the warp's next load of the line goes to its home after it (R160, R161). -/
def State.storeAhead (s : State) (wid line : Nat) : Bool :=
  s.mm.reqs.any (fun r => r.wid == wid && r.line == line && r.kind != 0 && r.stage != 2) ||
  (s.queuedMats wid s.nextId).any fun m => m.storesTo (· == line)

/-- Raise a warp's pts for a die. -/
def Warp.raisePts (w : Warp) (d : Nat) (t : BitVec 40) : Warp :=
  if (Tbl.get w.pts d).toNat < t.toNat then { w with pts := Tbl.set w.pts d t } else w

/-! The instruction -/

/-- The request for one line; `ins` is the number of the instruction. -/
def MemIns.req (m : MemIns) (s : State) (id ins : Nat) (pend : Option Nat) (g : LineGroup) : LineReq where
  id := id
  wid := s.cur
  pathB := s.curB
  pend := pend
  core := s.blk.core
  vf := s.blk.vf
  dom := g.dom
  line := g.spa / 256
  va := g.va
  win := g.win
  kind := m.kind
  op := m.op
  et := m.et
  width := m.width
  tag := recTag (s.rB m.bk)
  tagset := m.kind == 1 && recKind (s.rB m.bk) == 2
  lanes := g.lanes.map fun e =>
    let d := (AL.get? m.data e.1).getD (0, 0)
    (e.1, e.2 % 256, BitVec.ofNat 128 d.1, BitVec.ofNat 128 d.2)
  stage := 0
  wts := 0
  rts := 0
  fill := 0
  sectors := sectorMask g.lanes
  got := []
  withheld := []
  xpc := s.path.pc
  made := s.now
  ord := id
  mat := none
  arrived := 0
  tags := 0
  vas := (g.lanes.filter fun e => e.2 / 256 * 256 != g.va).map fun e => (e.1, e.2 / 256 * 256)
  eng := none
  ins := ins
  adaptive := false
  engPts := 0

/-- The lines that the core's L1 serves for a load of these lanes (R162, R176). -/
def State.l1Lines (s : State) (m : MemIns) (gs : List LineGroup) : List Nat :=
  (gs.filter fun g => m.kind == 0 && !g.win && !spaRemote g.spa && !s.storeAhead s.cur (g.spa / 256) &&
    (s.l1Hit s.blk.core g.dom (g.spa / 256) (sectorMask g.lanes) (Tbl.get s.w.pts (homeDie g.spa))).isSome).map fun g => g.spa / 256

/-- Serve a line from L1, where it is one of `hits`, or send its request: the values at once, or the request left to answer. -/
def State.sendLine (s : State) (m : MemIns) (ins : Nat) (pend : Option Nat) (hits : List Nat) (g : LineGroup) : AL Rec × List Nat × State :=
  let line := g.spa / 256
  let d := homeDie g.spa
  let (id, s1) := s.fresh
  let r := m.req s id ins pend g
  match (if hits.contains line then AL.get? s.mm.l1 (l1Key s.blk.core line) else none) with
  | some c =>
    let vals := g.lanes.map fun e => (e.1, BitVec.ofNat 128 (s.overlay s.bid line c.bytes (e.2 % 256) m.width))
    let late := s.unacked s.cur d
    if late.isEmpty then (vals, [], s1.modW fun w => w.raisePts d c.wts)
    else
      ([], [id], (s1.modW fun w => w.raisePts d c.wts).modM fun mm => { mm with
        reqs := mm.reqs ++ [{ r with stage := 3, wts := c.wts, rts := c.rts, fill := c.bytes, got := vals, withheld := late }] })
  | none => ([], [id], s1.modM fun mm => { mm with reqs := mm.reqs ++ [r] })

/-- Send every line of an instruction. -/
def State.sendLines (s : State) (m : MemIns) (ins : Nat) (pend : Option Nat) (hits : List Nat) : List LineGroup → AL Rec × List Nat × State
  | [] => ([], [], s)
  | g :: r =>
    let (v, w, s1) := s.sendLine m ins pend hits g
    let (vs, ws, s2) := s1.sendLines m ins pend hits r
    (v ++ vs, w ++ ws, s2)

/-- Flip stored data by injection, lane by lane (R244). What one qualifying result of TGT 3 is the rule does not say: the model takes each stored lane of a memory store or `mwb` as one, and no data of a `tst`, `cpy` or `tskpost` (DESIGN CHOICE, log entry 94). -/
def State.injectStores (s : State) (width : Nat) (data : AL (Nat × Nat)) : List Nat → AL (Nat × Nat) × State
  | [] => (data, s)
  | i :: r =>
    let (b, s1) := s.inject 3
    let d := (AL.get? data i).getD (0, 0)
    s1.injectStores width (if b.isSome then AL.put data i (flipAt (8 * width) d.1 b, d.2) else data) r

/-- Fold the records of a store or atomic (R226). -/
def State.foldAccess (s : State) (m : MemIns) (ws : List (Nat × Walk)) (done : List (Nat × Nat)) : State :=
  match m.kind with
  | 1 => (lineGroups ws done).foldl (fun (s : State) g => s.fold 0 (storeRecord g.va (lineBytes m.width m.data g.lanes))) s
  | 2 => done.foldl (fun (s : State) (e : Nat × Nat) =>
      let d := (AL.get? m.data e.1).getD (0, 0)
      (s.fold 0 (atomRecord m.op m.width e.2 d.1 d.2)).fold 3 (atomRecord m.op m.width e.2 d.1 d.2)) s
  | _ => s

/-- Where a run's access takes its effect: memory, the log, or nowhere (R233). 0 memory, 1 log, 2 nowhere. -/
def State.accessHow (s : State) (m : MemIns) : Nat :=
  if !s.checkRun then 0
  else match m.kind with
    | 0 => if recRo (s.rB m.bk) || s.w.recipe then 0 else 1
    | 1 => if s.blk.kind = .tenon then 2 else 0
    | _ => 1

/-- The effects of an instruction whose checks have passed (R145 step 4): flags, requests, log, signatures, line requests, and the results that are there at once. -/
def State.memEffects (s : State) (m : MemIns) (ws : List (Nat × Walk)) (nr : Word) (perf : List (Nat × Nat)) (hits : List Nat) : State :=
  let how := s.accessHow m
  let real := m.real
  let beyond := maskOf ((real.filter fun e => e.2 == .over).map (·.1))
  let s1 := s.setFP (m.flagMask (beyond ||| nr))
  let nrLanes := (Accs.addrs real).filter fun e => nr.getLsbD e.1
  let s2 := if s.checkRun then s1
    else (nonresPages ws nrLanes).foldl (fun (s : State) p => s.raiseData s.blk.core s.blk.vf s.blk.task (p * 4096) (m.kind != 0) (walkAt ws (p * 4096))) s1
  let s3 := s2.countAccess s2.nrTaken.isSome (if nr = 0 then 0 else m.flagMask nr) (Nat.log2 m.width)
  let done := (Accs.addrs real).filter fun e => !nr.getLsbD e.1
  let (data, s4) := if m.kind = 1 then s3.injectStores m.width m.data (done.map (·.1)) else (m.data, s3)
  let m := { m with data := data }
  let s5 := s4.foldAccess m ws done
  let lanes := maskOf (m.accs.map (·.1))
  let logged := m.kind = 2 || (m.kind = 0 && !recRo (s.rB m.bk))
  let logMask := if m.kind = 2 then maskOf (done.map (·.1))
    else maskOf ((m.accs.filter fun e => (match e.2 with | .pad => false | .over => false | _ => true) && !nr.getLsbD e.1).map (·.1))
  let pads : AL Rec := if m.kind = 0 then
      (m.accs.filter fun e => e.2 == .pad).map fun e => (e.1, BitVec.ofNat 128 (padValue (s.rB (m.bk + 1)) m.et m.width))
    else []
  let et := if m.kind = 2 && m.uniform && m.et != 0 then 1 else m.et
  match how with
  | 1 =>
    s5.logTake (LogEntry.is (if m.kind = 2 then leAtom else leLoad) logMask) fun p s =>
      let (r, s6) := s.putResult m.destKind m.dest m.width et lanes m.helpers (logValues m.width logMask p ++ pads)
      (s6.foldVS r).advance m.len
  | 2 => s5.advance m.len
  | _ =>
    let (seq, s6) := if logged then s5.logPut (if m.kind = 2 then leAtom else leLoad) logMask (Nat.log2 m.width)
      (m.width * popc 32 logMask.toNat) none else (0, s5)
    let isLogged := logged && s5.logging
    let (pid, s7) := s6.fresh
    let (got, left, s8) := s7.sendLines m pid (if m.kind = 1 then none else some pid) hits (sendGroups ws perf)
    if m.kind = 1 then s8.advance m.len
    else
      let p : Pend := ⟨pid, s.curB, m.regs, m.dest, m.width, et, m.destKind, lanes, m.helpers, got ++ pads, left,
        if isLogged then (if m.kind = 2 then 3 else 1) else 0, seq, logMask, s.path.pc⟩
      let s9 := s8.foldPend pid
      if left.isEmpty then (s9.finishPend s.cur p).advance m.len
      else ((s9.modW fun w => { w with pend := w.pend ++ [p] }).modPath fun q => { q with windows := q.windows ++ [(pid, m.la)] }).advance m.len

/-- The tag that check 5 compares at an address (R123): the block's own, that of the L1 copy that serves the load, or the home's. -/
def State.tagSeen (s : State) (hits : List Nat) (spa : Nat) : Nat :=
  match s.blk.ownTag spa with
  | some t => t
  | none =>
    match (if hits.contains (spa / 256) then AL.get? s.mm.l1 (l1Key s.blk.core (spa / 256)) else none) with
    | some c => bits c.tags.toNat (spa % 256 / 64 * 4 + 3) (spa % 256 / 64 * 4)
    | none => s.tagAt spa

/-- Check 5 and the effects of an instruction whose pages are translated (R122, R123, R145): `nr` its non-resident lanes. An access that is not performed is checked against the tags of the moment and waits for nothing (R233). -/
def State.memTagged (s : State) (m : MemIns) (ws : List (Nat × Walk)) (nr : Word) : State :=
  let how := s.accessHow m
  let tagset := m.kind == 1 && recKind (s.rB m.bk) == 2
  let resident := (memLanes m.width m.accs m.helpers).filter fun e => !nr.getLsbD e.1 && (walkAt ws e.2).isOk
  let local_ := resident.filter fun e => !spaRemote ((walkAt ws e.2).spa e.2)
  let lines := sortNub (local_.map fun e => (walkAt ws e.2).spa e.2 / 256)
  let gs := sendGroups ws resident
  let s1 := if how = 0 ∧ m.kind = 0 then
      gs.foldl (fun (s : State) g => if g.win || spaRemote g.spa then s else s.l1Scrub s.blk.core s.blk.vf g.dom g.va (g.spa / 256)) s
    else s
  let hits := if how = 0 then s1.l1Lines m gs else []
  let away := lines.filter fun l => !hits.contains l
  let held := s1.tagHeld s1.bid away
  let pending := s1.tagPending away
  let bad (e : Nat × Nat) : Bool := s1.tagSeen hits ((walkAt ws e.2).spa e.2) != recTag (s1.rB m.bk)
  if how == 0 && !tagset && !held.isEmpty then s1.wait (.clampWait [] held)
  else if how == 0 && !tagset && !pending.isEmpty then s1.wait (.operandWait (.perf pending))
  else if how == 0 && !tagset && !(s1.tagMats away).isEmpty then s1.wait (.operandWait (.mats (s1.tagMats away)))
  else
  match (if tagset then none else local_.find? fun e => !m.helpers.getLsbD e.1 && bad e) with
  | some e => s1.trap tcTag e.2
  | none =>
  let ok := if tagset then resident else resident.filter fun e => spaRemote ((walkAt ws e.2).spa e.2) || !bad e
  let perf := if m.kind = 0 then ok else ok.filter fun e => !m.helpers.getLsbD e.1
  let s2 := if tagset then s1.viewTags s1.bid (perf.map fun e => (walkAt ws e.2).spa e.2) (recTag (s1.rB m.bk)) else s1
  s2.memEffects m ws nr perf hits

/-- The lanes whose non-residency a check run takes from its log: they behave as non-resident and reach no page (R150). -/
def State.maskedLanes (s : State) : Word := if s.checkRun && !s.w.recipe then s.nrTaken.getD 0 else 0

/-- Issued window orderings that an access to a window comes after (R170, R460): a `wacq` of the warp, from either path, and a `wrel` of the path's own, whose lookahead changes no order (R326). -/
def State.windowOrders (s : State) (doms : List Nat) : List Nat :=
  (s.w.slow.filter fun x => match x.op with
    | .wacq d => doms.contains d
    | .wrel d => doms.contains d && x.pathB == s.curB
    | _ => false).map (·.id)

/-- Translation and residency of a memory instruction that passed the tests on addresses alone (R145, R150, R261). -/
def State.memTranslate (s : State) (m : MemIns) : State :=
  let masked := s.maskedLanes
  let real := (Accs.addrs m.real).filter fun e => !masked.getLsbD e.1
  let look := (memLanes m.width m.accs m.helpers).filter fun e => !masked.getLsbD e.1
  let (ws, s1) := s.walks s.blk.core s.blk.vf (pagesOfAddrs look)
  match real.find? fun e => (walkAt ws e.2).denies (m.kind != 0) with
  | some e => s1.denyTrap e.2 (m.kind != 0) (walkAt ws e.2)
  | none =>
  match (if m.noWindow then real.find? fun e => (walkAt ws e.2).isWin else none) with
  | some e => s1.trap tcWindow e.2
  | none =>
  let replay := s1.checkRun && !s1.w.recipe
  let nr := if replay then masked &&& maskOf ((Accs.addrs m.real).map (·.1)) else maskOf ((real.filter fun e => (walkAt ws e.2).isNonres).map (·.1))
  match (if replay && s1.accessHow m == 0 then real.find? fun e => (walkAt ws e.2).isNonres else none) with
  | some e => s1.park e.2 1 (m.kind != 0) (walkAt ws e.2)
  | none =>
    let orders := s1.windowOrders (((real.map fun e => walkAt ws e.2).filter Walk.isWin).map Walk.dom)
    if orders.isEmpty then s1.memTagged m ws nr else s1.wait (.operandWait (.window orders))

/-- A memory instruction after its encoding checks (R340). -/
def State.memAccess (s : State) (m : MemIns) : State :=
  match accCheck (badRecord m.bk (s.rB m.bk) (s.rB (m.bk + 1))) (recRo (s.rB m.bk)) (m.kind != 0) m.width m.accs m.helpers with
  | some (c, a) => s.trap c a
  | none =>
    let as := (Accs.addrs m.real).map (·.2)
    let viol := match m.kind with
      | 0 => s.task.readViol as
      | 1 => s.task.writeViol as
      | _ => some (as.head?.getD 0)
    s.purity viol fun s => s.memTranslate m

/-! Copy entries that stop (R155, R211) -/

/-- Lanes below the stop. -/
def CopyEntry.bound (e : CopyEntry) : Nat := (e.stop.map (·.1)).getD 32

/-- A place that stops an entry, the lowest lane winning (R211): lane, trap code, cause of R212, address. -/
def CopyEntry.stopped (e : CopyEntry) (lane code cause addr : Nat) : CopyEntry :=
  if lane < e.bound then { e with stop := some (lane, code, cause, addr), stopAt := (0, 0, none) } else e

/-- A copy entry held for a page that is declared invalid stops at the held lane (R155, R211; log entry 28). -/
def CopyEntry.noteBad (e : CopyEntry) (k sq : Nat) (p : BadPage) : CopyEntry :=
  if e.hold.contains (k, sq) ∧ e.heldAt.1 < e.bound then { e.stopped e.heldAt.1 tcAccess 1 e.heldAt.2 with stopAt := (p.level, p.stage, p.gpa) } else e

/-- Every copy entry of a block learns of a page declared invalid. -/
def Block.noteBad (b : Block) (k sq : Nat) (p : BadPage) : Block :=
  { b with queues := b.queues.map fun q => (q.1, { q.2 with entries := q.2.entries.map fun e => e.noteBad k sq p }) }

end Sys2Proof.Machine
end

