-- ==== Sys2Proof/Machine/Stack.lean ====
section
/-! DEFINITION. The context area, the dual-path stack with its spill region, signature segments, the end of paths and warps, barriers, and debug stops (R24 to R31, R77 to R84, R225, R287, R289, R290, R341 to R345).

A computation that can meet a page which is not resident answers `Except.error k`: `k` is then all the instruction does to the state it issued in. -/

set_option Elab.async false

namespace Sys2Proof.Machine

/-- A stopped computation: what happens to the state of issue instead. -/
abbrev Stop := State → State

/-! Waking -/

/-- A path becomes Ready; its age starts afresh (R27, R56). -/
def Path.wake (p : Path) (now : Nat) (waited : Bool) : Path := { p with st := .ready, since := now, waited := waited }

/-- A path of a warp becomes Ready. -/
def State.wakePath (s : State) (wid : Nat) (b : Bool) (f : Path → Path) : State :=
  s.updWarp wid fun w => w.setPath b (f ((w.path b).wake s.now false))

/-! Context areas (R287, R288) -/

/-- Context area of a block. -/
def State.ctxBase (s : State) (b : Block) : Nat := ((s.taskOf b.vf b.task).ctxva + b.lin * 0x400000) % 2 ^ 57
/-- Warp area. -/
def ctxWarp (idx : Nat) : Nat := 0x1000 + idx * 0xA000

/-- The SPA and domain of a context access, or how it ends: a SPILL request and a parked path, or a terminal trap (R83, R287). -/
def State.ctxSpa (s : State) (va : Nat) (write : Bool) : Except Stop (Nat × Nat × State) :=
  let (w, s1) := s.translate s.blk.core s.blk.vf va
  match w with
  | .ok spa wr _ _ _ dom => if write && !wr then .error fun s => s.denyTrap va write w else .ok (spa, dom, s1)
  | .nonres .. => .error fun s => (s.translate s.blk.core s.blk.vf va).2.park va 4 write w
  | _ => .error fun s => (s.translate s.blk.core s.blk.vf va).2.denyTrap va write w

/-- Write bytes at a context address of the issuing warp's block. -/
def State.ctxWrite (s : State) (va : Nat) (l : List Nat) : Except Stop State := do
  let (spa, _, s1) ← s.ctxSpa va true
  return s1.quietWrite spa l

/-- Read n bytes at a context address. -/
def State.ctxRead (s : State) (va n : Nat) : Except Stop (List Nat × State) := do
  let (spa, dom, s1) ← s.ctxSpa va false
  if spaRemote spa then return ((List.range n).map fun i => (Config.freeWord (s1.free + i)).toNat % 256, { s1 with free := s1.free + n })
  match s1.readVa s1.blk.core s1.blk.vf dom va spa n with
  | (some c, _) => .error fun s => (s.readVa s.blk.core s.blk.vf dom va spa n).2.trapInfo c va (.error c false)
  | (none, s2) => return (s2.memBytes spa n, s2)

/-! Stack entries (R77) -/

/-- Bytes of a stack entry in memory. -/
def StackEntry.bytes (e : StackEntry) : List Nat :=
  leBytes 4 e.rpc.toNat ++ leBytes 4 e.ppc.toNat ++ leBytes 4 e.pmask.toNat ++ leBytes 4 e.dmask.toNat ++ leBytes 4 e.mode.toNat
    ++ leBytes 4 e.fmt.toNat ++ leBytes 8 0

/-- The entry that bytes in memory stand for. -/
def StackEntry.ofBytes (l : List Nat) : StackEntry :=
  let w (i : Nat) : Word := BitVec.ofNat 32 (leNat ((l.drop (4 * i)).take 4))
  ⟨w 0, w 1, w 2, w 3, w 4, w 5⟩

/-- Lanes that are not live leave an entry's masks (R81); an entry read back meets the exits since it was spilled. -/
def StackEntry.cut (e : StackEntry) (live : Word) : StackEntry := { e with pmask := e.pmask &&& live, dmask := e.dmask &&& live }

/-- Word offset of an address from CODEVA (R77). -/
def wordOff (codeva : Nat) (a : VAddr) : BitVec 32 := BitVec.ofNat 32 ((a.toNat + 2 ^ 57 - codeva) % 2 ^ 57 / 4)

/-- Address of a word offset; log entry 14. -/
def offAddr (codeva : Nat) (o : BitVec 32) : VAddr := BitVec.ofNat 57 (codeva + 4 * o.toNat)

/-- Address of a spilled entry of the issuing path (R83, R288). -/
def State.spillVa (s : State) (slot : Nat) : Nat :=
  (s.ctxBase s.blk + ctxWarp s.w.idx + 0x9000 + (if s.curB then 1536 else 0) + 32 * slot) % 2 ^ 57

/-- Depth of a path's stack. -/
def Path.depth (p : Path) : Nat := p.stack.length + p.spilled

/-- Push an entry; the outermost of 16 on-chip entries goes to the spill region (R83). -/
def State.pushEntry (s : State) (e : StackEntry) : Except Stop State :=
  if s.path.stack.length < 16 then .ok (s.modPath fun p => { p with stack := e :: p.stack })
  else match s.path.stack.getLast? with
    | none => .ok s
    | some o => do
      let s1 ← s.ctxWrite (s.spillVa s.path.spilled) o.bytes
      return s1.modPath fun p => { p with stack := e :: p.stack.dropLast, spilled := p.spilled + 1 }

/-- Push entries, the first of the list innermost in the end. -/
def State.pushEntries (s : State) : List StackEntry → Except Stop State
  | [] => .ok s
  | e :: r => do
    let s1 ← s.pushEntries r
    s1.pushEntry e

/-- Drop the innermost entry; a pop that leaves 15 on chip reads one back (R83). -/
def State.popEntry (s : State) : Except Stop State :=
  let s1 := s.modPath fun p => { p with stack := p.stack.tail }
  if s1.path.spilled = 0 || s1.path.stack.length != 15 then .ok s1
  else do
    let (l, s2) ← s1.ctxRead (s1.spillVa (s1.path.spilled - 1)) 32
    return s2.modPath fun p => { p with stack := p.stack ++ [(StackEntry.ofBytes l).cut s2.w.live], spilled := p.spilled - 1 }

/-! Signature segments (R225) -/

/-- A path's segment ends: its CRCs go to the accumulators. -/
def Warp.endSegment (w : Warp) (b : Bool) : Warp :=
  { w with acc := w.acc.add (w.path b).sig }

/-- A segment of a path starts. -/
def Warp.startSegment (w : Warp) (b : Bool) (codeva : Nat) : Warp :=
  w.setPath b { w.path b with sig := segStart codeva (w.path b).pc (w.path b).mask }

/-! Debug stops (R289 to R291) -/

/-- Queue a stop record, or note that one was lost. -/
def State.queueStop (s : State) (vf task widx : Nat) (b : Bool) (bp why lin : Nat) : State :=
  let r : StopRec := BitVec.ofNat 64 (task + widx * 2 ^ 20 + (if b then 2 ^ 25 else 0) + bp * 2 ^ 26 + why * 2 ^ 29 + lin * 2 ^ 32)
  let l := (AL.get? s.stops vf).getD []
  if l.length < 16 then { s with stops := AL.put s.stops vf (l ++ [r]) } else s.setRegBits vf blkDebug 0x90 5 5 1

/-- A debug stop puts a warp in Stopped, with its record; the first one of a mortise run makes the run unlogged. -/
def State.debugStopAt (s : State) (wid : Nat) (b : Bool) (bp why : Nat) : State :=
  let w := s.warpOf wid
  let bl := s.blockOf w.bid
  if w.dbg then s
  else
    let s1 := (s.updWarp wid fun w => { w with dbg := true, stepping := none }).queueStop bl.vf bl.task w.idx b bp why bl.lin
    let rest := if why = 4 then bl.stopBlk.filter (fun k => k != w.idx)
      else if s.stopBlkOn bl.vf then (List.range bl.nwarps).filter (fun k => k != w.idx && !(s.warpOf (w.bid * 32 + k)).dbg)
      else bl.stopBlk.filter (fun k => k != w.idx)
    let s2 := s1.updBlock w.bid fun bl => { bl with stopBlk := rest }
    if bl.kind = .mortise then s2.unverify w.bid 0x3E8 else s2

/-! Blocks, gangs and shares -/

/-- Key of a block's gang (R15). -/
def State.gangKey (s : State) (b : Block) : Nat := taskKey b.vf b.task * 2 ^ 32 + b.lin / max 1 (s.taskOf b.vf b.task).gang

/-- Warps of a block that have not exited. -/
def State.liveWarps (s : State) (bid : Nat) : List Nat := (s.warpsOf bid).filter fun k => !(s.warpOf k).exited

/-- Free registers of a block's share in a quarter (R22). -/
def State.freeShare (s : State) (bid q : Nat) : Nat :=
  let b := s.blockOf bid
  b.val * ((b.nwarps + 3 - q) / 4) - sumNat (((s.liveWarps bid).filter fun k => quarterOf k == q).map fun k => (s.warpOf k).allot)

/-- A warp waits for a role. -/
def Warp.roleWaits (w : Warp) : Option Nat :=
  match w.pathA.st with
  | .roleWait n => some n
  | _ => none

/-- v allotment of role n of a task, in registers. -/
def Task.roleV (t : Task) (n : Nat) : Nat := 8 * roleAllot t.record n

/-- The oldest Role-wait of a block's share in a quarter (R24). -/
def State.oldestRole (s : State) (bid q : Nat) : Option Nat :=
  minBy (fun k => (s.warpOf k).roleSince) ((s.liveWarps bid).filter fun k => quarterOf k == q && (s.warpOf k).roleWaits.isSome)

/-- A warp's growth to a role fits the free share. -/
def State.roleFits (s : State) (wid n : Nat) : Bool :=
  let w := s.warpOf wid
  let b := s.blockOf w.bid
  (s.taskOf b.vf b.task).roleV n ≤ w.allot + s.freeShare w.bid (quarterOf wid)

/-- A role is granted: allotment, registers, class and PC, and the log entry of the mortise run (R23, R407). -/
def State.grantRole (s : State) (wid n : Nat) : State :=
  let b := s.blockOf (s.warpOf wid).bid
  let t := s.taskOf b.vf b.task
  let new := t.roleV n
  s.onPath wid false fun s =>
    let s1 := if s.checkRun then s.modPath fun p => { p with logSeq := p.logSeq + 1 } else s.logVal 0
    s1.modW fun w =>
      let p := w.pathA
      { w with
        v := w.v.filter fun e => e.1 / 32 < min w.allot new
        allot := new
        role := n
        prio := rolePrio t.record n
        pathA := { p.wake s.now false with pc := BitVec.ofNat 57 (t.codeva + roleEntry t.record n) } }

/-- R25: every live warp of the block in the quarter waits for a role and none can be granted; the last to enter leaves by trapping ROLE. Check runs follow their log instead (R407). -/
def State.roleDeadlock (s : State) (bid q : Nat) : State :=
  let ws := (s.liveWarps bid).filter fun k => quarterOf k == q
  let fits := match s.oldestRole bid q with
    | some k => match (s.warpOf k).roleWaits with
      | some n => s.roleFits k n
      | none => false
    | none => true
  if fits || ws.any (fun k => (s.warpOf k).roleWaits.isNone) || (s.blockOf bid).kind = .tenon || (s.blockOf bid).kind = .dowel then s
  else
    match minBy (fun k => 2 ^ 64 - (s.warpOf k).roleSince) ws with
    | some k =>
      let pc := (s.warpOf k).pathA.pc
      (s.onPath k false fun s => s.logVal 9).trapAt k false tcRole pc pc 0 TermInfo.none
    | none => s

/-! Tile images (R230, R345) -/

/-- The element size code of a tile of a block. -/
def Block.tileEbOf (b : Block) (h : Nat) : Nat :=
  match AL.get? b.tiles h with
  | some t => tileEb t.desc
  | none => 0

/-- The words `tatom` changed, as TIMG payloads: handle, element index and element size, then the value. -/
def Block.timgs (b : Block) : List (List Nat) :=
  (sortNub b.tdirty).filterMap fun x =>
    let h := x / 2 ^ 32
    let i := x % 2 ^ 32
    match AL.get? b.tiles h with
    | some t => some (leBytes 8 (h + i * 2 ^ 8 + tileEb t.desc * 2 ^ 32) ++ leBytes 8 (t.get (i * tileElem t.desc) (tileElem t.desc)))
    | none => none

/-- The mortise run logs the words `tatom` changed since the last time. -/
def State.logTimgs (s : State) (bid : Nat) : State :=
  let b := s.blockOf bid
  let s1 := b.timgs.foldl (fun s p => (if (s.blockOf bid).unver then s else (s.logPutAt bid 0 false leTimg 0 3 16 (some p)).2)) s
  s1.updBlock bid fun b => { b with tdirty := [] }

/-- Apply one TIMG payload to a tile of a check run. -/
def State.applyTimg (s : State) (bid : Nat) (p : List Nat) : State :=
  let x := leNat (p.take 8)
  s.updTile bid (bits x 5 0) fun t => t.put (bits x 31 8 * tileElem t.desc) ((p.drop 8).take (tileElem t.desc))

/-- A check run takes one TIMG entry for each word its own tile atomics changed, and diverges where an entry does not fit; log entry 15. -/
def State.takeTimgs (s : State) (bid : Nat) : List Nat → State
  | [] => s.updBlock bid fun b => { b with tdirty := [] }
  | x :: r =>
    let b := s.blockOf bid
    let w := s.warpOf (bid * 32)
    match (streamOf (s.blockOf b.origin).log 0 false)[w.pathA.logSeq]? with
    | some e =>
      if e.typ = leTimg ∧ leNat (e.payload.take 8) % 2 ^ 32 = x / 2 ^ 32 + x % 2 ^ 24 * 2 ^ 8 then
        ((s.updWarp (bid * 32) fun w => { w with pathA := { w.pathA with logSeq := w.pathA.logSeq + 1 } }).applyTimg bid e.payload).takeTimgs bid r
      else s.diverge bid
    | none => s.diverge bid

/-- Tile images at a barrier completion and at block end. -/
def State.tileImages (s : State) (bid : Nat) : State :=
  let b := s.blockOf bid
  match b.kind with
  | .mortise => if b.unver then s.updBlock bid fun b => { b with tdirty := [] } else s.logTimgs bid
  | .tenon | .dowel => s.takeTimgs bid ((sortNub b.tdirty).filter fun x => AL.has b.tiles (x / 2 ^ 32))
  | .plain => s

/-! Barriers (R31, R342 to R345); the gang barrier is number 16 -/

/-- A path waits at barrier n after its warp's arrival was counted. -/
def Path.barCounted (p : Path) (n : Nat) : Bool :=
  match p.st with
  | .barrier m _ c => m == n && c
  | _ => false

/-- A path released by the completion of barrier n: past its barrier. A path whose warp has not arrived stays. -/
def Path.barRelease (p : Path) (n now : Nat) : Path :=
  if p.barCounted n then { p.wake now false with pc := p.pc + 4 } else p

/-- A warp at the completion of barrier n: released warps take the joined timestamps (R343). -/
def Warp.barRelease (w : Warp) (n now : Nat) (pts : Tbl 40) : Warp :=
  let out := w.pathA.barCounted n || w.pathB.barCounted n
  { w with pts := if out then pts else w.pts, pathA := w.pathA.barRelease n now, pathB := w.pathB.barRelease n now }

/-- Timestamps the counted warps contribute: what they hold in the clock of the completion (R343). -/
def State.barPts (s : State) (wids : List Nat) : Tbl 40 := wids.foldl (fun t k => joinPts t (s.warpOf k).pts) []

/-- A use of a barrier of a block completes in one clock (R343). -/
def State.completeBar (s : State) (bid n : Nat) : State :=
  match AL.get? (s.blockOf bid).bars n with
  | none => s
  | some u =>
    let ws := s.warpsOf bid
    let pts := s.barPts (ws.filter fun k => u.arrived.getLsbD (s.warpOf k).idx)
    let s1 := ws.foldl (fun s k => s.updWarp k fun w => w.barRelease n s.now pts) s
    (s1.updBlock bid fun b => { b with bars := AL.del b.bars n }).tileImages bid

/-- A use of the gang barrier completes. -/
def State.completeGang (s : State) (key : Nat) : State :=
  match AL.get? s.gangs key with
  | none => s
  | some g =>
    let ws := g.bids.flatMap s.warpsOf
    let pts := s.barPts g.arrived
    let s1 := ws.foldl (fun s k => s.updWarp k fun w => w.barRelease 16 s.now pts) s
    { s1 with gangs := AL.upd s1.gangs key fun g => { g with arrived := [] } }

/-- An exit lowers the expected count of every-live uses that have not counted the warp, and can complete them (R31, R343). -/
def State.barExit (s : State) (wid : Nat) : State :=
  let w := s.warpOf wid
  let b := s.blockOf w.bid
  let s1 := b.bars.foldl (fun (s : State) (e : Nat × Barrier) =>
    if e.2.count = none ∧ !e.2.arrived.getLsbD w.idx then
      let s1 := s.updBlock w.bid fun b => { b with bars := AL.upd b.bars e.1 fun u => { u with expected := u.expected - 1 } }
      if e.2.arrivals = e.2.expected - 1 then s1.completeBar w.bid e.1 else s1
    else s) s
  let key := s.gangKey b
  match AL.get? s1.gangs key with
  | none => s1
  | some g =>
    if g.arrived.isEmpty || g.arrived.contains wid then s1
    else
      let s2 := { s1 with gangs := AL.upd s1.gangs key fun g => { g with expected := g.expected - 1 } }
      if g.arrived.length = g.expected - 1 then s2.completeGang key else s2

/-! The end of paths and warps (R80, R81, R363) -/

/-- A check run whose block has ended with entries left over diverges (R234). -/
def State.logLeft (s : State) (bid : Nat) : Bool :=
  let log := (s.blockOf (s.blockOf bid).origin).log
  (s.warpsOf bid).any fun k =>
    let w := s.warpOf k
    (streamOf log w.idx false).length != w.pathA.logSeq || (streamOf log w.idx true).length != w.pathB.logSeq

/-- The block's last warp has exited: the tile images, and the check of the streams (R230, R234). -/
def State.lastExit (s : State) (bid : Nat) : State :=
  let s1 := s.tileImages bid
  match (s1.blockOf bid).kind with
  | .tenon | .dowel => if s1.logLeft bid then s1.diverge bid else s1
  | _ => s1

/-- The warp exits: its allotment returns to the share, and barriers and roles that waited for it go on (R26, R31, R81, R363). -/
def State.warpExit (s : State) : State :=
  let wid := s.cur
  let bid := s.bid
  let s1 := s.modW fun w => { w with exited := true, live := 0, split := false, point := none,
                                     pathA := { w.pathA with st := .ended, mask := 0 }, pathB := { w.pathB with st := .ended, mask := 0 } }
  let s2 := s1.barExit wid
  let s3 := s2.roleDeadlock bid (quarterOf wid)
  if (s3.liveWarps bid).isEmpty then s3.lastExit bid else s3

/-- Both arms have reached the top join: one path again, as path A (R80, R225). -/
def State.mergePaths (s : State) (pc : VAddr) : State :=
  let s1 := s.modW fun w =>
    let p := w.path s.curB
    let w1 := (w.endSegment false).endSegment true
    let q : Path := { p with pc := pc + 4, mask := (w.top.dmask ||| p.mask) &&& w.live, mode := w.top.mode, fmt := w.top.fmt,
                             stack := [], spilled := 0, logSeq := w.pathA.logSeq, accs := w.pathA.accs, waited := false }
    { w1 with split := false, pathA := q, pathB := { Path.idle with logSeq := w.pathB.logSeq, accs := w.pathB.accs }, top := StackEntry.zero }
  let s2 := { s1 with curB := false }
  if s2.path.mask = 0 then s2.warpExit else s2.modW fun w => w.startSegment false s2.codeva

/-- The path waits at the top join for the other arm (R80). -/
def State.endPath (s : State) : State :=
  s.modW fun w =>
    let p := w.path s.curB
    { w with top := { w.top with dmask := w.top.dmask ||| p.mask } }.setPath s.curB { p with st := .ended, mask := 0, waited := false }

/-- `join` of the issuing path at an address (R80), and a path left empty (R81). -/
def State.joinAt (s : State) (pc : VAddr) : Nat → Except Stop State
  | 0 => .ok s
  | n + 1 =>
    let cv := s.codeva
    let live := s.w.live
    match s.path.stack with
    | e :: _ =>
      if offAddr cv e.rpc = pc then
        let d := e.dmask ||| s.path.mask
        if e.pmask &&& live ≠ 0 then
          .ok (s.modPath fun p => { p with
            mask := e.pmask &&& live, pc := offAddr cv e.ppc, mode := e.mode, fmt := e.fmt, waited := false,
            stack := { e with dmask := d, pmask := 0 } :: p.stack.tail })
        else do
          let s1 ← s.popEntry
          let s2 := s1.modPath fun p => { p with mask := d &&& live, mode := e.mode, fmt := e.fmt }
          let next := if s2.path.mask ≠ 0 then pc
            else match s2.path.stack with
              | e2 :: _ => offAddr cv e2.rpc
              | [] => offAddr cv s2.w.top.rpc
          s2.joinAt next n
      else .ok (s.jump (pc + 4))
    | [] =>
      if s.w.split && offAddr cv s.w.top.rpc = pc then
        if (s.w.path (!s.curB)).st = .ended then .ok (s.mergePaths pc) else .ok s.endPath
      else .ok (s.jump (pc + 4))

/-- Do a computation that may stop the instruction. -/
def State.orStop (s : State) (r : Except Stop State) : State :=
  match r with
  | .ok s1 => s1
  | .error k => k s

/-- Lanes leave every mask of the warp (R81). -/
def Warp.dropLanes (w : Warp) (x : Word) : Warp :=
  let cutP (p : Path) : Path := { p with mask := p.mask &&& ~~~x, stack := p.stack.map fun e => e.cut (~~~x) }
  { w with live := w.live &&& ~~~x, pathA := cutP w.pathA, pathB := cutP w.pathB, top := { w.top with dmask := w.top.dmask &&& ~~~x } }

/-- The issuing path's active lanes exit (R81, R363). -/
def State.exitLanes (s : State) : State :=
  let s1 := s.modW fun w => w.dropLanes (w.path s.curB).mask
  if !s1.w.split then (s1.modW fun w => w.endSegment false).warpExit
  else
    let rpc := match s1.path.stack with
      | e :: _ => e.rpc
      | [] => s1.w.top.rpc
    s.orStop (s1.joinAt (offAddr s.codeva rpc) (s1.path.depth + 2))

end Sys2Proof.Machine
end

