-- ==== Sys2Proof/Machine/Tiles.lean ====
section
/-! DEFINITION. Tiles: allocation, access, atomics and the gang's tiles (R127 to R135, R425 to R435). -/

set_option Elab.async false

namespace Sys2Proof.Machine

/-! Names of tiles in queued work (R133, R198) -/

/-- Tiles a matrix entry names (R189, R190). -/
def MatEntry.handles (m : MatEntry) : List Nat :=
  let a := m.wa.toNat
  let b := m.wb.toNat
  match m.op with
  | 0 => [bits a 5 0, bits a 13 8]
  | 1 | 2 => [bits a 5 0, bits a 13 8, bits m.wc.toNat 5 0]
  | 3 | 4 => [bits a 5 0]
  | 5 => bits a 5 0 :: (if bitOf a 8 then [] else [bits a 29 24]) ++ (if bitOf b 6 then [bits b 5 0] else []) ++ (if bitOf b 14 then [bits b 13 8] else [])
  | _ => [bits a 5 0, bits a 13 8, bits a 21 16]

/-- Matrix entries of a block that name a tile. -/
def State.matsNaming (s : State) (bid h : Nat) : List Nat :=
  s.eng.matq.flatMap fun e => (e.2.filter fun m => m.bid == bid && !m.follower && m.handles.contains h).map (·.id)

/-- Copy entries of a block that name a tile. -/
def State.copiesNaming (s : State) (bid h : Nat) : List Nat :=
  ((s.blockOf bid).queues.flatMap fun q => q.2.entries).filterMap fun c =>
    if (c.src ++ c.dst).any fun l => l.tile && l.handle == h then some c.id else none

/-! Issued tile accesses that wait (R133, R135, R198, R434) -/

/-- An issued instruction reads or writes a tile, or frees one. -/
def Slow.onTile (x : Slow) : Bool :=
  match x.op with
  | .tld _ | .tst _ _ | .tatom _ _ _ _ | .tfree | .look => true
  | _ => false

/-- Issued tile accesses of a block's warps that are not performed, with a property. -/
def State.slowTilesOf (s : State) (bid : Nat) (p : Slow → Bool) : List Nat :=
  (s.warpsOf bid).flatMap fun k => ((s.warpOf k).slow.filter fun x => x.onTile && p x).map (·.id)

/-- A handle of a block names a tile of the gang. -/
def State.gangHandle (s : State) (bid h : Nat) : Bool := (AL.get? (s.blockOf bid).tiles h).any fun t => tileGang t.desc

/-- What a tile access of a block waits for: the matrix entries and earlier accesses that name its tile (R198, R434), and for a tile of the gang all the block's earlier accesses to such tiles, whose order every copy sees (R135). -/
def State.tileWait (s : State) (bid h : Nat) : Wait :=
  .tile (s.matsNaming bid h) (s.slowTilesOf bid fun x => x.handle == h || (s.gangHandle bid h && s.gangHandle bid x.handle && x.op != .look)) []

/-- A wait for nothing. -/
def Wait.nothing : Wait → Bool
  | .tile [] [] [] => true
  | _ => false

/-- An instruction of n bytes has issued and waits: it stands beside its path, which may issue LA more (R326; log entry 99). -/
def State.issueSlow (s : State) (id la h : Nat) (w : Wait) (op : SlowOp) (n : Nat) : State :=
  ((s.modW fun x => { x with slow := x.slow ++ [⟨id, s.curB, s.path.pc, h, w, op⟩] }).modPath fun p => { p with windows := p.windows ++ [(id, la)] }).advance n

/-- An issued instruction that waited is complete (R326). -/
def Warp.endSlow (w : Warp) (id : Nat) : Warp :=
  let cut (p : Path) : Path := { p with windows := p.windows.filter fun x => x.1 != id }
  { w with slow := w.slow.filter fun x => x.id != id, pathA := cut w.pathA, pathB := cut w.pathB }

/-! Allocation (R127 to R132, R426) -/

/-- Granules of a block's banks. -/
def Block.capacity (b : Block) : Nat := b.banks * 128

/-- The granule ranges taken in a block's banks: start and length. -/
def Block.ranges (b : Block) (bid : Nat) : List (Nat × Nat) :=
  b.tiles.filterMap fun e =>
    let t := e.2
    if (tileLevel t.desc == 0 || (tileLevel t.desc == 1 && t.owner == bid)) && !(t.gangwide && b.isCheck) then some (t.base, tileGran t.desc) else none

/-- First fit in ascending granule order (R129). -/
def firstFit (rs : List (Nat × Nat)) (cap n : Nat) : Option Nat :=
  (sortNub (0 :: rs.map fun r => r.1 + r.2)).find? fun b => b + n ≤ cap && rs.all fun r => b + n ≤ r.1 || r.1 + r.2 ≤ b

/-- The first granule a block has for a tile. -/
def State.fit (s : State) (bid : Nat) (d : BitVec 64) : Option Nat :=
  firstFit ((s.blockOf bid).ranges bid) (s.blockOf bid).capacity (tileGran d)

/-- BADSHAPE (R129, R132, R426). -/
def badShape (d : BitVec 64) (gang : Nat) : Bool :=
  bits d.toNat 63 33 != 0 || tileRows d == 0 || 4096 < tileRows d || tileCols d == 0 || 4096 < tileCols d || 4 < tileEb d ||
  tileLevel d == 3 || (tileAcc d && (tileLevel d != 0 || tileEb d != 2)) || (tileMirror d && tileLevel d != 0) ||
  (tileGang d && gang ≤ 1) || (tileLevel d == 2 && 0x40000 < tileBytes d)

/-- The failure a `talloc` returns (R129). -/
def tileFail (status : Nat) : DWord := BitVec.ofNat 64 (2 ^ 63 + status)

/-- Put a new tile into a block. -/
def State.newTile (s : State) (bid h base owner slice : Nat) (d : BitVec 64) (returned : Bool) : State :=
  let (serial, s1) := s.fresh
  s1.updBlock bid fun b => { b with tiles := AL.put b.tiles h ⟨d, tileGang d, returned, base, owner, serial, [], slice, none, []⟩ }

/-- The slice a level-2 tile goes to (R132; log entry 20). -/
def State.tileSliceOf (s : State) (bid h : Nat) : Nat :=
  let b := s.blockOf bid
  dieOf b.core * 48 + Config.tileSlice b.vf b.task b.lin h % 48

/-- A block that resumes on another die has its level-2 tiles pinned in slices of that die, which have room for them (R132). -/
def State.repin (s : State) (bid : Nat) : State :=
  let b := s.blockOf bid
  s.updBlock bid fun b' => { b' with tiles := b.tiles.map fun e =>
    (e.1, if tileLevel e.2.desc = 2 ∧ e.2.slice / 48 ≠ dieOf b.core then { e.2 with slice := s.tileSliceOf bid e.1 } else e.2) }

/-- Pinned lines of a partition in a slice. The tiles of a Saved block keep their lines there until it resumes: R132 does not say (DESIGN CHOICE, log entry 101). -/
def State.pinned (s : State) (p k : Nat) : Nat :=
  sumNat (s.blocks.flatMap fun e => if s.partD e.2.vf = p then e.2.tiles.filterMap (fun t =>
    if tileLevel t.2.desc = 2 ∧ t.2.slice = k then some (tileGran t.2.desc) else none) else [])

/-- Ways that a number of pinned lines need: 256 KiB, 1,024 lines, to a way (R1, R132). -/
def waysFor (n : Nat) : Nat := (n + 1023) / 1024

/-- A level-2 tile fits into half of the partition's ways of a slice (R132). -/
def State.pinFits (s : State) (p k gran : Nat) : Bool := 2 * waysFor (s.pinned p k + gran) ≤ popc 16 (s.ways p k)

/-- The level-2 tiles of blocks that are placed together have room on a die: those that are pinned on another one fit into slices of this one, one after another (R132). -/
def State.repinFits (s : State) (bids : List Nat) (die : Nat) : Bool :=
  let move := bids.flatMap fun bid => ((s.blockOf bid).tiles.filter fun e => tileLevel e.2.desc == 2 && e.2.slice / 48 != die).map fun e => (bid, e)
  (move.foldl (fun (acc : Bool × State) (x : Nat × Nat × Tile) =>
    let b := s.blockOf x.1
    let k := die * 48 + Config.tileSlice b.vf b.task b.lin x.2.1 % 48
    (acc.1 && acc.2.pinFits (acc.2.partD b.vf) k (tileGran x.2.2.desc), acc.2.updTile x.1 x.2.1 fun t => { t with slice := k })) (true, s)).1

/-- A private allocation (R130). -/
def State.tallocPrivate (s : State) (bid : Nat) (d : BitVec 64) : DWord × State :=
  let b := s.blockOf bid
  match firstIdx 64 fun h => !AL.has b.tiles h with
  | none => (tileFail 1, s)
  | some h =>
    if tileLevel d = 2 then
      let k := s.tileSliceOf bid h
      if s.pinFits (s.partD b.vf) k (tileGran d) then (BitVec.ofNat 64 h, s.newTile bid h 0 bid k d true) else (tileFail 3, s)
    else match s.fit bid d with
      | some base => (BitVec.ofNat 64 h, s.newTile bid h base bid 0 d true)
      | none => (tileFail 2, s)

/-- The gang of a block, and the blocks of it that hold tiles. -/
def State.gangOf (s : State) (bid : Nat) : Gang := (AL.get? s.gangs (s.gangKey (s.blockOf bid))).getD ⟨[bid], [], 0, []⟩
def State.gangLive (s : State) (bid : Nat) : List Nat :=
  (s.gangOf bid).bids.filter fun b => (s.blockOf b).st != .held && (s.blockOf b).st != .voting

/-- The first block of the gang makes its k-th allocation (R131): handle and status, with the tiles in every block. -/
def State.tallocFirst (s : State) (bid : Nat) (d : BitVec 64) : Nat × Nat × State :=
  let bs := s.gangLive bid
  match ((List.range 64).reverse).find? fun h => bs.all fun b => !AL.has (s.blockOf b).tiles h with
  | none => (0, 1, s)
  | some h =>
    let fits := if tileMirror d then bs.all fun b => (s.fit b d).isSome else (s.fit bid d).isSome
    if !fits then (0, 2, s)
    else (h, 0, bs.foldl (fun s b => s.newTile b h ((s.fit b d).getD 0) (if tileMirror d then b else bid) 0 d false) s)

/-- A gang-wide allocation of a block (R131). R131 says of a mirror tile's NOBUDGET that it counts as the k-th allocation and is returned to every later block: the model takes a NOHANDLE, and a level-1 tile's NOBUDGET, to do the same (DESIGN CHOICE, log entry 85). -/
def State.tallocGang (s : State) (bid : Nat) (d : BitVec 64) : DWord × State :=
  let k := (s.blockOf bid).gwCount
  let key := s.gangKey (s.blockOf bid)
  let g0 := s.gangOf bid
  let s0 := s.updBlock bid fun b => { b with gwCount := k + 1 }
  let (g, s1) := match g0.allocs[k]? with
    | some _ => (g0, s0)
    | none =>
      let (h, st, s1) := s0.tallocFirst bid d
      ({ g0 with allocs := g0.allocs ++ [(d, h, st, [], [])] }, s1)
  match g.allocs[k]? with
  | none => (tileFail 1, s1)
  | some (d0, h, st, ret, freed) =>
    let ok := d0 = d ∧ st = 0
    let g1 := if ok then { g with allocs := g.allocs.set k (d0, h, st, ret ++ [bid], freed) } else g
    let s2 := { s1 with gangs := AL.put s1.gangs key g1 }
    if d0 ≠ d then (tileFail 5, s2)
    else if st ≠ 0 then (tileFail st, s2)
    else (BitVec.ofNat 64 h, s2.updTile bid h fun t => { t with returned := true })

/-- Allocate a tile for a block (R129). -/
def State.tileAlloc (s : State) (bid : Nat) (d : BitVec 64) : DWord × State :=
  let b := s.blockOf bid
  if badShape d (s.taskOf b.vf b.task).gang then (tileFail 4, s)
  else if tileGang d then s.tallocGang bid d
  else s.tallocPrivate bid d

/-- A check run allocates the handle its log names (R429). A level-2 tile for which its slice has no room is pinned in none, number 192 (R132; DESIGN CHOICE, log entry 101). -/
def State.checkAlloc (s : State) (bid h : Nat) (d : BitVec 64) : State :=
  let k := s.tileSliceOf bid h
  let slice := if tileLevel d = 2 ∧ !s.pinFits (s.partD (s.blockOf bid).vf) k (tileGran d) then 192 else k
  s.newTile bid h (if tileGang d then 0 else (s.fit bid d).getD 0) bid slice d true

/-- `talloc` (R425, R426, R429). -/
def execTalloc (d a _la : Nat) (s : State) : Host.Outcome State Fault Refusal :=
  .next (s.ending fun s =>
    let desc := s.rS a
    if s.checkRun then
      s.logTake (LogEntry.is leVal 0) fun p s =>
        let x := leNat p
        let s1 := if x < 64 then s.checkAlloc s.bid x desc else s
        (s1.writeS d (BitVec.ofNat 64 x)).advance 4
    else
      let (x, s1) := s.tileAlloc s.bid desc
      ((s1.logVal x).writeS d x).advance 4)

/-! Release (R133, R427) -/

/-- The allocation that a gang-wide handle names now: the latest one that gave the number. -/
def Gang.current (g : Gang) (h : Nat) : Option Nat := ((List.range g.allocs.length).filter fun i => (g.allocs[i]?).any fun a => a.2.1 == h && a.2.2.1 == 0).getLast?

/-- A gang-wide handle that every live block of the gang has freed is freed everywhere (R133). -/
def State.gangFreed (s : State) (bid h : Nat) : State :=
  let g := s.gangOf bid
  let live := s.gangLive bid
  match (g.current h).bind fun i => g.allocs[i]? with
  | some a => if live.all fun b => a.2.2.2.2.contains b then live.foldl (fun s b => s.updBlock b fun bl => { bl with tiles := AL.del bl.tiles h }) s else s
  | none => s

/-- A block's use of a gang-wide handle ends; the last one frees it everywhere (R133). -/
def State.freeGang (s : State) (bid h : Nat) : State :=
  let g := s.gangOf bid
  let mark (a : BitVec 64 × Nat × Nat × List Nat × List Nat) : BitVec 64 × Nat × Nat × List Nat × List Nat :=
    if a.2.2.2.1.contains bid then (a.1, a.2.1, a.2.2.1, a.2.2.2.1, insSorted bid a.2.2.2.2) else a
  let s1 := match g.current h with
    | some i => { s with gangs := AL.upd s.gangs (s.gangKey (s.blockOf bid)) fun g => { g with allocs := match g.allocs[i]? with
        | some a => g.allocs.set i (mark a)
        | none => g.allocs } }
    | none => s
  (s1.updTile bid h fun t => { t with freeing := none }).gangFreed bid h

/-- A handle's storage and number are released. No word of it is left for the next tile image (R230). -/
def State.tileRelease (s : State) (bid h : Nat) : State :=
  match AL.get? (s.blockOf bid).tiles h with
  | none => s
  | some t =>
    let s1 := s.updBlock bid fun b => { b with tdirty := b.tdirty.filter fun x => x / 2 ^ 32 != h }
    if t.gangwide && !(s.blockOf bid).isCheck then s1.freeGang bid h
    else s1.updBlock bid fun b => { b with tiles := AL.del b.tiles h }

/-- The warp and path of a `tfree`, as its tile keeps them. -/
def State.freer (s : State) : Nat := s.cur * 2 + if s.curB then 1 else 0

/-- `tfree` (R427): the handle stops being usable at issue, and its storage goes when the work that names it has ended. -/
def execTfree (a la : Nat) (s : State) : Host.Outcome State Fault Refusal :=
  .next (s.ending fun s =>
    let h := (s.rS a).toNat
    if 64 ≤ h then s.illop
    else if (s.blk.tile? h).isNone then s.trap tcHandle 0
    else
      let s1 := s.updTile s.bid h fun t => { t with returned := false, freeing := some s.freer }
      let w : Wait := .tile (s.matsNaming s.bid h) (s.slowTilesOf s.bid fun x => x.handle == h) (s.copiesNaming s.bid h)
      if w.nothing then (s1.tileRelease s1.bid h).advance 4
      else
        let (id, s2) := s1.fresh
        s2.issueSlow id la h w .tfree 4)

/-- The descriptor `tinfo` writes (R128, R428). -/
def tileInfo (t : Tile) : DWord :=
  BitVec.ofNat 64 (bits t.desc.toNat 32 0 + 2 ^ 33 + (if t.gangwide then 2 ^ 34 else 0) + tileGran t.desc * 2 ^ 48)

/-- `tinfo` (R428). -/
def execTinfo (d h _la : Nat) (s : State) : Host.Outcome State Fault Refusal :=
  .next (s.scalarResult d (match s.blk.tile? (s.rS h).toNat with
    | some t => tileInfo t
    | none => 0))

/-! Stores between blocks of a gang (R135) -/

/-- Write bytes of a gang tile: a store older than the one that wrote a byte last leaves it. -/
def Tile.putStamped (t : Tile) (id off : Nat) (l : List Nat) : Tile :=
  (l.zip (List.range l.length)).foldl (fun t e =>
    let i := off + e.2
    if AL.getD t.stamps i 0 ≤ id then { t with bytes := AL.put t.bytes i (BitVec.ofNat 8 e.1), stamps := AL.put t.stamps i id } else t) t

/-- A tile message arrives, at the tile it was sent to. -/
def State.arrive (s : State) (m : TileMsg) : State :=
  s.updTile m.dst m.handle fun t => if t.serial = m.serial then t.putStamped (m.id + 1) m.off m.bytes else t

/-- The serial number of the tile that a handle of a block names. -/
def State.tileSerial (s : State) (bid h : Nat) : Nat := ((AL.get? (s.blockOf bid).tiles h).map (·.serial)).getD 0

/-- Deliver the messages with a property, oldest first. -/
def State.deliverTiles (s : State) (p : TileMsg → Bool) : State :=
  let s1 := (s.eng.tileMsgs.filter p).foldl (fun s m => s.arrive m) s
  { s1 with eng := { s1.eng with tileMsgs := s1.eng.tileMsgs.filter fun m => !p m } }

/-- Send bytes of a gang tile from a block to others, under one number, for an instruction. -/
def State.sendTile (s : State) (id ins src h off : Nat) (l : List Nat) (dsts : List Nat) : State :=
  { s with eng := { s.eng with tileMsgs := s.eng.tileMsgs ++ dsts.map fun d => ⟨id, s.cur, src, d, h, off, l, s.tileSerial d h, ins⟩ } }

/-- A block stores bytes into a gang tile for an instruction: its own copy at once, the others by message (R135). -/
def State.storeGang (s : State) (bid h ins off : Nat) (l : List Nat) : State :=
  match AL.get? (s.blockOf bid).tiles h with
  | none => s
  | some t =>
    let (id, s1) := s.fresh
    if tileMirror t.desc then
      (s1.updTile bid h fun t => t.putStamped (id + 1) off l).sendTile id ins bid h off l ((s1.gangLive bid).filter (· != bid))
    else if t.owner = bid then s1.updTile bid h fun t => t.putStamped (id + 1) off l
    else s1.sendTile id ins bid h off l [t.owner]

/-- A message can be delivered next: the stores of one block reach another in that block's program order (R135). -/
def State.tileTurn (s : State) (m : TileMsg) : Bool := !(s.eng.tileMsgs.any fun x => x.src == m.src && x.dst == m.dst && x.id < m.id)

/-- Before a block reads a level-1 tile at its owner, its own earlier stores reach it. -/
def State.ownStoresFirst (s : State) (bid h : Nat) : State :=
  s.deliverTiles fun m => m.src == bid && m.dst == ((AL.get? (s.blockOf bid).tiles h).map (·.owner)).getD bid

/-- When the owner of level-1 tiles leaves, a block of the gang that still holds the handle and has room in its banks keeps the bytes, and where none has room the tile goes; log entry 21. -/
def State.handOverTiles (s : State) (bid : Nat) : State :=
  (s.blockOf bid).tiles.foldl (fun s e =>
    let t := e.2
    if tileLevel t.desc = 1 ∧ t.owner = bid ∧ !(s.blockOf bid).isCheck then
      let s1 := s.deliverTiles fun m => m.dst == bid
      let bytes := ((AL.get? (s1.blockOf bid).tiles e.1).getD t).bytes
      match (s1.gangLive bid).find? fun b => b != bid && AL.has (s1.blockOf b).tiles e.1 && (s1.fit b t.desc).isSome with
      | some o =>
        let base := (s1.fit o t.desc).getD 0
        (s1.gangLive bid).foldl (fun s b => s.updTile b e.1 fun x => { x with owner := o, base := base, bytes := if b = o then bytes else x.bytes }) s1
      | none => (s1.gangLive bid).foldl (fun s b => s.updBlock b fun bl => { bl with tiles := AL.del bl.tiles e.1 }) s1
    else s) s

/-! Access (R134, R430 to R435) -/

/-- The tile a register names, or HANDLE (R134). -/
def State.withTile (s : State) (h : Nat) (k : Nat → Tile → State) : State :=
  let x := (s.rS h).toNat
  match s.blk.tile? x with
  | some t => k x t
  | none => s.trap tcHandle 0

/-- The issuing path's instruction has checked its tile and waits to read it. -/
def Slow.looks (x : Slow) (b : Bool) (pc : VAddr) : Bool := x.op == .look && x.pathB == b && x.xpc == pc

/-- The issuing path's instruction reads its tile now. -/
def State.endLook (s : State) : State := s.modW fun w => { w with slow := w.slow.filter fun x => !x.looks s.curB s.path.pc }

/-- An instruction that reads a tile at its PC (R414, R438): HANDLE, BOUNDS where `bad` says so, and then, once, the wait for the earlier work that names the tile. It reads the tile when that has ended, before any access that issues later. -/
def State.tileAtPc (s : State) (h : Nat) (bad : Tile → Bool) (k : Nat → Tile → State → State) : State :=
  let x := (s.rS h).toNat
  let go (t : Tile) : State := k x t (s.endLook.ownStoresFirst s.bid x)
  match (if s.w.slow.any fun y => y.looks s.curB s.path.pc then AL.get? s.blk.tiles x else none), s.blk.tile? x with
  | some t, _ => go t
  | none, none => s.trap tcHandle 0
  | none, some t =>
    if bad t then s.trap tcBounds 0
    else
      let w := s.tileWait s.bid x
      if w.nothing then go t
      else
        let (id, s1) := s.fresh
        (s1.modW fun q => { q with slow := q.slow ++ [⟨id, s.curB, s.path.pc, x, w, .look⟩] }).wait (.operandWait w)

/-- Lanes that may fail a check: acting lanes less helpers. -/
def State.realLanes (s : State) : List Nat := lanesOf (s.acting &&& ~~~s.actingHelpers)

/-- Element indices of lanes. -/
def State.elemIdx (s : State) (vi : Nat) (l : List Nat) : List (Nat × Nat) := l.map fun i => (i, (s.rV vi i).toNat)

/-- Elements of a tile. -/
def tileElems (d : BitVec 64) : Nat := tileRows d * tileCols d

/-- The SS record of one lane's access to a gang tile (R226). -/
def tileRecord (h e : Nat) (l : List Nat) : List Nat := 0x05 :: h % 256 :: leBytes 4 e ++ l

/-- The value of an element of a tile as a block reads it. -/
def State.elemAt (s : State) (bid h e : Nat) : Nat :=
  let t := s.tileStore bid h
  t.get (e * tileElem t.desc) (tileElem t.desc)

/-- Results of lanes into v registers: n registers from d. -/
def State.tileResult (s : State) (d eb : Nat) (l : List (Nat × Nat)) : State :=
  s.writeVec d (widthRegs eb) (l.map fun e => (e.1, loadValue s.path.modeET eb e.2))

/-- A read of a gang tile by a run: logged, or taken from the log (R230, R233). -/
def State.tileLogged (s : State) (typ eb : Nat) (mask : Word) (vals : List (Nat × Nat)) (k : List (Nat × Nat) → State → State) : State :=
  if s.checkRun && !s.w.recipe then
    s.logTake (LogEntry.is typ mask) fun p s => k ((logValues eb mask p).map fun e => (e.1, e.2.toNat)) s
  else k vals (s.logPut typ mask (Nat.log2 eb) (eb * popc 32 mask.toNat) (some (vals.flatMap fun e => leBytes eb e.2))).2

/-- The elements of a tile that lanes read, once the block's own earlier stores have reached it. -/
def State.tileRead (s : State) (h : Nat) (elems : List (Nat × Nat)) : List (Nat × Nat) × State :=
  let s1 := s.ownStoresFirst s.bid h
  (elems.map fun e => (e.1, s1.elemAt s1.bid h e.2), s1)

/-- A tile access with a result that has to wait (R434): its place in the log, if it takes one, is reserved, and its registers are pending. -/
def State.pendTile (s : State) (typ la h : Nat) (w : Wait) (op : SlowOp) (regs : List RegRef) (dest eb kind : Nat) (mask : Word) (logged : Bool) (n : Nat) : State :=
  let isLogged := logged && s.logging
  let (seq, s1) := if logged then s.logPut typ mask (Nat.log2 eb) (eb * popc 32 mask.toNat) none else (0, s)
  let (id, s2) := s1.fresh
  let p : Pend := ⟨id, s.curB, regs, dest, eb, s.path.modeET, kind, s.acting, s.actingHelpers, [], [id], if isLogged then typ else 0, seq, mask, s.path.pc⟩
  let s3 := if kind = 2 then s2 else s2.foldPend id
  (s3.modW fun x => { x with pend := x.pend ++ [p] }).issueSlow id la h w op n

/-- `tld` (R433 to R435). In a check run the value of a gang tile comes from the log and waits for nothing (R233). -/
def execTld (d h i la : Nat) (s : State) : Host.Outcome State Fault Refusal :=
  .next (if !s.vOk d || !s.vOk i then s.illop
    else s.withTile h fun x t =>
      let eb := tileElem t.desc
      let regs : List RegRef := (List.range (widthRegs eb)).map fun j => .v (d + j)
      if !s.vRegsOk d (widthRegs eb) then s.illop
      else match (s.elemIdx i s.realLanes).find? fun e => tileElems t.desc ≤ e.2 with
        | some e => s.trap tcBounds e.2
        | none =>
          s.writing regs fun s =>
            let all := s.elemIdx i (lanesOf s.acting)
            let elems := all.filter fun e => e.2 < tileElems t.desc
            let w := s.tileWait s.bid x
            if w.nothing || (tileGang t.desc && s.checkRun && !s.w.recipe) then
              let (got, s) := s.tileRead x elems
              let vals := all.map fun e => (e.1, AL.getD got e.1 0)
              if tileGang t.desc then s.tileLogged leLoad eb s.acting vals fun l s => (s.tileResult d eb l).advance 4
              else (s.tileResult d eb vals).advance 4
            else s.pendTile leLoad la x w (.tld elems) regs d eb 0 s.acting (tileGang t.desc) 4)

/-- Store lanes into a tile of the block's own, ascending. -/
def State.tileStoreOwn (s : State) (h eb : Nat) (l : List (Nat × Nat)) : State :=
  s.updTile s.bid h fun t => l.foldl (fun t e => t.put (e.1 * eb) (leBytes eb e.2)) t

/-- Fold the lanes' records of an access to a gang tile. -/
def State.foldTile (s : State) (h : Nat) (l : List (Nat × List Nat)) : State := l.foldl (fun s e => s.fold 0 (tileRecord h e.1 e.2)) s

/-- Store lanes' elements into a tile, for an instruction (R434). -/
def State.tilePut (s : State) (h ins eb : Nat) (l : List (Nat × Nat)) : State :=
  if s.gangHandle s.bid h then l.foldl (fun s e => s.storeGang s.bid h ins (e.1 * eb) (leBytes eb e.2)) s else s.tileStoreOwn h eb l

/-- `tst` (R433 to R435). A check run stores into no gang tile (R233). -/
def execTst (h i src la : Nat) (s : State) : Host.Outcome State Fault Refusal :=
  .next (if !s.vOk src || !s.vOk i then s.illop
    else s.ending fun s => s.withTile h fun x t =>
      let eb := tileElem t.desc
      if !s.vRegsOk src (widthRegs eb) then s.illop
      else match (s.elemIdx i s.realLanes).find? fun e => tileElems t.desc ≤ e.2 with
        | some e => s.trap tcBounds e.2
        | none =>
          let l := (s.elemIdx i s.realLanes).map fun e => (e.2, s.vVal src (widthRegs eb) e.1 % 2 ^ (8 * eb))
          let s1 := if tileGang t.desc then s.foldTile x (l.map fun e => (e.1, leBytes eb e.2)) else s
          let w := s.tileWait s.bid x
          let (id, s2) := s1.fresh
          if tileGang t.desc && s.checkRun then s1.advance 4
          else if w.nothing then (s2.tilePut x id eb l).advance 4
          else s2.issueSlow id la x w (.tst eb l) 4)

/-! Tile atomics (R430 to R432) -/

/-- One lane of a tile atomic: lane, element, operand, comparand. -/
abbrev TileAtom := Nat × Nat × Nat × Nat

/-- The copy at which a tile's atomics are performed (R431). -/
def State.atomPlace (s : State) (bid h : Nat) : Nat :=
  match AL.get? (s.blockOf bid).tiles h with
  | some t =>
    if tileMirror t.desc then ((s.gangLive bid).find? fun b => AL.has (s.blockOf b).tiles h).getD bid
    else if tileLevel t.desc = 1 then t.owner else bid
  | none => bid

/-- Perform a tile atomic lane by lane at a place: old values and new values by element. -/
def tileAtoms (op : AtomOp) (et eb : Nat) : Tile → List TileAtom → List (Nat × Nat) × List (Nat × Nat)
  | _, [] => ([], [])
  | t, (l, e, x, c) :: r =>
    let old := t.get (e * eb) eb
    let n := atomNew op et eb old x c
    let w := atomWrites op old c
    let (os, ns) := tileAtoms op et eb (if w then t.put (e * eb) (leBytes eb n) else t) r
    ((l, old) :: os, if w then (e, n) :: ns else ns)

/-- The elements of a block's own tile that a `tatom` changed (R230). -/
def State.markDirty (s : State) (h : Nat) (es : List Nat) : State :=
  s.modB fun b => { b with tdirty := es.foldl (fun d e => insSorted (h * 2 ^ 32 + e) d) b.tdirty }

/-- Put the new values of a tile atomic where every reader finds them. -/
def State.tileAtomPut (s : State) (h ins eb : Nat) (t : Tile) (place : Nat) (ns : List (Nat × Nat)) : State :=
  if tileGang t.desc then
    ns.foldl (fun s e =>
      let (id, s1) := s.fresh
      let s2 := s1.updTile place h fun t => t.putStamped (id + 1) (e.1 * eb) (leBytes eb e.2)
      if tileMirror t.desc then s2.sendTile id ins place h (e.1 * eb) (leBytes eb e.2) ((s2.gangLive s2.bid).filter (· != place)) else s2) s
  else (s.tileStoreOwn h eb ns).markDirty h (ns.map (·.1))

/-- The lanes of a tile atomic (R431). -/
def State.tileAtomLanes (s : State) (d i vc eb : Nat) (cas : Bool) : List TileAtom :=
  (s.elemIdx i s.realLanes).map fun e =>
    (e.1, e.2, s.vVal d (widthRegs eb) e.1, if cas then s.vVal vc (widthRegs eb) e.1 else 0)

/-- What reaches the copy of a tile at which a block's atomic is performed before it: the block's own earlier stores, and the stores to the tile that are on their way, each with what its block sent before it (R135, R431). -/
def State.atomFirst (s : State) (bid place h : Nat) : State :=
  let ms := s.eng.tileMsgs.filter fun m => m.dst == place
  s.deliverTiles fun m => m.dst == place && (m.src == bid || ms.any fun x => x.src == m.src && x.handle == h && m.id ≤ x.id)

/-- The lanes of a tile atomic are performed, as one step at its place (R431): the old values. -/
def State.tatomAt (s : State) (op : AtomOp) (et eb x ins : Nat) (ls : List TileAtom) : List (Nat × Nat) × State :=
  let place := s.atomPlace s.bid x
  let t := (AL.get? s.blk.tiles x).getD (s.tileStore s.bid x)
  let s2 := if tileGang t.desc then s.atomFirst s.bid place x else s
  let (os, ns) := tileAtoms op et eb ((AL.get? (s2.blockOf place).tiles x).getD t) ls
  (os, s2.tileAtomPut x ins eb t place ns)

/-- The effect of `tatom` after its checks (R431, R432). -/
def State.tatomDo (s : State) (op : AtomOp) (d i vc : Nat) (nd : Bool) (la x : Nat) (t : Tile) : State :=
  let eb := tileElem t.desc
  let ls := s.tileAtomLanes d i vc eb (op == .cas)
  let mask := maskOf s.realLanes
  let finish (os : List (Nat × Nat)) (s : State) : State :=
    if nd then s.advance 8
    else (s.writeVec d (widthRegs eb) ((lanesOf s.acting).map fun l => (l, AL.getD os l 0))).advance 8
  let s1 := if tileGang t.desc then
      s.foldTile x (ls.map fun a => (a.2.1, leBytes eb a.2.2.1 ++ (if op = .cas then leBytes eb a.2.2.2 else [])))
    else s
  let w := s.tileWait s.bid x
  if s.checkRun then
    s1.logTake (LogEntry.is leTatom mask) fun p s =>
      let os := (logValues eb mask p).map fun e => (e.1, e.2.toNat)
      let changed := (ls.filter fun a => atomWrites op (AL.getD os a.1 0) a.2.2.2).map fun a => a.2.1
      finish os (if tileGang t.desc then s else s.markDirty x changed)
  else if w.nothing then
    let (id, s2) := s1.fresh
    let (os, s3) := s2.tatomAt op s.path.modeET eb x id ls
    finish os (s3.logPut leTatom mask (Nat.log2 eb) (eb * ls.length) (some (os.flatMap fun e => leBytes eb e.2))).2
  else
    s1.pendTile leTatom la x w (.tatom op s.path.modeET eb ls) (if nd then [] else (List.range (widthRegs eb)).map fun j => .v (d + j)) d eb
      (if nd then 2 else 0) mask true 8

/-- `tatom` (R430 to R432). -/
def execTatom (op : AtomOp) (d h i vc : Nat) (nd : Bool) (la : Nat) (s : State) : Host.Outcome State Fault Refusal :=
  .next (if !s.vOk d || !s.vOk i || (op == .cas && !s.vOk vc) then s.illop
    else s.ending fun s => s.withTile h fun x t =>
      let n := widthRegs (tileElem t.desc)
      if !(tileEb t.desc == 2 || tileEb t.desc == 3) || !atomTypeOk op (tileEb t.desc) s.path.modeET ||
         !s.vRegsOk d n || (op == .cas && !s.vRegsOk vc n) then s.illop
      else match (s.elemIdx i s.realLanes).filter fun e => tileElems t.desc ≤ e.2 with
        | e :: r => s.trap tcBounds (r.foldl (fun m x => min m x.2) e.2)
        | [] => s.tatomDo op d i vc nd la x t)

/-! Waiting tile accesses are performed (R133, R434) -/

/-- The pending registers of an issued instruction take its values by lane (R326). -/
def State.pendGives (s : State) (wid id : Nat) (got : List (Nat × Nat)) : State :=
  match (s.warpOf wid).pend.find? fun p => p.id == id with
  | some p => s.finishPend wid { p with got := got.map fun e => (e.1, BitVec.ofNat 128 e.2) }
  | none => s

/-- An issued tile access of a warp, whose wait is over, is performed. -/
def State.slowTile (s : State) (wid : Nat) (x : Slow) : State :=
  let s1 := match x.op with
    | .tld elems => s.onPath wid x.pathB fun s =>
        let (got, s1) := s.tileRead x.handle elems
        s1.pendGives wid x.id got
    | .tst eb l => s.onPath wid x.pathB fun s => s.tilePut x.handle x.id eb l
    | .tatom op et eb ls => s.onPath wid x.pathB fun s =>
        let (os, s1) := s.tatomAt op et eb x.handle x.id ls
        s1.pendGives wid x.id os
    | .tfree => s.tileRelease (s.warpOf wid).bid x.handle
    | _ => s
  s1.updWarp wid fun w => w.endSlow x.id

end Sys2Proof.Machine
end

