-- ==== Sys2Proof/Machine/Barrier.lean ====
section
/-! DEFINITION. The wait of a fence and the barrier instructions `bar`, `gbar` and `arrive` (R165, R341 to R345). -/

set_option Elab.async false

namespace Sys2Proof.Machine

/-- Issued tile accesses of a warp that wait themselves: to tiles of its block, or to all tiles (R165, R434). -/
def State.slowTiles (s : State) (wid : Nat) (gang : Bool) : List Nat :=
  let w := s.warpOf wid
  (w.slow.filter fun x => (gang || !s.gangHandle w.bid x.handle) && match x.op with
    | .tld _ | .tst _ _ | .tatom _ _ _ _ => true
    | _ => false).map (·.id)

/-- What a fence of a scope waits for (R165): accesses to be performed at the warp's die, accesses to be acknowledged, and tile stores to be delivered. An access is a line request, or a write-back to memory that still stands in a matrix queue (R199).
A load's value is fixed once its home has answered and no earlier store withholds it (R162, R177). -/
def State.fenceNeeds (s : State) (wid scope : Nat) : List Nat × List Nat × List Nat :=
  let die := dieOf (s.blockOf (s.warpOf wid).bid).core
  let mine := s.mm.reqs.filter fun r => r.wid == wid && !(r.kind == 0 && r.pend.isNone)
  let near := mine.filter fun r => !spaRemote (r.line * 256)
  let mats := s.queuedMats wid s.nextId
  (((near.filter fun r => homeDie (r.line * 256) == die && !r.performed).map (·.id)) ++ (mats.filter fun m => m.storesTo (onDie die)).map (·.id),
   (if 4 ≤ scope then mine.map (·.id) ++ mats.map (·.id)
    else if scope = 3 then near.map (·.id) ++ (mats.filter fun m => m.storesTo fun l => !spaRemote (l * 256)).map (·.id) else []),
   (if 1 ≤ scope then (s.eng.tileMsgs.filter fun m => m.wid == wid).map (·.ins) else []) ++ s.slowTiles wid (1 ≤ scope))

/-- What a fence of a warp waits for is done (R165). -/
def State.fenceDone (s : State) (wid : Nat) (perf acks tiles : List Nat) : Bool :=
  s.dieDone (dieOf (s.blockOf (s.warpOf wid).bid).core) perf && s.beforeDone acks &&
  !(s.eng.tileMsgs.any fun m => tiles.contains m.ins) && !((s.warpOf wid).slow.any fun x => tiles.contains x.id)

/-- What a barrier's fence of a scope waits for (R342): at a gang barrier also the tile stores of the block's warps that have exited (R135). -/
def State.barNeeds (s : State) (wid scope : Nat) : List Nat × List Nat × List Nat :=
  let (a, b, c) := s.fenceNeeds wid scope
  (a, b, if scope = 1 then c ++ (s.eng.tileMsgs.filter fun m => m.src == (s.warpOf wid).bid && (s.warpOf m.wid).exited).map (·.ins) else c)

/-- A barrier's wait as a fence of a scope, unless nothing is left to wait for or the wait has ended (R342). -/
def State.fenceThen (s : State) (scope : Nat) (k : State → State) : State :=
  let (a, b, c) := s.barNeeds s.cur scope
  if s.waitDone || s.fenceDone s.cur a b c then k s
  else s.wait (.operandWait (.fence a b c))

/-- The other path of a split warp that has not ended stands at a barrier: its number and form. -/
def State.otherBar (s : State) : Option (Nat × Nat) :=
  if s.w.split then
    match (s.w.path (!s.curB)).st with
    | .barrier n k false => some (n, k)
    | _ => none
  else none

/-- The issuing path's warp arrives alone: undiverged, or its other path has ended or is held at a barrier (R344). -/
def State.arrivesNow (s : State) : Bool :=
  !s.w.split || (s.w.path (!s.curB)).st == .ended || s.otherBar.isSome

/-- Put both paths that stand at a barrier into a state, or past the instruction. -/
def State.bothBar (s : State) (f : Path → Path) : State :=
  let both := s.otherBar.isSome
  s.modW fun w =>
    let w1 := w.setPath s.curB (f (w.path s.curB))
    if both then w1.setPath (!s.curB) (f (w1.path (!s.curB))) else w1

/-- A path past its `arrive`. -/
def Path.pass (p : Path) (now : Nat) : Path := { p.wake now false with pc := p.pc + 4 }

/-- Count the warp's arrival at a barrier of its block, or let it wait for the use that already counts it (R342): `form` is the explicit count or none, `waits` tells `bar` from `arrive`, and `kk` names the form of the held path. -/
def State.countBar (s : State) (n : Nat) (form : Option Nat) (waits : Bool) (kk : Nat) : State :=
  let idx := s.w.idx
  let bid := s.bid
  let u := (AL.get? s.blk.bars n).getD ⟨form, form.getD (s.liveWarps bid).length, 0, 0⟩
  if u.arrived.getLsbD idx then s.bothBar fun p => { p with st := .barrier n kk false, waited := false }
  else if u.count ≠ form then s.illop
  else
    let u1 := { u with arrived := setLane u.arrived idx true, arrivals := u.arrivals + 1 }
    let s1 := s.modB fun b => { b with bars := AL.put b.bars n u1 }
    let s2 := if waits then s1.bothBar fun p => { p with st := .barrier n kk true, waited := false } else s1.bothBar fun p => p.pass s.now
    if u1.arrivals = u1.expected then s2.completeBar bid n else s2

/-- Count the warp's arrival at its gang's barrier. -/
def State.countGang (s : State) : State :=
  let key := s.gangKey s.blk
  let g := (AL.get? s.gangs key).getD ⟨[s.bid], [], 0, []⟩
  let exp := if g.arrived.isEmpty then (g.bids.flatMap s.liveWarps).length else g.expected
  if g.arrived.contains s.cur then s.bothBar fun p => { p with st := .barrier 16 0 false, waited := false }
  else
    let g1 := { g with arrived := g.arrived ++ [s.cur], expected := exp }
    let s1 := { s with gangs := AL.put s.gangs key g1 }
    let s2 := s1.bothBar fun p => { p with st := .barrier 16 0 true, waited := false }
    if g1.arrived.length = exp then s2.completeGang key else s2

/-- A barrier instruction (R342, R344): number n (16 for the gang), `kk` its form, `scope` of its fence wait, and what counts the arrival. -/
def State.barrierAt (s : State) (n kk scope : Nat) (count : State → State) : State :=
  match s.otherBar with
  | some (m, j) => if m = n ∧ j = kk then s.fenceThen scope count else s.illop
  | none =>
    if s.arrivesNow then s.fenceThen scope count
    else s.wait (.barrier n kk false)

/-- The form's explicit count, if it has one. -/
def barForm (k : Nat) : Option Nat := if k = 0 then none else some k

/-- The count of an arrival at barrier n, of the form that `kk` names. -/
def State.countAt (s : State) (n kk : Nat) : State :=
  if n = 16 then s.countGang
  else if kk < 100 then s.countBar n (barForm kk) true kk
  else s.countBar n (barForm (kk - 100)) false kk

/-- Nothing that a barrier's fence waits for is left for a warp (R342). -/
def State.fenceMet (s : State) (wid scope : Nat) : Bool :=
  let (a, b, c) := s.barNeeds wid scope
  s.fenceDone wid a b c

/-- A path held at a barrier arrives once its warp's other path has Ended, the warp's former arrival there has been used up, and its fence wait is over (R31, R342, R344). A stopped or saved path arrives after it goes on. -/
def State.tryArrive (s : State) (wid : Nat) (b : Bool) : State :=
  let w := s.warpOf wid
  match (w.path b).st with
  | .barrier n kk false =>
    let o := (w.path (!b)).st
    if (w.path b).held || w.dbg || w.saved.isSome || w.exited || (w.split && !(o == .ended || o == .barrier n kk false)) then s
    else if s.fenceMet wid (if n = 16 then 1 else 0) then s.onPath wid b fun s => s.countAt n kk else s
  | _ => s

/-- `bar N, count=K` and `bar.all N` (R341, R342). -/
def execBar (n k : Nat) (s : State) : Host.Outcome State Fault Refusal :=
  .next (if s.blk.nwarps < k then s.illop
    else s.ending fun s => s.barrierAt n k 0 fun s => s.countBar n (barForm k) true k)

/-- `arrive N, count=K` and `arrive.all N` (R341, R342). -/
def execArrive (n k : Nat) (s : State) : Host.Outcome State Fault Refusal :=
  .next (if s.blk.nwarps < k then s.illop
    else s.ending fun s => s.barrierAt n (k + 100) 0 fun s => s.countBar n (barForm k) false (k + 100))

/-- `gbar` (R342); in tenon and dowel runs it completes at once (R233). -/
def execGbar (s : State) : Host.Outcome State Fault Refusal :=
  .next (s.ending fun s => if s.checkRun then s.advance 4 else s.barrierAt 16 0 1 fun s => s.countGang)

end Sys2Proof.Machine
end

