-- ==== Sys2Proof/WellFormed.lean ====
section
/-! DEFINITION. Which instruction terms stand for words: every field fits its bits and names a register of its file.

The operand of an event names a unit of the machine, and an event that names no unit of it has no effect, so every event is well formed. -/

set_option Elab.async false

namespace Sys2Proof

namespace F

/-- A value below a bound. -/
def below (n k : Nat) : Bool := k < n
/-- An unsigned field of n bits. -/
def u (n k : Nat) : Bool := k < 2 ^ n
/-- A signed field of n bits. -/
def i (n : Nat) (k : Int) : Bool := -(2 ^ (n - 1) : Nat) ≤ k && k < (2 ^ (n - 1) : Nat)
/-- A v register name; the allotment is checked at issue (R64). -/
def v (k : Nat) : Bool := k < 256
/-- An s register name. -/
def s (k : Nat) : Bool := k < 64
/-- A p register name. -/
def p (k : Nat) : Bool := k < 16
/-- A b register name. -/
def b (k : Nat) : Bool := k < 32
/-- A q register name. -/
def q (k : Nat) : Bool := k < 8

end F

/-- The fields of a `cpy` and its command word (R206, R208). -/
def CpyArgs.wf (c : CpyArgs) : Bool :=
  F.v c.vsrc && F.v c.vdst && F.b c.bsrc && F.b c.bdst && F.below 3 c.size && F.below 5 c.conv && F.below 5 c.rnd
    && F.q c.queue && F.below 3 c.done && F.s c.scont && (c.done != 0 || c.scont == 0)

/-- The fields of an `rwp` (R281). -/
def RwpArgs.wf (r : RwpArgs) : Bool :=
  F.u 2 r.sgrp && F.u 4 r.vgrp && F.i 12 r.roff && F.u 16 r.vmask && F.u 16 r.smask

/-- The value of a `mode` fits the field its selector names (R330). -/
def modeWf (sel val : Nat) : Bool :=
  match sel with
  | 0 => F.u 32 val
  | 1 => F.u 4 val
  | 2 => F.u 4 val
  | 3 => F.u 4 val
  | 4 => F.u 3 val
  | 5 => F.u 3 val
  | 6 => F.u 1 val
  | 7 => F.u 1 val
  | 8 => F.u 6 val
  | _ => false

/-- Only a cas names a comparand register (R329). -/
def atomWf (op : AtomOp) (vc : Nat) : Bool := F.v vc && (op == .cas || vc == 0)

/-- Whether an instruction term stands for words of the encoding. -/
def Instr.wf : Instr → Bool
  | .nop => true
  | .exit => true
  | .yield => true
  | .trap a => F.s a
  | .brkpt => true
  | .eret a => F.s a
  | .rwp r => r.wf
  | .join => true
  | .ret a => F.s a
  | .jmpr a => F.s a
  | .qhelpOn => true
  | .qhelpOff => true
  | .bra off => F.i 24 off
  | .call off => F.i 24 off
  | .bs _ a off => F.s a && F.i 17 off
  | .vbr p off rc => F.p p && F.i 22 off && F.i 32 rc
  | .vswitch n va sb table => (1 ≤ n && n ≤ 8) && F.v va && F.s sb && (table.length == n + 1 && table.all (F.i 32))
  | .mode sel val => modeWf sel val
  | .modex sel a => F.below 9 sel && F.s a
  | .sregS d id => F.s d && F.u 6 id
  | .sregV d id => F.v d && F.u 6 id
  | .mfmt a => F.s a
  | .role n => F.u 2 n
  | .vadd d a b => F.v d && F.v a && F.v b
  | .vsub d a b => F.v d && F.v a && F.v b
  | .vmul d a b => F.v d && F.v a && F.v b
  | .vmin d a b => F.v d && F.v a && F.v b
  | .vmax d a b => F.v d && F.v a && F.v b
  | .vfma d a b => F.v d && F.v a && F.v b
  | .vfms d a b => F.v d && F.v a && F.v b
  | .vdiv d a b => F.v d && F.v a && F.v b
  | .vand d a b => F.v d && F.v a && F.v b
  | .vor d a b => F.v d && F.v a && F.v b
  | .vxor d a b => F.v d && F.v a && F.v b
  | .vshl d a b => F.v d && F.v a && F.v b
  | .vshr d a b => F.v d && F.v a && F.v b
  | .vmulhi d a b => F.v d && F.v a && F.v b
  | .vdot4 d a b => F.v d && F.v a && F.v b
  | .vsel d a b => F.v d && F.v a && F.v b
  | .vabs d a => F.v d && F.v a
  | .vneg d a => F.v d && F.v a
  | .vnot d a => F.v d && F.v a
  | .vrcp d a => F.v d && F.v a
  | .vrsq d a => F.v d && F.v a
  | .vsqrt d a => F.v d && F.v a
  | .vexp2 d a => F.v d && F.v a
  | .vlog2 d a => F.v d && F.v a
  | .vsin d a => F.v d && F.v a
  | .vcos d a => F.v d && F.v a
  | .vpopc d a => F.v d && F.v a
  | .vclz d a => F.v d && F.v a
  | .vmov d a => F.v d && F.v a
  | .vcvt _ d a => F.v d && F.v a
  | .vbfe d a b => F.v d && F.v a && F.v b
  | .vbfi d a b => F.v d && F.v a && F.v b
  | .vmovi d imm => F.v d && F.i 8 imm
  | .vmoviLiteral d lit => F.v d && F.u 32 lit
  | .vcmp _ p a b => F.p p && F.v a && F.v b
  | .pand d a b => F.p d && F.p a && F.p b
  | .por d a b => F.p d && F.p a && F.p b
  | .pxor d a b => F.p d && F.p a && F.p b
  | .pnot d a => F.p d && F.p a
  | .pmovPS d sa => F.p d && F.s sa
  | .pmovSP sd a => F.s sd && F.p a
  | .pcnt sd a => F.s sd && F.p a
  | .pffs sd a => F.s sd && F.p a
  | .pmovPP d a => F.p d && F.p a
  | .vshflIdx d a b => F.v d && F.v a && F.v b
  | .vshflUp d a k => F.v d && F.v a && F.u 5 k
  | .vshflDown d a k => F.v d && F.v a && F.u 5 k
  | .vshflXor d a k => F.v d && F.v a && F.u 5 k
  | .vbcast d a lane => F.v d && F.v a && F.u 5 lane
  | .vred _ d a => F.v d && F.v a
  | .vscan _ _ d a => F.v d && F.v a
  | .vvote _ d a => F.s d && F.p a
  | .qswz d a sel => F.v d && F.v a && F.u 8 sel
  | .qbcast d a k => F.v d && F.v a && F.u 2 k
  | .vget d a lane => F.s d && F.v a && F.u 5 lane
  | .vput d a lane => F.v d && F.s a && F.u 5 lane
  | .sadd d a b => F.s d && F.s a && F.s b
  | .ssub d a b => F.s d && F.s a && F.s b
  | .smul d a b => F.s d && F.s a && F.s b
  | .sand d a b => F.s d && F.s a && F.s b
  | .sor d a b => F.s d && F.s a && F.s b
  | .sxor d a b => F.s d && F.s a && F.s b
  | .sshl d a b => F.s d && F.s a && F.s b
  | .sshr d a b => F.s d && F.s a && F.s b
  | .sshrA d a b => F.s d && F.s a && F.s b
  | .smin d a b => F.s d && F.s a && F.s b
  | .smax d a b => F.s d && F.s a && F.s b
  | .sminU d a b => F.s d && F.s a && F.s b
  | .smaxU d a b => F.s d && F.s a && F.s b
  | .smov d a => F.s d && F.s a
  | .scmp _ d a b => F.s d && F.s a && F.s b
  | .smovi d imm => F.s d && F.i 14 imm
  | .sliLo d lit => F.s d && F.u 32 lit
  | .sliHi d lit => F.s d && F.u 32 lit
  | .ld d b i la => F.v d && F.b b && F.v i && F.u 4 la
  | .st b i src la => F.b b && F.v i && F.v src && F.u 4 la
  | .atom op d b i vc _ la => F.v d && F.b b && F.v i && atomWf op vc && F.u 4 la
  | .ldu a b c la => F.s a && F.b b && F.s c && F.u 4 la
  | .stu b c a la => F.b b && F.s c && F.s a && F.u 4 la
  | .atomu op a b c la => F.s a && (op != .cas || a % 2 == 0) && F.b b && F.s c && F.u 4 la
  | .pf b i la => F.b b && F.v i && F.u 4 la
  | .pgreq b i la => F.b b && F.v i && F.u 4 la
  | .pgreqY b i la => F.b b && F.v i && F.u 4 la
  | .brec d a b la => F.b d && F.s a && F.s b && F.u 4 la
  | .brecr d a c la => F.b d && F.b a && F.s c && F.u 4 la
  | .fence _ la => F.u 4 la
  | .fenceSc _ la => F.u 4 la
  | .qfence m la => F.u 8 m && F.u 4 la
  | .qwait m la => F.u 8 m && F.u 4 la
  | .wacq n la => F.b n && F.u 4 la
  | .wrel n la => F.b n && F.u 4 la
  | .tld d h i la => F.v d && F.s h && F.v i && F.u 3 la
  | .tst h i src la => F.s h && F.v i && F.v src && F.u 3 la
  | .tatom op d h i vc _ la => F.v d && F.s h && F.v i && atomWf op vc && F.u 4 la
  | .talloc d a la => F.s d && F.s a && F.u 4 la
  | .tfree a la => F.s a && F.u 4 la
  | .tinfo d h la => F.s d && F.s h && F.u 4 la
  | .bar n k => F.u 4 n && F.below 33 k
  | .gbar => true
  | .arrive n k => F.u 4 n && F.below 33 k
  | .cpy c => c.wf
  | .sattach n a b la => F.q n && F.s a && F.s b && F.u 4 la
  | .qdrop n la => F.q n && F.u 4 la
  | .qpop d n => F.v d && F.q n
  | .mma a b la => F.s a && F.s b && F.u 4 la
  | .mmag a b c la => F.s a && F.s b && F.s c && F.u 4 la
  | .mmas a c la => F.s a && F.s c && F.u 4 la
  | .mbld a la => F.s a && F.u 4 la
  | .mbldPair a la => F.s a && F.u 4 la
  | .mwb a b c la => F.s a && F.s b && F.s c && F.u 4 la
  | .mqnt a b c la => F.s a && F.s b && F.s c && F.u 4 la
  | .mpair d la => F.s d && F.u 4 la
  | .munpair la => F.u 4 la
  | .tskpost d h o la => F.s d && F.s h && F.s o && F.u 4 la
  | .tskdec d n k la => F.s d && F.s n && F.s k && F.u 4 la
  | .tskadd d n k la => F.s d && F.s n && F.s k && F.u 4 la
  | .tskq d n la => F.s d && F.s n && F.u 4 la
  | .sigadd a => F.s a
  | _ => true

/-- Well-formedness as a proposition. -/
abbrev Instr.WellFormed (i : Instr) : Prop := i.wf = true

/-- An instruction, as opposed to an event of the device: it has words. -/
def Instr.isInstruction : Instr → Bool
  | .nop => true
  | .exit => true
  | .yield => true
  | .trap _ => true
  | .brkpt => true
  | .eret _ => true
  | .rwp _ => true
  | .join => true
  | .ret _ => true
  | .jmpr _ => true
  | .qhelpOn => true
  | .qhelpOff => true
  | .bra _ => true
  | .call _ => true
  | .bs _ _ _ => true
  | .vbr _ _ _ => true
  | .vswitch _ _ _ _ => true
  | .mode _ _ => true
  | .modex _ _ => true
  | .sregS _ _ => true
  | .sregV _ _ => true
  | .mfmt _ => true
  | .role _ => true
  | .vadd _ _ _ => true
  | .vsub _ _ _ => true
  | .vmul _ _ _ => true
  | .vmin _ _ _ => true
  | .vmax _ _ _ => true
  | .vfma _ _ _ => true
  | .vfms _ _ _ => true
  | .vdiv _ _ _ => true
  | .vand _ _ _ => true
  | .vor _ _ _ => true
  | .vxor _ _ _ => true
  | .vshl _ _ _ => true
  | .vshr _ _ _ => true
  | .vmulhi _ _ _ => true
  | .vdot4 _ _ _ => true
  | .vsel _ _ _ => true
  | .vabs _ _ => true
  | .vneg _ _ => true
  | .vnot _ _ => true
  | .vrcp _ _ => true
  | .vrsq _ _ => true
  | .vsqrt _ _ => true
  | .vexp2 _ _ => true
  | .vlog2 _ _ => true
  | .vsin _ _ => true
  | .vcos _ _ => true
  | .vpopc _ _ => true
  | .vclz _ _ => true
  | .vmov _ _ => true
  | .vcvt _ _ _ => true
  | .vbfe _ _ _ => true
  | .vbfi _ _ _ => true
  | .vmovi _ _ => true
  | .vmoviLiteral _ _ => true
  | .vcmp _ _ _ _ => true
  | .pand _ _ _ => true
  | .por _ _ _ => true
  | .pxor _ _ _ => true
  | .pnot _ _ => true
  | .pmovPS _ _ => true
  | .pmovSP _ _ => true
  | .pcnt _ _ => true
  | .pffs _ _ => true
  | .pmovPP _ _ => true
  | .vshflIdx _ _ _ => true
  | .vshflUp _ _ _ => true
  | .vshflDown _ _ _ => true
  | .vshflXor _ _ _ => true
  | .vbcast _ _ _ => true
  | .vred _ _ _ => true
  | .vscan _ _ _ _ => true
  | .vvote _ _ _ => true
  | .qswz _ _ _ => true
  | .qbcast _ _ _ => true
  | .vget _ _ _ => true
  | .vput _ _ _ => true
  | .sadd _ _ _ => true
  | .ssub _ _ _ => true
  | .smul _ _ _ => true
  | .sand _ _ _ => true
  | .sor _ _ _ => true
  | .sxor _ _ _ => true
  | .sshl _ _ _ => true
  | .sshr _ _ _ => true
  | .sshrA _ _ _ => true
  | .smin _ _ _ => true
  | .smax _ _ _ => true
  | .sminU _ _ _ => true
  | .smaxU _ _ _ => true
  | .smov _ _ => true
  | .scmp _ _ _ _ => true
  | .smovi _ _ => true
  | .sliLo _ _ => true
  | .sliHi _ _ => true
  | .ld _ _ _ _ => true
  | .st _ _ _ _ => true
  | .atom _ _ _ _ _ _ _ => true
  | .ldu _ _ _ _ => true
  | .stu _ _ _ _ => true
  | .atomu _ _ _ _ _ => true
  | .pf _ _ _ => true
  | .pgreq _ _ _ => true
  | .pgreqY _ _ _ => true
  | .brec _ _ _ _ => true
  | .brecr _ _ _ _ => true
  | .fence _ _ => true
  | .fenceSc _ _ => true
  | .qfence _ _ => true
  | .qwait _ _ => true
  | .wacq _ _ => true
  | .wrel _ _ => true
  | .tld _ _ _ _ => true
  | .tst _ _ _ _ => true
  | .tatom _ _ _ _ _ _ _ => true
  | .talloc _ _ _ => true
  | .tfree _ _ => true
  | .tinfo _ _ _ => true
  | .bar _ _ => true
  | .gbar => true
  | .arrive _ _ => true
  | .cpy _ => true
  | .sattach _ _ _ _ => true
  | .qdrop _ _ => true
  | .qpop _ _ => true
  | .mma _ _ _ => true
  | .mmag _ _ _ _ => true
  | .mmas _ _ _ => true
  | .mbld _ _ => true
  | .mbldPair _ _ => true
  | .mwb _ _ _ _ => true
  | .mqnt _ _ _ _ => true
  | .mpair _ _ => true
  | .munpair _ => true
  | .tskpost _ _ _ _ => true
  | .tskdec _ _ _ _ => true
  | .tskadd _ _ _ _ => true
  | .tskq _ _ _ => true
  | .sigadd _ => true
  | _ => false

end Sys2Proof
end

