-- ==== Sys2Proof/Decode.lean ====
section
/-! DEFINITION. The decoder (R320 to R332 and the layouts of the reference files) and the encoder, written from the same layouts.

A word is a natural number below 2^32, and a field is cut out of it by division and remainder.
Every word that is not an instruction is rejected by name; the machine then traps ILLOP (R331). -/

set_option Elab.async false

namespace Sys2Proof

/-- Why a word is not an instruction (R331). -/
inductive Reject where
  /-- Major 0x17 or 0x2C to 0x3F. -/
  | reservedMajor
  /-- A selector value the opcode map does not list. -/
  | reservedSelector
  /-- A non-zero bit in a field that must be zero. -/
  | nonzeroField
  /-- A register field outside its file (R325). -/
  | registerField
  /-- A value wider than the field it names (R330). -/
  | wideValue
  /-- Too few bytes to hold the instruction. -/
  | truncated
  deriving DecidableEq, Repr

/-- Bits [hi:lo] of a word. -/
def fld (w hi lo : Nat) : Nat := w / 2 ^ lo % 2 ^ (hi + 1 - lo)

/-- The signed reading of an n-bit field. -/
def sextNat (n v : Nat) : Int := if v < 2 ^ (n - 1) then (v : Int) else (v : Int) - (2 ^ n : Nat)

/-- The n-bit field that holds a signed value. -/
def unsext (n : Nat) (v : Int) : Nat := (v % (2 ^ n : Nat)).toNat

/-- The major opcode. -/
def majorOf (w : Nat) : Nat := w / 2 ^ 26

/-- Reject unless a field that must be zero is zero. -/
def needZero (z : Nat) (i : Instr) : Except Reject Instr := if z = 0 then .ok i else .error .nonzeroField

/-- COND of `bs`. -/
def bsCondOf : Nat → Option BsCond
  | 0 => some .z | 1 => some .nz | 2 => some .lt | 3 => some .ge | 4 => some .le | 5 => some .gt
  | _ => none

/-- The code of a `bs` condition. -/
def bsCondCode : BsCond → Nat
  | .z => 0 | .nz => 1 | .lt => 2 | .ge => 3 | .le => 4 | .gt => 5

/-- COND of `vcmp`; every 3-bit value is a condition. -/
def vCondOf : Nat → Option VCond
  | 0 => some .eq | 1 => some .ne | 2 => some .lt | 3 => some .le
  | 4 => some .gt | 5 => some .ge | 6 => some .ord | 7 => some .unord
  | _ => none

/-- The code of a `vcmp` condition. -/
def vCondCode : VCond → Nat
  | .eq => 0 | .ne => 1 | .lt => 2 | .le => 3 | .gt => 4 | .ge => 5 | .ord => 6 | .unord => 7

/-- SF - 0x20 of `scmp` (R328). -/
def sCondOf : Nat → Option SCond
  | 0 => some .eq | 1 => some .ne | 2 => some .lt | 3 => some .le | 4 => some .gt
  | 5 => some .ge | 6 => some .ltu | 7 => some .leu | 8 => some .gtu | 9 => some .geu
  | _ => none

/-- The code of an `scmp` condition. -/
def sCondCode : SCond → Nat
  | .eq => 0 | .ne => 1 | .lt => 2 | .le => 3 | .gt => 4 | .ge => 5 | .ltu => 6 | .leu => 7 | .gtu => 8 | .geu => 9

/-- OP of `vred` and `vscan`. -/
def redOpOf : Nat → Option RedOp
  | 0 => some .add | 1 => some .min | 2 => some .max | 3 => some .and | 4 => some .or | 5 => some .xor
  | _ => none

/-- The code of a reduction. -/
def redOpCode : RedOp → Nat
  | .add => 0 | .min => 1 | .max => 2 | .and => 3 | .or => 4 | .xor => 5

/-- OP of the atomics (R329). -/
def atomOpOf : Nat → Option AtomOp
  | 0 => some .add | 1 => some .min | 2 => some .max | 3 => some .and | 4 => some .or | 5 => some .xor
  | 6 => some .exch | 7 => some .cas
  | _ => none

/-- The code of an atomic operation. -/
def atomOpCode : AtomOp → Nat
  | .add => 0 | .min => 1 | .max => 2 | .and => 3 | .or => 4 | .xor => 5 | .exch => 6 | .cas => 7

/-- OP[1:0] of `vvote`. -/
def voteOpOf : Nat → Option VoteOp
  | 0 => some .all | 1 => some .any | 2 => some .ballot
  | _ => none

/-- The code of a vote. -/
def voteOpCode : VoteOp → Nat
  | .all => 0 | .any => 1 | .ballot => 2

/-- The element type of a code of R69. -/
def elemTypeOf : Nat → Option ElemType
  | 0 => some .i32 | 1 => some .n32 | 2 => some .f32 | 3 => some .bf16x2 | 4 => some .f16x2 | 5 => some .i16x2
  | 6 => some .i8x4 | 7 => some .n8x4 | 8 => some .f64 | 9 => some .i64 | 10 => some .n64 | 11 => some .e4m3x4
  | 12 => some .e5m2x4
  | _ => none

/-- The code of an element type. -/
def elemTypeCode : ElemType → Nat
  | .i32 => 0 | .n32 => 1 | .f32 => 2 | .bf16x2 => 3 | .f16x2 => 4 | .i16x2 => 5 | .i8x4 => 6 | .n8x4 => 7
  | .f64 => 8 | .i64 => 9 | .n64 => 10 | .e4m3x4 => 11 | .e5m2x4 => 12

/-- Scope code of `fence` (R165). -/
def scopeOf : Nat → Option Scope
  | 0 => some .block | 1 => some .gang | 2 => some .die | 3 => some .package | 4 => some .system
  | _ => none

/-- The code of a scope. -/
def scopeCode : Scope → Nat
  | .block => 0 | .gang => 1 | .die => 2 | .package => 3 | .system => 4

/-- A selector that must be listed. -/
def sel {α : Type} (o : Option α) (k : α → Except Reject Instr) : Except Reject Instr :=
  match o with
  | some x => k x
  | none => .error .reservedSelector

/-- A register field that must lie below a bound (R325). -/
def inFile (ok : Bool) (r : Except Reject Instr) : Except Reject Instr := if ok then r else .error .registerField

/-- The width of the value of a `mode` or `modex` selector 1 to 8 (R330). -/
def modeSelWidth : Nat → Nat
  | 1 => 4 | 2 => 4 | 3 => 4 | 4 => 3 | 5 => 3 | 6 => 1 | 7 => 1 | 8 => 6
  | _ => 32

/-- Major 0x00 (R327, R279, R281). -/
def decControl (w l : Nat) : Except Reject Instr :=
  let rest := fld w 17 0
  let sa := fld w 17 12
  if fld w 25 22 ≠ 0 then .error .nonzeroField
  else match fld w 21 18 with
  | 0 => needZero rest .nop
  | 1 => needZero rest .exit
  | 2 => needZero rest .yield
  | 3 => needZero (fld w 11 0) (.trap sa)
  | 4 => needZero rest .brkpt
  | 5 => needZero (fld w 11 0) (.eret sa)
  | 6 => .ok (.rwp ⟨fld w 17 16, fld w 15 12, sextNat 12 (fld w 11 0), fld l 15 0, fld l 31 16⟩)
  | 7 => needZero rest .join
  | 8 => needZero (fld w 11 0) (.ret sa)
  | 9 => needZero (fld w 11 0) (.jmpr sa)
  | 10 => if fld w 17 6 ≠ 0 then .error .nonzeroField
          else match fld w 5 0 with
            | 0 => .ok .qhelpOff
            | 1 => .ok .qhelpOn
            | _ => .error .nonzeroField
  | _ => .error .reservedSelector

/-- Major 0x01 (R353). -/
def decBranch (w : Nat) : Except Reject Instr :=
  match fld w 25 24 with
  | 0 => .ok (.bra (sextNat 24 (fld w 23 0)))
  | 1 => .ok (.call (sextNat 24 (fld w 23 0)))
  | _ => .error .reservedSelector

/-- Major 0x05 (R330, R380). -/
def decMode (w l : Nat) : Except Reject Instr :=
  let s := fld w 25 20
  let imm := fld w 13 0
  if s ≥ 9 then .error .reservedSelector
  else if fld w 19 14 ≠ 0 then .error .nonzeroField
  else if s = 0 then needZero imm (.mode 0 (fld l 31 0))
  else if imm ≥ 2 ^ modeSelWidth s then .error .wideValue
  else needZero (fld l 31 0) (.mode s imm)

/-- Major 0x06 (R327, R418). -/
def decSpecial (w : Nat) : Except Reject Instr :=
  let sd := fld w 25 20
  let sa := fld w 19 14
  let sb := fld w 13 8
  match fld w 7 0 with
  | 0 => if sd ≥ 9 then .error .reservedSelector else needZero sb (.modex sd sa)
  | 1 => if sa ≠ 0 then .error .nonzeroField else .ok (.sregS sd sb)
  | 2 => if fld w 25 22 ≠ 0 then .error .nonzeroField else .ok (.sregV (fld w 21 14) sb)
  | 3 => needZero (sd + sb) (.mfmt sa)
  | _ => .error .reservedSelector

/-- Majors 0x08 to 0x0B, format A (R323, R327). -/
def decVec (w : Nat) : Except Reject Instr :=
  let d := fld w 23 16
  let a := fld w 15 8
  let b := fld w 7 0
  match fld w 27 24 with
  | 0 => .ok (.vadd d a b) | 1 => .ok (.vsub d a b) | 2 => .ok (.vmul d a b) | 3 => .ok (.vmin d a b)
  | 4 => .ok (.vmax d a b) | 5 => .ok (.vfma d a b) | 6 => .ok (.vfms d a b) | 7 => .ok (.vdiv d a b)
  | 8 => .ok (.vand d a b) | 9 => .ok (.vor d a b) | 10 => .ok (.vxor d a b) | 11 => .ok (.vshl d a b)
  | 12 => .ok (.vshr d a b) | 13 => .ok (.vmulhi d a b) | 14 => .ok (.vdot4 d a b) | _ => .ok (.vsel d a b)

/-- Major 0x0C, format AU (R327, R102). -/
def decUnary (w : Nat) : Except Reject Instr :=
  let d := fld w 23 16
  let a := fld w 15 8
  match fld w 25 24 with
  | 0 => match fld w 7 0 with
    | 0 => .ok (.vabs d a) | 1 => .ok (.vneg d a) | 2 => .ok (.vnot d a) | 3 => .ok (.vrcp d a)
    | 4 => .ok (.vrsq d a) | 5 => .ok (.vsqrt d a) | 6 => .ok (.vexp2 d a) | 7 => .ok (.vlog2 d a)
    | 8 => .ok (.vsin d a) | 9 => .ok (.vcos d a) | 10 => .ok (.vpopc d a) | 11 => .ok (.vclz d a)
    | 12 => .ok (.vmov d a)
    | _ => .error .reservedSelector
  | 1 => if fld w 7 4 ≠ 0 then .error .nonzeroField else sel (elemTypeOf (fld w 3 0)) fun t => .ok (.vcvt t d a)
  | _ => .error .reservedSelector

/-- Major 0x0D (R327). -/
def decBits (w l : Nat) : Except Reject Instr :=
  let d := fld w 23 16
  let a := fld w 15 8
  let b := fld w 7 0
  match fld w 25 24 with
  | 0 => .ok (.vbfe d a b)
  | 1 => .ok (.vbfi d a b)
  | 2 => needZero a (.vmovi d (sextNat 8 b))
  | _ => needZero (a + b) (.vmoviLiteral d (fld l 31 0))

/-- Major 0x0F, format P (R327, R392). -/
def decPred (w : Nat) : Except Reject Instr :=
  let pd := fld w 21 18
  let pa := fld w 17 14
  let pb := fld w 13 10
  let sd := fld w 9 4
  if fld w 3 0 ≠ 0 then .error .nonzeroField
  else match fld w 25 22 with
  | 0 => needZero sd (.pand pd pa pb)
  | 1 => needZero sd (.por pd pa pb)
  | 2 => needZero sd (.pxor pd pa pb)
  | 3 => needZero (pb + sd) (.pnot pd pa)
  | 4 => needZero (pa + pb) (.pmovPS pd sd)
  | 5 => needZero (pd + pb) (.pmovSP sd pa)
  | 6 => needZero (pd + pb) (.pcnt sd pa)
  | 7 => needZero (pd + pb) (.pffs sd pa)
  | 8 => needZero (pb + sd) (.pmovPP pd pa)
  | _ => .error .reservedSelector

/-- Major 0x10 (R327, R458). -/
def decShuffle (w : Nat) : Except Reject Instr :=
  let d := fld w 23 16
  let a := fld w 15 8
  let k := fld w 7 0
  match fld w 25 24 with
  | 0 => .ok (.vshflIdx d a k)
  | 1 => needZero (fld w 7 5) (.vshflUp d a (fld w 4 0))
  | 2 => needZero (fld w 7 5) (.vshflDown d a (fld w 4 0))
  | _ => needZero (fld w 7 5) (.vshflXor d a (fld w 4 0))

/-- Major 0x11, format AX (R327). -/
def decCross (w : Nat) : Except Reject Instr :=
  let d := fld w 23 16
  let a := fld w 15 8
  match fld w 25 24 with
  | 0 => needZero (fld w 7 5) (.vbcast d a (fld w 4 0))
  | 1 => if fld w 7 4 ≠ 0 then .error .nonzeroField else sel (redOpOf (fld w 3 0)) fun o => .ok (.vred o d a)
  | 2 => if fld w 7 5 ≠ 0 then .error .nonzeroField
         else sel (redOpOf (fld w 3 0)) fun o => .ok (.vscan o (fld w 4 4 = 1) d a)
  | _ => inFile (d < 64 ∧ a < 16) <|
         if fld w 7 2 ≠ 0 then .error .nonzeroField else sel (voteOpOf (fld w 1 0)) fun o => .ok (.vvote o d a)

/-- Major 0x12 (R327, R399). -/
def decQuad (w : Nat) : Except Reject Instr :=
  let d := fld w 23 16
  let a := fld w 15 8
  match fld w 25 24 with
  | 0 => .ok (.qswz d a (fld w 7 0))
  | 1 => needZero (fld w 7 2) (.qbcast d a (fld w 1 0))
  | _ => .error .reservedSelector

/-- Major 0x13 (R327, R456). -/
def decGetPut (w : Nat) : Except Reject Instr :=
  let d := fld w 23 16
  let a := fld w 15 8
  match fld w 25 24 with
  | 0 => inFile (d < 64) (needZero (fld w 7 5) (.vget d a (fld w 4 0)))
  | 1 => inFile (a < 64) (needZero (fld w 7 5) (.vput d a (fld w 4 0)))
  | _ => .error .reservedSelector

/-- Major 0x14, format S (R328). -/
def decScalar (w : Nat) : Except Reject Instr :=
  let d := fld w 25 20
  let a := fld w 19 14
  let b := fld w 13 8
  match fld w 7 0 with
  | 0 => .ok (.sadd d a b) | 1 => .ok (.ssub d a b) | 2 => .ok (.smul d a b) | 3 => .ok (.sand d a b)
  | 4 => .ok (.sor d a b) | 5 => .ok (.sxor d a b) | 6 => .ok (.sshl d a b) | 7 => .ok (.sshr d a b)
  | 8 => .ok (.sshrA d a b) | 9 => .ok (.smin d a b) | 10 => .ok (.smax d a b) | 11 => .ok (.sminU d a b)
  | 12 => .ok (.smaxU d a b)
  | 13 => needZero b (.smov d a)
  | _ => if fld w 7 4 = 2 then sel (sCondOf (fld w 3 0)) fun c => .ok (.scmp c d a b) else .error .reservedSelector

/-- Major 0x16 (R327, R416). -/
def decSli (w l : Nat) : Except Reject Instr :=
  if fld w 19 1 ≠ 0 then .error .nonzeroField
  else if fld w 0 0 = 0 then .ok (.sliLo (fld w 25 20) (fld l 31 0)) else .ok (.sliHi (fld w 25 20) (fld l 31 0))

/-- The operation word of `atom` and `tatom` (R329): its operation, comparand and discard bit. -/
def decAtomWord (l : Nat) (k : AtomOp → Nat → Bool → Except Reject Instr) : Except Reject Instr :=
  if fld l 31 14 ≠ 0 then .error .nonzeroField
  else sel (atomOpOf (fld l 4 0)) fun o =>
    if o ≠ .cas ∧ fld l 12 5 ≠ 0 then .error .nonzeroField else k o (fld l 12 5) (fld l 13 13 = 1)

/-- Majors 0x18, 0x19, 0x1A and 0x1C, format M (R323, R327). -/
def decMem (w l : Nat) : Except Reject Instr :=
  let la := fld w 25 22
  let d := fld w 21 14
  let b := fld w 13 9
  let i := fld w 8 1
  let q := fld w 0 0
  match fld w 28 26 with
  | 0 => needZero q (.ld d b i la)
  | 1 => needZero q (.st b i d la)
  | 2 => if q ≠ 0 then .error .nonzeroField else decAtomWord l fun o vc nd => .ok (.atom o d b i vc nd la)
  | _ => if d = 0 then needZero q (.pf b i la)
         else if d = 1 then (if q = 0 then .ok (.pgreq b i la) else .ok (.pgreqY b i la))
         else .error .reservedSelector

/-- Major 0x1B (R327, R350, R351). -/
def decUniform (w : Nat) : Except Reject Instr :=
  let la := fld w 25 22
  let f := fld w 21 18
  let sa := fld w 17 12
  let sb := fld w 11 6
  let sc := fld w 5 0
  if f > 9 then .error .reservedSelector
  else if sb ≥ 32 then .error .registerField
  else if f = 0 then .ok (.ldu sa sb sc la)
  else if f = 1 then .ok (.stu sb sc sa la)
  else sel (atomOpOf (f - 2)) fun o =>
    if o = .cas ∧ sa % 2 = 1 then .error .registerField else .ok (.atomu o sa sb sc la)

/-- Major 0x1D (R355). -/
def decBrec (w : Nat) : Except Reject Instr :=
  let la := fld w 25 22
  let sa := fld w 17 12
  let sb := fld w 11 6
  let sc := fld w 5 0
  match fld w 21 18 with
  | 0 => inFile (sa < 32) (.ok (.brec sa sb sc la))
  | 1 => inFile (sa < 32 ∧ sb < 32) (.ok (.brecr sa sb sc la))
  | _ => .error .reservedSelector

/-- Major 0x1E (R167). -/
def decOrder (w : Nat) : Except Reject Instr :=
  let la := fld w 25 22
  let sa := fld w 17 12
  let sb := fld w 11 6
  let sc := fld w 5 0
  match fld w 21 18 with
  | 0 => if sb + sc + fld w 17 15 ≠ 0 then .error .nonzeroField else sel (scopeOf (fld w 14 12)) fun x => .ok (.fence x la)
  | 1 => if sb + sc + fld w 17 15 ≠ 0 then .error .nonzeroField else sel (scopeOf (fld w 14 12)) fun x => .ok (.fenceSc x la)
  | 2 => needZero (fld w 17 8) (.qfence (fld w 7 0) la)
  | 3 => needZero (fld w 17 8) (.qwait (fld w 7 0) la)
  | 4 => inFile (sb < 32) (needZero (sa + sc) (.wacq sb la))
  | 5 => inFile (sb < 32) (needZero (sa + sc) (.wrel sb la))
  | _ => .error .reservedSelector

/-- Major 0x1F, format MT (R323, R433). -/
def decTile (w : Nat) : Except Reject Instr :=
  let la := fld w 24 22
  let d := fld w 21 14
  let h := fld w 13 8
  let i := fld w 7 0
  if fld w 25 25 = 0 then .ok (.tld d h i la) else .ok (.tst h i d la)

/-- Major 0x20, format MT with LA in [25:22] (R323, R326, R430). -/
def decTatom (w l : Nat) : Except Reject Instr :=
  decAtomWord l fun o vc nd => .ok (.tatom o (fld w 21 14) (fld w 13 8) (fld w 7 0) vc nd (fld w 25 22))

/-- Major 0x21 (R425). -/
def decTalloc (w : Nat) : Except Reject Instr :=
  let la := fld w 25 22
  let sa := fld w 17 12
  let sb := fld w 11 6
  let sc := fld w 5 0
  match fld w 21 18 with
  | 0 => needZero sc (.talloc sa sb la)
  | 1 => needZero (sb + sc) (.tfree sa la)
  | 2 => needZero sc (.tinfo sa sb la)
  | _ => .error .reservedSelector

/-- Major 0x22 (R327, R341): the count is 1 to 32, or 0 for the .all form. -/
def decBarrier (w : Nat) : Except Reject Instr :=
  if fld w 25 22 ≠ 0 then .error .nonzeroField
  else match fld w 21 18 with
  | 0 => if fld w 17 10 ≠ 0 then .error .nonzeroField
         else if fld w 5 0 > 32 then .error .wideValue else .ok (.bar (fld w 9 6) (fld w 5 0))
  | 1 => needZero (fld w 17 0) .gbar
  | 2 => if fld w 17 10 ≠ 0 then .error .nonzeroField
         else if fld w 5 0 > 32 then .error .wideValue else .ok (.arrive (fld w 9 6) (fld w 5 0))
  | _ => .error .reservedSelector

/-- Major 0x23, format CP with the command word (R206, R208 check 2). -/
def decCpy (w l : Nat) : Except Reject Instr :=
  let size := fld l 31 30
  let conv := fld l 29 27
  let rnd := fld l 26 24
  let done := fld l 19 18
  if size = 3 ∨ conv > 4 ∨ rnd > 4 ∨ done = 3 then .error .reservedSelector
  else if fld l 9 0 ≠ 0 then .error .nonzeroField
  else if done = 0 ∧ fld l 17 12 ≠ 0 then .error .nonzeroField
  else .ok (.cpy ⟨fld w 25 18, fld w 17 10, fld w 9 5, fld w 4 0, size, conv, rnd, fld l 23 23 = 1, fld l 22 20,
    done, fld l 17 12, fld l 11 11 = 1, fld l 10 10 = 1⟩)

/-- Major 0x24 (R215). -/
def decStream (w : Nat) : Except Reject Instr :=
  let la := fld w 25 22
  match fld w 21 18 with
  | 0 => inFile (fld w 5 3 = 0) (.ok (.sattach (fld w 2 0) (fld w 17 12) (fld w 11 6) la))
  | 1 => inFile (fld w 5 3 = 0) (needZero (fld w 17 6) (.qdrop (fld w 2 0) la))
  | _ => .error .reservedSelector

/-- Major 0x25 (R215). -/
def decQpop (w : Nat) : Except Reject Instr :=
  if fld w 25 24 ≠ 0 then .error .reservedSelector
  else if fld w 15 8 ≠ 0 then .error .nonzeroField
  else inFile (fld w 7 3 = 0) (.ok (.qpop (fld w 23 16) (fld w 2 0)))

/-- Majors 0x26 to 0x29 (R189). -/
def decMatrix (w : Nat) : Except Reject Instr :=
  let la := fld w 25 22
  let f := fld w 21 18
  let sa := fld w 17 12
  let sb := fld w 11 6
  let sc := fld w 5 0
  match majorOf w, f with
  | 0x26, 0 => needZero sc (.mma sa sb la)
  | 0x26, 1 => .ok (.mmag sa sb sc la)
  | 0x26, 2 => needZero sb (.mmas sa sc la)
  | 0x27, 0 => needZero (sb + sc) (.mbld sa la)
  | 0x27, 1 => needZero (sb + sc) (.mbldPair sa la)
  | 0x27, 2 => .ok (.mwb sa sb sc la)
  | 0x28, 0 => .ok (.mqnt sa sb sc la)
  | 0x29, 0 => needZero (sb + sc) (.mpair sa la)
  | 0x29, 1 => needZero (sa + sb + sc) (.munpair la)
  | _, _ => .error .reservedSelector

/-- Major 0x2A (R437). -/
def decTask (w : Nat) : Except Reject Instr :=
  let la := fld w 25 22
  let sa := fld w 17 12
  let sb := fld w 11 6
  let sc := fld w 5 0
  match fld w 21 18 with
  | 0 => .ok (.tskpost sa sb sc la)
  | 1 => .ok (.tskdec sa sb sc la)
  | 2 => .ok (.tskadd sa sb sc la)
  | 3 => needZero sc (.tskq sa sb la)
  | _ => .error .reservedSelector

/-- Decode an instruction from its first word and the words that follow it (R321).
Only the words that the instruction's length names are read. -/
def decode (w : Nat) (lits : List Nat) : Except Reject Instr :=
  let l := lits.headD 0
  match majorOf w with
  | 0x00 => decControl w l
  | 0x01 => decBranch w
  | 0x02 => sel (bsCondOf (fld w 19 17)) fun c => .ok (.bs c (fld w 25 20) (sextNat 17 (fld w 16 0)))
  | 0x03 => .ok (.vbr (fld w 25 22) (sextNat 22 (fld w 21 0)) (sextNat 32 (fld l 31 0)))
  | 0x04 =>
    if fld w 25 24 ≠ 0 then .error .reservedSelector
    else if fld w 23 16 = 0 ∨ fld w 23 16 > 8 then .error .reservedSelector
    else if fld w 7 6 ≠ 0 then .error .registerField
    else .ok (.vswitch (fld w 23 16) (fld w 15 8) (fld w 5 0)
      ((List.range (fld w 23 16 + 1)).map fun k => sextNat 32 (fld (lits.getD k 0) 31 0)))
  | 0x05 => decMode w l
  | 0x06 => decSpecial w
  | 0x07 => if fld w 25 18 ≠ 0 then (if fld w 21 18 ≠ 0 then .error .reservedSelector else .error .nonzeroField)
            else needZero (fld w 17 2) (.role (fld w 1 0))
  | 0x08 => decVec w
  | 0x09 => decVec w
  | 0x0A => decVec w
  | 0x0B => decVec w
  | 0x0C => decUnary w
  | 0x0D => decBits w l
  | 0x0E => if fld w 18 16 ≠ 0 then .error .nonzeroField
            else sel (vCondOf (fld w 21 19)) fun c => .ok (.vcmp c (fld w 25 22) (fld w 15 8) (fld w 7 0))
  | 0x0F => decPred w
  | 0x10 => decShuffle w
  | 0x11 => decCross w
  | 0x12 => decQuad w
  | 0x13 => decGetPut w
  | 0x14 => decScalar w
  | 0x15 => needZero (fld w 19 14) (.smovi (fld w 25 20) (sextNat 14 (fld w 13 0)))
  | 0x16 => decSli w l
  | 0x18 => decMem w l
  | 0x19 => decMem w l
  | 0x1A => decMem w l
  | 0x1B => decUniform w
  | 0x1C => decMem w l
  | 0x1D => decBrec w
  | 0x1E => decOrder w
  | 0x1F => decTile w
  | 0x20 => decTatom w l
  | 0x21 => decTalloc w
  | 0x22 => decBarrier w
  | 0x23 => decCpy w l
  | 0x24 => decStream w
  | 0x25 => decQpop w
  | 0x26 => decMatrix w
  | 0x27 => decMatrix w
  | 0x28 => decMatrix w
  | 0x29 => decMatrix w
  | 0x2A => decTask w
  | 0x2B => if fld w 25 18 ≠ 0 then (if fld w 21 18 ≠ 0 then .error .reservedSelector else .error .nonzeroField)
            else needZero (fld w 11 0) (.sigadd (fld w 17 12))
  | _ => .error .reservedMajor

/-- How many literal words follow a first word (R320). The length is decided from the first word alone. -/
def literalCount (w : Nat) : Nat :=
  match majorOf w with
  | 0x00 => if fld w 21 18 = 6 then 1 else 0
  | 0x03 => 1
  | 0x04 => fld w 23 16 + 1
  | 0x05 => 1
  | 0x0D => if fld w 25 24 = 3 then 1 else 0
  | 0x16 => 1
  | 0x1A => 1
  | 0x20 => 1
  | 0x23 => 1
  | _ => 0

/-- The first word alone decides ILLOP (R321): it is no instruction even with literal words of zeros. -/
def firstWordRejected (w : Nat) : Bool :=
  match decode w [] with
  | .ok _ => false
  | .error _ => true

/-- The little-endian words of a list of bytes (R7); a short tail is dropped. -/
def wordsOfBytes : List Nat → List Nat
  | a :: b :: c :: d :: rest => (a % 256 + b % 256 * 256 + c % 256 * 65536 + d % 256 * 16777216) :: wordsOfBytes rest
  | _ => []

/-- Decode the instruction at the front of a list of bytes, and give the bytes after it. -/
def decodeBytes (bs : List Nat) : Except Reject (Instr × List Nat) :=
  match wordsOfBytes bs with
  | [] => .error .truncated
  | w :: ws =>
    if firstWordRejected w then (decode w []).map fun i => (i, bs.drop 4)
    else if ws.length < literalCount w then .error .truncated
    else (decode w ws).map fun i => (i, bs.drop (4 + 4 * literalCount w))

/-- The length of an instruction in bytes (R320). -/
def Instr.length : Instr → Nat
  | .rwp _ => 8
  | .vbr _ _ _ => 8
  | .vswitch n _ _ _ => 4 * (n + 2)
  | .mode _ _ => 8
  | .vmoviLiteral _ _ => 8
  | .sliLo _ _ => 8
  | .sliHi _ _ => 8
  | .atom _ _ _ _ _ _ _ => 8
  | .tatom _ _ _ _ _ _ _ => 8
  | .cpy _ => 8
  | _ => 4

/-- Format A: major, F, VD, VA, VB. -/
def encA (maj f d a b : Nat) : Nat := maj * 2 ^ 26 + f * 2 ^ 24 + d * 2 ^ 16 + a * 2 ^ 8 + b
/-- Format MX: major, LA, F, SA, SB, SC. -/
def encMX (maj la f sa sb sc : Nat) : Nat := maj * 2 ^ 26 + la * 2 ^ 22 + f * 2 ^ 18 + sa * 2 ^ 12 + sb * 2 ^ 6 + sc
/-- Format S: major, SD, SA, SB, SF. -/
def encS (maj sd sa sb sf : Nat) : Nat := maj * 2 ^ 26 + sd * 2 ^ 20 + sa * 2 ^ 14 + sb * 2 ^ 8 + sf
/-- Format SI: major, SD, SA, IMM14. -/
def encSI (maj sd sa imm : Nat) : Nat := maj * 2 ^ 26 + sd * 2 ^ 20 + sa * 2 ^ 14 + imm
/-- Format P: major 0x0F, F, PD, PA, PB, SD. -/
def encP (f pd pa pb sd : Nat) : Nat := 0x0F * 2 ^ 26 + f * 2 ^ 22 + pd * 2 ^ 18 + pa * 2 ^ 14 + pb * 2 ^ 10 + sd * 2 ^ 4
/-- Format M: major, LA, VD, BK, VI, Q. -/
def encM (maj la d b i q : Nat) : Nat := maj * 2 ^ 26 + la * 2 ^ 22 + d * 2 ^ 14 + b * 2 ^ 9 + i * 2 + q
/-- Format MT: major, LA, VD, SH, VI. -/
def encMT (maj la d h i : Nat) : Nat := maj * 2 ^ 26 + la * 2 ^ 22 + d * 2 ^ 14 + h * 2 ^ 8 + i
/-- The operation word of the atomics (R329). -/
def encAtomWord (o : AtomOp) (vc : Nat) (nd : Bool) : Nat := atomOpCode o + vc * 2 ^ 5 + nd.toNat * 2 ^ 13

/-- The words of an instruction; an event has none. -/
def encode : Instr → List Nat
  | .nop => [encMX 0 0 0 0 0 0]
  | .exit => [encMX 0 0 1 0 0 0]
  | .yield => [encMX 0 0 2 0 0 0]
  | .trap a => [encMX 0 0 3 a 0 0]
  | .brkpt => [encMX 0 0 4 0 0 0]
  | .eret a => [encMX 0 0 5 a 0 0]
  | .rwp r => [6 * 2 ^ 18 + r.sgrp * 2 ^ 16 + r.vgrp * 2 ^ 12 + unsext 12 r.roff, r.smask * 2 ^ 16 + r.vmask]
  | .join => [encMX 0 0 7 0 0 0]
  | .ret a => [encMX 0 0 8 a 0 0]
  | .jmpr a => [encMX 0 0 9 a 0 0]
  | .qhelpOn => [encMX 0 0 10 0 0 1]
  | .qhelpOff => [encMX 0 0 10 0 0 0]
  | .bra o => [0x01 * 2 ^ 26 + unsext 24 o]
  | .call o => [0x01 * 2 ^ 26 + 2 ^ 24 + unsext 24 o]
  | .bs c a o => [0x02 * 2 ^ 26 + a * 2 ^ 20 + bsCondCode c * 2 ^ 17 + unsext 17 o]
  | .vbr p o rc => [0x03 * 2 ^ 26 + p * 2 ^ 22 + unsext 22 o, unsext 32 rc]
  | .vswitch n va sb tbl => encA 0x04 0 n va sb :: tbl.map (unsext 32)
  | .mode s v => if s = 0 then [encSI 0x05 0 0 0, v] else [encSI 0x05 s 0 v, 0]
  | .modex s a => [encS 0x06 s a 0 0]
  | .sregS d id => [encS 0x06 d 0 id 1]
  | .sregV d id => [0x06 * 2 ^ 26 + d * 2 ^ 14 + id * 2 ^ 8 + 2]
  | .mfmt a => [encS 0x06 0 a 0 3]
  | .role n => [encMX 0x07 0 0 0 0 n]
  | .vadd d a b => [encA 0x08 0 d a b]
  | .vsub d a b => [encA 0x08 1 d a b]
  | .vmul d a b => [encA 0x08 2 d a b]
  | .vmin d a b => [encA 0x08 3 d a b]
  | .vmax d a b => [encA 0x09 0 d a b]
  | .vfma d a b => [encA 0x09 1 d a b]
  | .vfms d a b => [encA 0x09 2 d a b]
  | .vdiv d a b => [encA 0x09 3 d a b]
  | .vand d a b => [encA 0x0A 0 d a b]
  | .vor d a b => [encA 0x0A 1 d a b]
  | .vxor d a b => [encA 0x0A 2 d a b]
  | .vshl d a b => [encA 0x0A 3 d a b]
  | .vshr d a b => [encA 0x0B 0 d a b]
  | .vmulhi d a b => [encA 0x0B 1 d a b]
  | .vdot4 d a b => [encA 0x0B 2 d a b]
  | .vsel d a b => [encA 0x0B 3 d a b]
  | .vabs d a => [encA 0x0C 0 d a 0]
  | .vneg d a => [encA 0x0C 0 d a 1]
  | .vnot d a => [encA 0x0C 0 d a 2]
  | .vrcp d a => [encA 0x0C 0 d a 3]
  | .vrsq d a => [encA 0x0C 0 d a 4]
  | .vsqrt d a => [encA 0x0C 0 d a 5]
  | .vexp2 d a => [encA 0x0C 0 d a 6]
  | .vlog2 d a => [encA 0x0C 0 d a 7]
  | .vsin d a => [encA 0x0C 0 d a 8]
  | .vcos d a => [encA 0x0C 0 d a 9]
  | .vpopc d a => [encA 0x0C 0 d a 10]
  | .vclz d a => [encA 0x0C 0 d a 11]
  | .vmov d a => [encA 0x0C 0 d a 12]
  | .vcvt t d a => [encA 0x0C 1 d a (elemTypeCode t)]
  | .vbfe d a b => [encA 0x0D 0 d a b]
  | .vbfi d a b => [encA 0x0D 1 d a b]
  | .vmovi d imm => [encA 0x0D 2 d 0 (unsext 8 imm)]
  | .vmoviLiteral d l => [encA 0x0D 3 d 0 0, l]
  | .vcmp c p a b => [0x0E * 2 ^ 26 + p * 2 ^ 22 + vCondCode c * 2 ^ 19 + a * 2 ^ 8 + b]
  | .pand d a b => [encP 0 d a b 0]
  | .por d a b => [encP 1 d a b 0]
  | .pxor d a b => [encP 2 d a b 0]
  | .pnot d a => [encP 3 d a 0 0]
  | .pmovPS d sa => [encP 4 d 0 0 sa]
  | .pmovSP sd a => [encP 5 0 a 0 sd]
  | .pcnt sd a => [encP 6 0 a 0 sd]
  | .pffs sd a => [encP 7 0 a 0 sd]
  | .pmovPP d a => [encP 8 d a 0 0]
  | .vshflIdx d a b => [encA 0x10 0 d a b]
  | .vshflUp d a k => [encA 0x10 1 d a k]
  | .vshflDown d a k => [encA 0x10 2 d a k]
  | .vshflXor d a k => [encA 0x10 3 d a k]
  | .vbcast d a l => [encA 0x11 0 d a l]
  | .vred o d a => [encA 0x11 1 d a (redOpCode o)]
  | .vscan o e d a => [encA 0x11 2 d a (e.toNat * 16 + redOpCode o)]
  | .vvote o d a => [encA 0x11 3 d a (voteOpCode o)]
  | .qswz d a i => [encA 0x12 0 d a i]
  | .qbcast d a k => [encA 0x12 1 d a k]
  | .vget d a l => [encA 0x13 0 d a l]
  | .vput d a l => [encA 0x13 1 d a l]
  | .sadd d a b => [encS 0x14 d a b 0]
  | .ssub d a b => [encS 0x14 d a b 1]
  | .smul d a b => [encS 0x14 d a b 2]
  | .sand d a b => [encS 0x14 d a b 3]
  | .sor d a b => [encS 0x14 d a b 4]
  | .sxor d a b => [encS 0x14 d a b 5]
  | .sshl d a b => [encS 0x14 d a b 6]
  | .sshr d a b => [encS 0x14 d a b 7]
  | .sshrA d a b => [encS 0x14 d a b 8]
  | .smin d a b => [encS 0x14 d a b 9]
  | .smax d a b => [encS 0x14 d a b 10]
  | .sminU d a b => [encS 0x14 d a b 11]
  | .smaxU d a b => [encS 0x14 d a b 12]
  | .smov d a => [encS 0x14 d a 0 13]
  | .scmp c d a b => [encS 0x14 d a b (0x20 + sCondCode c)]
  | .smovi d i => [encSI 0x15 d 0 (unsext 14 i)]
  | .sliLo d l => [encSI 0x16 d 0 0, l]
  | .sliHi d l => [encSI 0x16 d 0 1, l]
  | .ld d b i la => [encM 0x18 la d b i 0]
  | .st b i x la => [encM 0x19 la x b i 0]
  | .atom o d b i vc nd la => [encM 0x1A la d b i 0, encAtomWord o vc nd]
  | .ldu a b c la => [encMX 0x1B la 0 a b c]
  | .stu b c a la => [encMX 0x1B la 1 a b c]
  | .atomu o a b c la => [encMX 0x1B la (atomOpCode o + 2) a b c]
  | .pf b i la => [encM 0x1C la 0 b i 0]
  | .pgreq b i la => [encM 0x1C la 1 b i 0]
  | .pgreqY b i la => [encM 0x1C la 1 b i 1]
  | .brec d a b la => [encMX 0x1D la 0 d a b]
  | .brecr d a c la => [encMX 0x1D la 1 d a c]
  | .fence sc la => [encMX 0x1E la 0 (scopeCode sc) 0 0]
  | .fenceSc sc la => [encMX 0x1E la 1 (scopeCode sc) 0 0]
  | .qfence m la => [encMX 0x1E la 2 0 0 0 + m]
  | .qwait m la => [encMX 0x1E la 3 0 0 0 + m]
  | .wacq n la => [encMX 0x1E la 4 0 n 0]
  | .wrel n la => [encMX 0x1E la 5 0 n 0]
  | .tld d h i la => [encMT 0x1F la d h i]
  | .tst h i x la => [encMT 0x1F (8 + la) x h i]
  | .tatom o d h i vc nd la => [encMT 0x20 la d h i, encAtomWord o vc nd]
  | .talloc d a la => [encMX 0x21 la 0 d a 0]
  | .tfree a la => [encMX 0x21 la 1 a 0 0]
  | .tinfo d h la => [encMX 0x21 la 2 d h 0]
  | .bar n k => [encMX 0x22 0 0 0 n k]
  | .gbar => [encMX 0x22 0 1 0 0 0]
  | .arrive n k => [encMX 0x22 0 2 0 n k]
  | .cpy c => [0x23 * 2 ^ 26 + c.vsrc * 2 ^ 18 + c.vdst * 2 ^ 10 + c.bsrc * 2 ^ 5 + c.bdst,
      c.size * 2 ^ 30 + c.conv * 2 ^ 27 + c.rnd * 2 ^ 24 + c.sat.toNat * 2 ^ 23 + c.queue * 2 ^ 20 + c.done * 2 ^ 18
        + c.scont * 2 ^ 12 + c.stile.toNat * 2 ^ 11 + c.dtile.toNat * 2 ^ 10]
  | .sattach n a b la => [encMX 0x24 la 0 a b n]
  | .qdrop n la => [encMX 0x24 la 1 0 0 n]
  | .qpop d n => [encA 0x25 0 d 0 n]
  | .mma a b la => [encMX 0x26 la 0 a b 0]
  | .mmag a b c la => [encMX 0x26 la 1 a b c]
  | .mmas a c la => [encMX 0x26 la 2 a 0 c]
  | .mbld a la => [encMX 0x27 la 0 a 0 0]
  | .mbldPair a la => [encMX 0x27 la 1 a 0 0]
  | .mwb a b c la => [encMX 0x27 la 2 a b c]
  | .mqnt a b c la => [encMX 0x28 la 0 a b c]
  | .mpair d la => [encMX 0x29 la 0 d 0 0]
  | .munpair la => [encMX 0x29 la 1 0 0 0]
  | .tskpost d h o la => [encMX 0x2A la 0 d h o]
  | .tskdec d n k la => [encMX 0x2A la 1 d n k]
  | .tskadd d n k la => [encMX 0x2A la 2 d n k]
  | .tskq d n la => [encMX 0x2A la 3 d n 0]
  | .sigadd a => [encMX 0x2B 0 0 a 0 0]
  | _ => []

/-- The bytes of a word, little-endian (R7). -/
def bytesOfWord (w : Nat) : List Nat := [w % 256, w / 256 % 256, w / 65536 % 256, w / 16777216 % 256]

/-- The longest instruction: `vswitch` with eight partitions, ten words (R320). -/
def maxWords : Nat := 10

/-- An instruction given as one number whose bit 0 is bit 0 of the first word, cut into words; every bit at or above nbits is zero. -/
def tableWords (nbits w : Nat) : List Nat :=
  (List.range maxWords).map fun k => w % 2 ^ nbits / 2 ^ (32 * k) % 2 ^ 32

/-- The instruction the decoder reads from bits numbered as the opcode table numbers them. -/
def decodeTableWord (nbits w : Nat) : Option Instr :=
  match decodeBytes ((tableWords nbits w).flatMap bytesOfWord) with
  | .ok (i, _) => some i
  | .error _ => none

end Sys2Proof
end

