-- ==== Sys2Proof/Machine/Order.lean ====
section
/-! DEFINITION. Fences, copy-queue ordering and window ordering (R165 to R170, R179, R180, R365, R401, R402, R460, R461). -/

set_option Elab.async false

namespace Sys2Proof.Machine

/-- The largest timestamp a warp holds over the four dies. -/
def Warp.maxPts (w : Warp) : Nat := [0, 1, 2, 3].foldl (fun m d => max m (Tbl.get w.pts d).toNat) 0

/-- The package-scope join of a warp's clocks with GSC (R180); times stay below 2^40 (log entry 16). -/
def State.scJoin (s : State) (wid : Nat) : State :=
  let t := BitVec.ofNat 40 (min (2 ^ 40 - 1) (max s.gsc.toNat (s.warpOf wid).maxPts + 1))
  { s with gsc := t }.updWarp wid fun w => { w with pts := [0, 1, 2, 3].foldl (fun a d => Tbl.set a d t) [] }

/-! Program order at the home slices (R163, R164, R170, R177) -/

/-- A prefetch returns nothing and orders nothing. -/
def LineReq.isPf (r : LineReq) : Bool := r.kind == 0 && r.pend.isNone && r.eng.isNone

/-- Two requests are of one agent: a warp, or a queue of an engine (R164, R169, R270). -/
def LineReq.sameAgent (q r : LineReq) : Bool :=
  match q.eng, r.eng with
  | none, none => q.wid == r.wid
  | some a, some b => a.sameQueue b
  | _, _ => false

/-- A request comes before another one in their agent's program order. -/
def LineReq.precedes (q r : LineReq) : Bool := q.sameAgent r && (q.ord < r.ord || (q.ord == r.ord && q.id < r.id))

/-- The requests that come before a request in its warp's program order. -/
def State.earlierReqs (s : State) (r : LineReq) : List LineReq := s.mm.reqs.filter fun q => q.precedes r

/-- Write-backs of the warp that come before a request, stand in a matrix queue still, and store to a line with a property (R199). -/
def State.matsBefore (s : State) (r : LineReq) (p : Nat → Bool) : List Nat := ((s.queuedMats r.wid r.ord).filter fun m => m.storesTo p).map (·.id)

/-- Earlier accesses of the warp to the same home die that are not complete (R163, R177). -/
def State.openBefore (s : State) (r : LineReq) : List Nat :=
  let d := homeDie (r.line * 256)
  if r.ordered then ((s.earlierReqs r).filter fun q => q.ordered && homeDie (q.line * 256) == d).map (·.id) ++ s.matsBefore r (onDie d) else []

/-- The active route entry for a package in a table (R305). -/
def State.route (s : State) (table x : Nat) : Nat := (Tbl.get s.fab.active (table * 2 ^ 16 + x)).toNat

/-- The injection entry of a package uses the adaptive class (R305). -/
def State.adaptive (s : State) (x : Nat) : Bool := bitOf (s.route 16 x) 21

/-- No earlier access of the warp forbids performing this one at its home now (R163, R164, R170): a load passes earlier accesses to other lines and is tested again when it answers (R177); a store or atomic passes stores and atomics that are performed, and takes its time after theirs. -/
def State.orderAllows (s : State) (r : LineReq) : Bool :=
  let before := s.earlierReqs r
  let sameLine := before.filter fun q => q.line == r.line && !q.isPf
  let d := homeDie (r.line * 256)
  if spaRemote (r.line * 256) then
    if s.adaptive (linePkg r.line) then sameLine.isEmpty
    else before.all fun q => !(spaRemote (q.line * 256) && linePkg q.line == linePkg r.line && farDie q.line == farDie r.line) || q.stage == 2
  else if r.win then sameLine.all fun q => q.stage == 2
  else if r.kind = 0 then (sameLine.all fun q => q.kind == 0 || q.stage == 2) && (s.matsBefore r (· == r.line)).isEmpty
  else (before.all fun q => !(q.ordered && homeDie (q.line * 256) == d) || (q.kind != 0 && q.stage == 2)) && (s.matsBefore r (onDie d)).isEmpty

/-- The timestamp an access carries to another package's home: its warp's, or that of its engine's queue (R176, R250). -/
def State.farPts (s : State) (r : LineReq) : BitVec 40 := if r.eng.isSome then r.engPts else Tbl.get (s.warpOf r.wid).pts (farDie r.line)

/-- The timestamp a warp carries for a die; 0 when it is gone. -/
def State.agentPts (s : State) (wid d : Nat) : BitVec 40 := Tbl.get (s.warpOf wid).pts d

/-- The time that a store or atomic carries to its home: its warp's, raised to those of its earlier stores and atomics to the die that are performed and not acknowledged yet, whose order it keeps (R163, R176). -/
def State.reqPts (s : State) (r : LineReq) : BitVec 40 :=
  let d := homeDie (r.line * 256)
  ((s.earlierReqs r).filter fun q => q.ordered && r.ordered && homeDie (q.line * 256) == d && q.kind != 0 && q.stage == 2).foldl
    (fun t q => if t.toNat < q.wts.toNat then q.wts else t) (s.agentPts r.wid d)

/-- A load whose tag was checked can reach its home now, so a KIND 2 write to its line waits for it: data and tag change together, and a load that races sees both old or both new (R123). -/
def State.probesOn (s : State) (line : Nat) (p : LineReq → Bool) : Bool :=
  s.mm.reqs.any fun q => q.line == line && q.stage == 0 && q.kind == 0 && !q.isPf && q.eng.isNone && p q && s.orderAllows q && !s.reqHeld q

/-! Ports (R305, R306, R309, R311) -/

/-- A port is up. -/
def State.portUp (s : State) (k : Nat) : Bool := s.regBits Config.pf blkFabric (fabOff k + 0x8100) 1 0 == 2

/-- A flit is of the adaptive class. -/
def adaptiveFlit (f : Flit) : Bool := f.chan == 2 || f.chan == 3
/-- A flit is a request, which carries a partition key (R309). -/
def requestFlit (f : Flit) : Bool := f.chan == 0 || f.chan == 2 || f.chan == 4

/-- A flit on a channel of class 0, to which an adaptive one escapes (R306). -/
def classZero (f : Flit) : Flit := if adaptiveFlit f then { f with chan := f.chan - 2 } else f

/-- The port a flit leaves on by an entry, and the flit (R306): a flit of class 0 on the ordered port; an adaptive one on an up port among the candidates, or on the ordered port where none is up, or, where every candidate is blocked, on a class-0 channel of the ordered port. How much a port is loaded, and whether it is blocked, is time (log entries 1 and 30). -/
def State.outPort (s : State) (entry : Nat) (f : Flit) : Nat × Flit × State :=
  let ups := (List.range 16).filter fun k => bitOf entry k && s.portUp k
  let ord := bits entry 19 16
  if adaptiveFlit f && !ups.isEmpty then
    let (i, s1) := s.choose (ups.length + if s.portUp ord then 1 else 0)
    match ups[i]? with
    | some k => (k, f, s1)
    | none => (ord, classZero f, s1)
  else (ord, f, s)

/-- Put a flit on a port's link, or hold it where the port is not up (R311). The table that routed it is kept, for a later commit. -/
def State.putFlit (s : State) (table port : Nat) (f : Flit) : State :=
  if s.portUp port then { s with fab := { s.fab with sent := s.fab.sent ++ [(table * 16 + port, f)] } }
  else { s with fab := { s.fab with heldFlits := s.fab.heldFlits ++ [(s.fab.nextFlit, table * 16 + port, f, s.now)], nextFlit := s.fab.nextFlit + 1 } }

/-- Count a refused packet at a table (R309): keys in [31:0], routes in [63:32]. -/
def State.countRefused (s : State) (table cause : Nat) : State :=
  let o := fabOff table + 0x8108
  let x := (s.reg Config.pf blkFabric o).toNat
  s.setReg Config.pf blkFabric o (BitVec.ofNat 64
    (if cause = 6 then min (2 ^ 32 - 1) (x % 2 ^ 32 + 1) + x / 2 ^ 32 * 2 ^ 32 else x % 2 ^ 32 + min (2 ^ 32 - 1) (x / 2 ^ 32 + 1) * 2 ^ 32))

/-- A package has a valid entry in a table (R305). -/
def State.routed (s : State) (table x : Nat) : Bool := bitOf (s.route table x) 20

/-- Send a flit from this package by the injection table; without a valid entry it is dropped and counted (R305, R306, R309). -/
def State.sendOut (s : State) (f : Flit) : State :=
  if !s.routed 16 f.dest then s.countRefused 16 7
  else
    let (port, f1, s1) := s.outPort (s.route 16 f.dest) f
    s1.putFlit 16 port f1

/-! The schedule of R296 -/

/-- The owner of the time slot in force. -/
def State.slotOwner (s : State) : Option Nat := AL.get? s.tdm (s.now / 32 % 64)

/-- No clock of the schedule is open to PF and management traffic but the first of a slot: every slot has a STRICT owner. -/
def State.tdmClosed (s : State) : Bool := (List.range 64).all fun i => (AL.get? s.tdm i).any s.partStrict

/-- A function's request may be served now at a resource, where `waits` tells the partitions with a request waiting there (R296): in its partition's slot, or in a clock that the owner gives up. Which of the others goes first in such a clock is a free choice (log entry 1). -/
def State.tdmTakes (s : State) (fn : Nat) (waits : Nat → Bool) : Bool :=
  let strict := fn < Config.vfs && s.partStrict (s.partD fn)
  match s.slotOwner with
  | some o =>
    if fn < Config.vfs && s.partD fn == o then true
    else if Config.vfs ≤ fn && s.now % 32 == 0 && s.tdmClosed then true
    else !strict && !s.partStrict o && !waits o
  | none => !strict

/-- A partition has a line request waiting at a slice. -/
def State.sliceWaits (s : State) (k o : Nat) : Bool :=
  s.mm.reqs.any fun q => q.stage == 0 && s.partD q.vf == o && !spaRemote (q.line * 256) && s.homeSlice q.dom (q.line * 256) == k

/-- A partition has a line request waiting for the port that leads to a package. -/
def State.portWaits (s : State) (x o : Nat) : Bool :=
  s.mm.reqs.any fun q => q.stage == 0 && s.partD q.vf == o && spaRemote (q.line * 256) &&
    bits (s.route 16 (linePkg q.line)) 19 16 == bits (s.route 16 x) 19 16

/-- The schedule lets an access of a function to a line of a domain go on now, at the line's slice or at the port that leads to its package (R296). -/
def State.tdmAllows (s : State) (fn dom line : Nat) : Bool :=
  s.tdmTakes fn fun o => if spaRemote (line * 256) then s.portWaits (linePkg line) o else s.sliceWaits (s.homeSlice dom (line * 256)) o

/-! Order-point tickets (R180, R310) -/

/-- The issued `fence.sc` that waits for a ticket: its warp, and itself. -/
def State.ticketSlow (s : State) (id : Nat) : Option (Nat × Slow) :=
  s.warps.findSome? fun e => (e.2.slow.find? fun x => x.wait == .ticket id).map fun x => (e.1, x)

/-- An issued instruction's terminal trap, after its path has gone on (R277). -/
def State.slowTrap (s : State) (wid : Nat) (x : Slow) (code : Nat) (ti : TermInfo) : State :=
  s.trapAt wid x.pathB code x.xpc ((s.warpOf wid).path x.pathB).pc 0 ti

/-- A ticket request that a table refuses ends in a terminal ACCESS trap (R309, R311). -/
def State.ticketRefused (s : State) (id cause : Nat) : State :=
  match s.ticketSlow id with
  | some (k, x) => s.slowTrap k x tcAccess ⟨cause, 0, 0, false, none, none⟩
  | none => s

/-- Ask for an order-point ticket (R180, R310). -/
def State.askTicket (s : State) (vf id : Nat) : State :=
  if s.ordpt = s.pkgid then { s with agenda := s.agenda ++ [.scTicketRequest s.pkgid id] }
  else
    let s1 := s.sendOut ⟨s.pkgid, s.ordpt, s.pkey vf, 4, 0, [], 0, id, 0, none⟩
    if s.routed 16 s.ordpt then s1 else s1.ticketRefused id 7

/-! Fences (R165, R166, R180, R365) -/

/-- Change an issued instruction that waits. -/
def Warp.updSlow (w : Warp) (id : Nat) (f : Slow → Slow) : Warp := { w with slow := w.slow.map fun x => if x.id = id then f x else x }

/-- A fence of a warp has met its condition: `fence.sc` joins the clocks, at system scope with a ticket (R180), and the instruction is complete. -/
def State.fenceMeets (s : State) (wid id scope : Nat) (sc : Bool) : State :=
  if sc && scope == 4 then
    let (t, s1) := s.fresh
    (s1.updWarp wid fun w => w.updSlow id fun x => { x with wait := .ticket t }).askTicket (s.blockOf (s.warpOf wid).bid).vf t
  else (if sc && scope == 3 then s.scJoin wid else s).updWarp wid fun w => w.endSlow id

/-- A fence issues (R165): accesses after it wait for it; in tenon and dowel runs it orders nothing (R233). -/
def State.fenceIssue (s : State) (scope la : Nat) (sc : Bool) : State :=
  if s.checkRun then s.advance 4
  else
    let (a, b, c) := s.fenceNeeds s.cur scope
    if !s.fenceDone s.cur a b c then
      let (id, s1) := s.fresh
      s1.issueSlow id la 0 (.fence a b c) (.fence scope sc) 4
    else if sc && scope == 4 then
      let (id, s1) := s.fresh
      (s1.issueSlow id la 0 (.fence [] [] []) (.fence scope sc) 4).fenceMeets s.cur id scope sc
    else (if sc && scope == 3 then s.scJoin s.cur else s).advance 4

/-- `fence` (R165, R365). -/
def execFence (sc : Scope) (la : Nat) (s : State) : Host.Outcome State Fault Refusal := .next (s.fenceIssue (scopeCode sc) la false)

/-- `fence.sc` (R166, R180, R365): at system scope the grant of the ticket performs the join. -/
def execFenceSc (sc : Scope) (la : Nat) (s : State) : Host.Outcome State Fault Refusal := .next (s.fenceIssue (scopeCode sc) la true)

/-- Queues of a mask. -/
def queuesOf (m : Nat) : List Nat := (List.range 8).filter fun q => bitOf m q

/-- A copy queue of a block. -/
def Block.queue (b : Block) (q : Nat) : CopyQueue := (AL.get? b.queues q).getD ⟨[], none, none, [], [], []⟩

/-- Entries of the named queues. -/
def Block.entriesOf (b : Block) (qs : List Nat) : List CopyEntry := qs.flatMap fun q => (b.queue q).entries

/-- Times of the completed entries of the named queues (R179). -/
def Block.endedPts (b : Block) (qs : List Nat) : Tbl 40 := qs.foldl (fun t q => joinPts t (b.queue q).ended) []

/-- `qfence` (R168, R179, R401): entries enqueued later wait for those that a former `qfence` names, too. -/
def execQfence (m _la : Nat) (s : State) : Host.Outcome State Fault Refusal :=
  .next (if s.checkRun then s.advance 4
    else
      let qs := queuesOf m
      let ids := (s.blk.entriesOf qs).map (·.id)
      let ended := s.blk.endedPts qs
      (s.modB fun b => { b with queues := qs.foldl (fun t q =>
        let c := b.queue q
        AL.put t q { c with fence := sortNub (c.fence ++ ids), pts := joinPts c.pts ended }) b.queues }).advance 4)

/-- The TERM record of a faulted queue is the task's, if none has been sent before (R212, R280). -/
def State.sendFault (s : State) (b : Block) (f : Nat × VAddr) : State :=
  match b.queues.findSome? fun q => if q.2.faulted = some f then q.2.faultRec else none with
  | some r => if s.taskLive b.vf b.task then s.termOnce b.vf b.task r else s
  | none => s

/-- The trap of a faulted queue: its terminal code, with XPC naming the `cpy` (R212, R401). -/
def State.queueTrap (s : State) (f : Nat × VAddr) : State :=
  (s.sendFault s.blk f).trapAt s.cur s.curB f.1 f.2 s.path.pc 0 TermInfo.none

/-- The first faulted queue of a mask, as its trap names it. -/
def Block.faultOf (b : Block) (m : Nat) : Option (Nat × VAddr) := (queuesOf m).findSome? fun q => (b.queue q).faulted

/-- `qwait` (R168, R179, R401, R402): the warp takes the times of the entries that have completed, and of each awaited entry when it completes. -/
def execQwait (m la : Nat) (s : State) : Host.Outcome State Fault Refusal :=
  .next (if s.checkRun then s.advance 4
    else
      let qs := queuesOf m
      let ids := (s.blk.entriesOf qs).map (·.id)
      match s.blk.faultOf m with
      | some f => s.queueTrap f
      | none =>
        let s1 := s.modW fun w => { w with pts := joinPts w.pts (s.blk.endedPts qs) }
        if ids.isEmpty then s1.advance 4
        else
          let (id, s2) := s1.fresh
          s2.issueSlow id la 0 (.copies ids) (.qwait m) 4)

/-! Windows (R170, R460, R461) -/

/-- A copy entry writes a window, or has a destination page whose domain is not known yet; log entry 19. -/
def State.copyWrites (s : State) (c : CopyEntry) (dom : Nat) : Bool :=
  c.dst.any fun l => !l.tile && match (s.translate s.blk.core s.blk.vf l.addr).1 with
    | .ok _ _ _ win _ d => win && d == dom
    | .nonres .. => true
    | _ => false

/-- Accesses of the issuing warp to a window that are not performed, loads alone or all: line requests, and write-backs that stand in a matrix queue. -/
def State.windowReqs (s : State) (dom : Nat) (loads : Bool) : List Nat :=
  (s.mm.reqs.filter fun r => r.wid == s.cur && r.win && r.dom == dom && r.stage != 2 && !r.isPf && (!loads || r.kind == 0)).map (·.id) ++
  (if loads then [] else ((s.queuedMats s.cur s.nextId).filter fun m => m.elems.any fun e => e.2.2.2 && (s.fotOf (e.2.1 / 4096)).owner == dom).map (·.id))

/-- The checks of `wacq` and `wrel` in order, and then their wait (R170, R460). -/
def State.windowOp (s : State) (n la : Nat) (op : Nat → SlowOp) (needs : Nat → List Nat × List Nat) : State :=
  let r := s.rB n
  let va := recBase r
  if badRecord n r (s.rB (n + 1)) then s.trap tcBounds 0
  else
    let (w, s1) := s.translate s.blk.core s.blk.vf va
    match w with
    | .ok _ _ _ win _ dom =>
      if !win then s1.trap tcWindow va
      else if s1.checkRun then s1.advance 4
      else
        let (rs, cs) := needs dom
        if rs.isEmpty && cs.isEmpty then s1.advance 4
        else
          let (id, s2) := s1.fresh
          s2.issueSlow id la 0 (.both rs cs) (op dom) 4
    | .nonres .. =>
      if s1.checkRun then s1.advance 4
      else match s1.raise (dieOf s1.blk.core) s1.blk.core s1.blk.vf s1.blk.task va 1 false w with
        | (some e, s2) => s2.wait (.sleepPage [e] none true)
        | (none, s2) => s2.wait (.operandWait (.mergeFree (dieOf s2.blk.core)))
    | _ => s1.denyTrap va false w

/-- `wacq` (R170, R460). -/
def execWacq (n la : Nat) (s : State) : Host.Outcome State Fault Refusal :=
  .next (s.windowOp n la .wacq fun dom => (s.windowReqs dom true, []))

/-- `wrel` (R170, R460). -/
def execWrel (n la : Nat) (s : State) : Host.Outcome State Fault Refusal :=
  .next (s.windowOp n la .wrel fun dom =>
    (s.windowReqs dom false, ((s.blk.entriesOf (List.range 8)).filter fun c => c.wid == s.cur && s.copyWrites c dom).map (·.id)))

end Sys2Proof.Machine
end

