-- ==== Sys2Proof/Machine/Copy.lean ====
section
/-! DEFINITION. The copy engine: `cpy` at issue, line transfers, completion and stops (R206 to R213, R360, R361). -/

set_option Elab.async false

namespace Sys2Proof.Machine

/-! Issue (R207, R208) -/

/-- Widths of the two sides (R207). -/
def cpyWs (c : CpyArgs) : Nat := if c.conv = 3 ∨ c.conv = 4 then 4 * 2 ^ c.size / 2 else 4 * 2 ^ c.size
def cpyWd (c : CpyArgs) : Nat := if c.conv = 1 ∨ c.conv = 2 then 4 * 2 ^ c.size / 2 else 4 * 2 ^ c.size

/-- The literal word of a `cpy` (R206). -/
def cpyLit (c : CpyArgs) : Word := BitVec.ofNat 32 ((encode (.cpy c)).getD 1 0)

/-- A lane's place on one side, or none where it is out of range (R207). -/
def State.cpyLane (s : State) (tile : Bool) (b v w lane : Nat) : Option CopyLoc :=
  let i := (s.rV v lane).toNat
  if tile then
    match s.blk.tile? (s.rS b).toNat with
    | some t => if i * w + w ≤ tileBytes t.desc then some ⟨true, (s.rS b).toNat, i * w⟩ else none
    | none => none
  else match linearLane (s.rB b) i with
    | .mem a => some ⟨false, 0, a⟩
    | _ => none

/-- The 32 lanes of one side. -/
def State.cpySide (s : State) (tile : Bool) (b v w : Nat) : List (Option CopyLoc) := (List.range 32).map (s.cpyLane tile b v w)

/-- The lowest misaligned memory address of a side. -/
def cpyMisaligned (l : List CopyLoc) (w : Nat) : Option Nat := (l.find? fun c => !c.tile && c.addr % w != 0).map (·.addr)

/-- The address that ALIGN names: that of the lowest lane with a misaligned side (R122, R208 check 5). -/
def cpyAlign (src : List CopyLoc) (ws : Nat) (dst : List CopyLoc) (wd : Nat) : Option Nat :=
  (src.zip dst).findSome? fun (a, d) => (cpyMisaligned [a] ws).or (cpyMisaligned [d] wd)

/-- A side's record is malformed or of KIND 1, for a memory side (R208 check 4). -/
def State.cpyBadRec (s : State) (tile : Bool) (b : Nat) : Bool := !tile && (recMalformed (s.rB b) || recKind (s.rB b) == 1)

/-- The first violation of purity, lane by lane, source before destination (R265). -/
def cpyViol (t : Task) (src dst : List CopyLoc) : Option Nat :=
  (src.zip dst).findSome? fun (a, d) =>
    if !a.tile && !inRanges (t.regions false ++ t.regions true) a.addr then some a.addr
    else if !d.tile && !inRanges (t.regions true) d.addr then some d.addr else none

/-- A place of a lane as the signature folds it (R226). -/
def CopyLoc.fold (c : CopyLoc) : List Nat := leBytes 8 (if c.tile then c.handle + c.addr * 2 ^ 32 else c.addr)

/-- The lanes of an SS record (R226). -/
def cpyRecord (lit : Word) (src dst : List CopyLoc) : List Nat :=
  0x04 :: leBytes 4 lit.toNat ++ (src.zip dst).flatMap fun (a, d) => a.fold ++ d.fold

/-- A side names a gang tile (R230). -/
def State.cpyGang (s : State) (tile : Bool) (b : Nat) : Bool :=
  tile && match s.blk.tile? (s.rS b).toNat with
    | some t => tileGang t.desc
    | none => false

/-- The entry that a `cpy` makes; queue and log places as found at issue. -/
def State.cpyEntry (s : State) (c : CpyArgs) (id : Nat) (src dst : List CopyLoc) (readSeq doneSeq : Option Nat) : CopyEntry where
  id := id
  wid := s.cur
  pathB := s.curB
  xpc := s.path.pc
  lit := cpyLit c
  conv := c.conv
  rnd := c.rnd
  sat := c.sat
  ws := cpyWs c
  wd := cpyWd c
  done := c.done
  scont := (s.rS c.scont).toNat
  srcTag := recTag (s.rB c.bsrc)
  dstTag := recTag (s.rB c.bdst)
  tagset := !c.dtile && recKind (s.rB c.bdst) == 2
  src := src
  dst := dst
  pts := joinPts s.w.pts (s.blk.queue c.queue).pts
  after := (s.blk.queue c.queue).fence
  before := s.outstanding s.cur
  readLanes := []
  buf := []
  wroteLanes := []
  far := []
  checked := false
  hold := []
  heldAt := (0, 0)
  stop := none
  stopAt := (0, 0, none)
  readSeq := readSeq
  doneSeq := doneSeq

/-- Enqueue an entry (R179, R360). -/
def State.cpyEnqueue (s : State) (c : CpyArgs) (src dst : List CopyLoc) : State :=
  let gang := s.cpyGang c.stile c.bsrc
  let put (s : State) (typ n : Nat) : Option Nat × State :=
    if s.logging then
      let (q, s1) := s.logPut typ 0 0 n none
      (if s1.logging then some q else none, s1)
    else (none, s)
  let (rq, s1) := if gang then put s leTread (32 * cpyWs c) else (none, s)
  let (dq, s2) := put s1 leCpydone (if c.dtile then 32 * cpyWd c else 0)
  let (id, s3) := s2.fresh
  let e := s3.cpyEntry c id src dst rq dq
  let cq := s3.blk.queue c.queue
  let cq1 : CopyQueue := { cq with entries := cq.entries ++ [e], pts := e.pts }
  let s4 := s3.modB fun b => { b with queues := AL.put b.queues c.queue cq1 }
  if c.done = 1 then (s4.advance 8).wait (.sleepCopy id e.scont) else s4.advance 8

/-- Where a yield completion goes on (R210). -/
def contPc (codeva off : Nat) : VAddr := BitVec.ofNat 57 (codeva + off)

/-- The tags that a copy of a check run would set, for the run's own later checks (R123, R233). -/
def State.cpyTags (s : State) (c : CpyArgs) (dst : List CopyLoc) : State :=
  if c.dtile || recKind (s.rB c.bdst) != 2 then s
  else
    let spas := dst.filterMap fun l => match (s.translate s.blk.core s.blk.vf l.addr).1 with
      | .ok spa _ _ _ _ _ => some spa
      | _ => none
    s.viewTags s.bid spas (recTag (s.rB c.bdst))

/-- A check run does not perform the copy: a tile destination receives the logged bytes and the entry completes at once (R233). -/
def State.cpyReplay (s : State) (c : CpyArgs) (dst : List CopyLoc) : State :=
  let s := s.cpyTags c dst
  let done (s : State) : State :=
    s.logTake (fun e => e.typ == leCpydone) fun p s =>
      let s1 := if c.dtile && !s.cpyGang true c.bdst then
          (dst.zip (List.range 32)).foldl (fun (s : State) (d, i) => s.updTile s.bid d.handle fun t => t.put d.addr ((p.drop (i * cpyWd c)).take (cpyWd c))) s
        else s
      if c.done = 1 then s1.jump (contPc s1.codeva (s1.rS c.scont).toNat) else s1.advance 8
  if s.cpyGang c.stile c.bsrc then s.logTake (fun e => e.typ == leTread) fun _ s => done s else done s

/-- `cpy` (R206 to R208, R360). -/
def execCpy (c : CpyArgs) (s : State) : Host.Outcome State Fault Refusal :=
  .next (
    let x := (s.rS c.scont).toNat
    if !s.wholeWarp then s.trap tcPartial 0
    else if !s.vOk c.vsrc || !s.vOk c.vdst || (c.done == 1 && x % 4 != 0) || (c.done == 2 && 0xFFFFF < x) then s.illop
    else s.ending fun s =>
      if (c.stile && (s.blk.tile? (s.rS c.bsrc).toNat).isNone) || (c.dtile && (s.blk.tile? (s.rS c.bdst).toNat).isNone) then s.trap tcHandle 0
      else if s.cpyBadRec c.stile c.bsrc || s.cpyBadRec c.dtile c.bdst then s.trap tcBounds 0
      else
        let so := s.cpySide c.stile c.bsrc c.vsrc (cpyWs c)
        let dO := s.cpySide c.dtile c.bdst c.vdst (cpyWd c)
        let src := so.filterMap id
        let dst := dO.filterMap id
        if so.any (·.isNone) || dO.any (·.isNone) then s.trap tcBounds 0
        else match cpyAlign src (cpyWs c) dst (cpyWd c) with
          | some a => s.trap tcAlign a
          | none =>
            if !c.dtile && recRo (s.rB c.bdst) then s.trap tcRostore ((dst.head?.map (·.addr)).getD 0)
            else match (s.blk.queue c.queue).faulted with
              | some f => s.queueTrap f
              | none =>
                s.purity (cpyViol s.task src dst) fun s =>
                  let f (s : State) : State := s.fold 0 (cpyRecord (cpyLit c) src dst)
                  if s.checkRun then (f s).cpyReplay c dst
                  else if 16 ≤ (s.blk.queue c.queue).entries.length then s.wait (.operandWait (.copyPlace s.bid c.queue))
                  else (f s).cpyEnqueue c src dst)

/-! The engine (R209 to R211) -/

/-- Change the head entry of a queue of a block. -/
def State.updHead (s : State) (bid q : Nat) (f : CopyEntry → CopyEntry) : State :=
  s.updBlock bid fun b => { b with queues := AL.upd b.queues q fun c => { c with entries := match c.entries with
    | e :: r => f e :: r
    | [] => [] } }

/-- The line of a place: tiles count from beyond the addresses. -/
def CopyLoc.line (c : CopyLoc) : Nat := c.addr / 256 + if c.tile then 2 ^ 57 else 0

/-- A place of a lane. -/
def laneLoc (l : List CopyLoc) (i : Nat) : CopyLoc := l.getD i ⟨true, 64, 0⟩

/-- Lanes left in a phase. -/
def leftLanes (bound : Nat) (done : List Nat) : List Nat := (List.range bound).filter fun i => !done.contains i

/-- The lanes of the next line transfer of a phase: those on the line of the lowest lane left. -/
def nextLanes (l : List CopyLoc) (left : List Nat) : List Nat :=
  match left with
  | [] => []
  | i :: _ => left.filter fun j => (laneLoc l j).line == (laneLoc l i).line

/-- The entry reads, checks and writes next: the side and lanes of its next transfer, or none when nothing is left to start. A phase ends once the transfers with other packages have ended, too. -/
def CopyEntry.nextSide (e : CopyEntry) : Option (Bool × List Nat) :=
  let go (l : List Nat) : List Nat := l.filter fun i => !e.far.contains i
  let rs := leftLanes e.bound e.readLanes
  let ws := leftLanes e.bound e.wroteLanes
  if !rs.isEmpty then (if (go rs).isEmpty then none else some (false, nextLanes e.src (go rs)))
  else if !(go ws).isEmpty then some (true, nextLanes e.dst (go ws))
  else none

/-- Issued tile accesses that wait and that an entry comes after: they name one of its tiles, or both go to tiles of the gang (R135, R198). -/
def State.tilesBefore (s : State) (bid : Nat) (e : CopyEntry) : List Nat :=
  let hs := ((e.src ++ e.dst).filter (·.tile)).map (·.handle)
  if hs.isEmpty then [] else s.slowTilesOf bid fun x => x.id < e.id && hs.any fun h => x.handle == h || (s.gangHandle bid h && s.gangHandle bid x.handle)

/-- The head entry may start or go on (R168, R210, R211). -/
def State.entryFree (s : State) (bid : Nat) (e : CopyEntry) : Bool :=
  let live := ((s.blockOf bid).queues.flatMap fun q => q.2.entries).map (·.id)
  !(e.after.any live.contains) && s.beforeDone e.before && !(e.hold.any fun h => s.mergeLive h.1 h.2) && (s.tilesBefore bid e).isEmpty

/-- The memory place that an entry's next transfer names: its SPA and domain, where its page gives one. -/
def State.copyPlaceOf (s : State) (bid : Nat) (e : CopyEntry) : Option (Nat × Nat) :=
  let b := s.blockOf bid
  match e.nextSide with
  | some (write, i :: _) =>
    let l := laneLoc (if write then e.dst else e.src) i
    if l.tile then none
    else match (s.translate b.core b.vf l.addr).1 with
      | .ok spa _ _ _ _ dom => some (spa, dom)
      | _ => none
  | _ => none

/-- The line a transfer touches cannot be reached now: another block holds it, an access that came before it waits there, its die switches its mode (R161, R171, R184), its partition has no turn (R296), or accesses that the copy's tags would make wrong have still to reach it (R123). -/
def State.transferHeld (s : State) (bid q : Nat) (e : CopyEntry) (write : Bool) : Bool :=
  match s.copyPlaceOf bid e with
  | some (spa, dom) =>
    !s.engFree (.copy bid q e.id) (spa / 256) || !s.tdmAllows (s.blockOf bid).vf dom (spa / 256) ||
    (!spaRemote spa && write && e.tagset && s.probesOn (spa / 256) fun _ => true)
  | none => false

/-- The head entry of a queue can take a line transfer now. -/
def State.canTransfer (s : State) (bid q : Nat) : Bool :=
  match ((s.blockOf bid).queue q).entries with
  | [] => false
  | e :: _ => s.entryFree bid e && match e.nextSide with
    | some (w, _) => !s.transferHeld bid q e w
    | none => false

/-- What a translated memory place does to the entry: nothing, a hold, or a stop code and cause with the level, stage and GPA of the walk. -/
inductive CopyMeets where
  | ok (spa : Nat) (dom : Nat) (win : Bool)
  | hold (w : Walk)
  | stop (code cause : Nat) (at_ : Nat × Nat × Option Nat)
  deriving DecidableEq, Repr

/-- Translate a place of an entry and make its checks (R211); a write to an exhausted page stops as an uncorrectable sector does (R253). -/
def State.copyMeets (s : State) (bid : Nat) (e : CopyEntry) (write : Bool) (addr : Nat) : CopyMeets × State :=
  let b := s.blockOf bid
  let (w, s1) := s.translate b.core b.vf addr
  match w with
  | .ok spa wr _ win _ dom =>
    if write && !wr then (.stop tcAccess 2 (0, 0, none), s1)
    else if spaRemote spa then (.ok spa dom win, s1)
    else if !(write && e.tagset) && s1.ownTag bid spa != (if write then e.dstTag else e.srcTag) then (.stop tcAccess 3 (0, 0, none), s1)
    else if write && s1.pageExhausted (spa / 4096) then (.stop tcUncorr 0 (0, 0, none), s1)
    else (.ok spa dom win, s1)
  | .nonres .. => (.hold w, s1)
  | .failed c => (.stop c (if c = tcUncorr then 0 else 4) (0, 0, none), s1)
  | .invalid st2 level a => (.stop tcAccess 1 (level, if st2 then 1 else 0, if st2 then some a else none), s1)

/-- The entry stops at a lane. -/
def State.copyStops (s : State) (bid q lane addr code cause : Nat) (at_ : Nat × Nat × Option Nat) : State :=
  s.updHead bid q fun e => if lane < e.bound then { e.stopped lane code cause addr with stopAt := at_ } else e

/-- Hold an entry for residency: a data request, and the merge entry to wait for (R211). With no free entry the line is tried again. -/
def State.copyHold (s : State) (bid q lane addr : Nat) (write : Bool) (w : Walk) : State :=
  let b := s.blockOf bid
  match s.raise (dieOf b.core) b.core b.vf b.task addr 1 write w with
  | (some k, s1) => s1.updHead bid q fun e => { e with hold := [k], heldAt := (lane, addr) }
  | (none, s1) => s1.regSat b.vf blkXlate 0x20 32 1

/-- A lane's source bytes have been read. -/
def CopyEntry.gotLane (e : CopyEntry) (lane : Nat) (bs : List Nat) : CopyEntry :=
  let buf := (bs.zip (List.range bs.length)).foldl (fun t x => AL.put t (lane * 16 + x.2) (BitVec.ofNat 8 x.1)) e.buf
  { e with readLanes := insSorted lane e.readLanes, buf := buf }

/-- A lane's transfer goes to another package (R250). -/
def CopyEntry.goFar (e : CopyEntry) (lanes : List Nat) : CopyEntry := { e with far := lanes.foldl (fun l i => insSorted i l) e.far }

/-- Read one lane of memory into the entry. No lease is taken on a window line (R170). Of several stopping causes at one place R211 gives no order: the model takes the translation's first, then the tag, then an error of the sector (DESIGN CHOICE, log entry 92). -/
def State.copyReadMem (s : State) (bid q lane addr : Nat) : State :=
  match ((s.blockOf bid).queue q).entries with
  | [] => s
  | e :: _ =>
    match s.copyMeets bid e false addr with
    | (.hold w, s1) => s1.copyHold bid q lane addr false w
    | (.stop c k l, s1) => s1.copyStops bid q lane addr c k l
    | (.ok spa dom win, s1) =>
      let b := s1.blockOf bid
      if spaRemote spa then
        (s1.farReq (.copy bid q e.id) (Tbl.get e.pts (farDie (spa / 256))) b.core b.vf dom spa (addr / 256 * 256) 0 e.ws none [(lane, spa % 256, 0, 0)]).updHead bid q fun e => e.goFar [lane]
      else match s1.readVa b.core b.vf dom addr spa e.ws with
        | (some c, s2) => s2.copyStops bid q lane addr c (if c = tcUncorr then 0 else 4) (0, 0, none)
        | (none, s2) =>
          let d := homeDie spa
          let (w, s3) := if win then (Tbl.get s2.mm.wts (spa / 256), s2)
            else s2.engineLease (spa / 256) (Tbl.get e.pts d) (s2.lease b.vf)
          (s3.updHead bid q fun x => x.gotLane lane (s3.ownBytes bid spa e.ws)).updHead bid q fun x => { x with pts := ptsUp x.pts d w }

/-- Read the lanes of one line. -/
def State.copyRead (s : State) (bid q : Nat) (lanes : List Nat) : State :=
  lanes.foldl (fun s i =>
    match ((s.blockOf bid).queue q).entries with
    | [] => s
    | e :: _ =>
      let l := laneLoc e.src i
      if e.bound ≤ i || e.hold.any (fun h => s.mergeLive h.1 h.2) then s
      else if l.tile then
        let s := s.ownStoresFirst bid l.handle
        let bs := (List.range e.ws).map fun j => ((s.tileStore bid l.handle).byte (l.addr + j)).toNat
        s.updHead bid q fun e => e.gotLane i bs
      else s.copyReadMem bid q i l.addr) s

/-- Make the checks of every destination before the first write (R211): they are made once no page is missing. -/
def State.copyCheck (s : State) (bid q : Nat) : State :=
  let (ok, s1) := (List.range 32).foldl (fun (acc : Bool × State) i =>
    match ((acc.2.blockOf bid).queue q).entries with
    | [] => acc
    | e :: _ =>
      let l := laneLoc e.dst i
      if e.bound ≤ i || l.tile || !acc.1 then acc
      else match acc.2.copyMeets bid e true l.addr with
        | (.hold w, s1) => (false, s1.copyHold bid q i l.addr true w)
        | (.stop c k x, s1) => (true, s1.copyStops bid q i l.addr c k x)
        | (.ok _ _ _, s1) => (true, s1)) (true, s.updHead bid q fun e => { e with hold := [] })
  s1.updHead bid q fun e => { e with checked := ok }

/-- Convert one element (R104). -/
def copyElem (conv rnd : Nat) (sat : Bool) (x : Nat) : Nat :=
  match conv with
  | 1 => (bf16F.toFloat e4m3F rnd sat false x).bits
  | 2 => (bf16F.toFloat e5m2F rnd sat false x).bits
  | 3 => (e4m3F.toFloat bf16F rnd false false x).bits
  | 4 => (e5m2F.toFloat bf16F rnd false false x).bits
  | _ => x

/-- The bytes a lane's destination takes. -/
def CopyEntry.outBytes (e : CopyEntry) (lane : Nat) : List Nat :=
  let b (j : Nat) : Nat := (AL.getD e.buf (lane * 16 + j) 0).toNat
  match e.conv with
  | 0 => (List.range e.wd).map b
  | 1 | 2 => (List.range e.wd).map fun j => copyElem e.conv e.rnd e.sat (b (2 * j) + 256 * b (2 * j + 1))
  | _ => (List.range (e.wd / 2)).flatMap fun j => leBytes 2 (copyElem e.conv e.rnd e.sat (b j))

/-- Bytes of one line, the higher lane winning each byte (R125): from the places of the lanes, offsets in the line. -/
def CopyEntry.lineOut (e : CopyEntry) (lanes : List Nat) : List (Nat × Nat) :=
  lanes.foldl (fun t i =>
    let o := (laneLoc e.dst i).addr % 256
    (((e.outBytes i).zip (List.range e.wd)).foldl (fun t x => AL.put t (o + x.2) x.1) t)) []

/-- Lanes are written. -/
def CopyEntry.wrote (e : CopyEntry) (lanes : List Nat) : CopyEntry := { e with wroteLanes := lanes.foldl (fun l i => insSorted i l) e.wroteLanes }

/-- Write lanes of one memory line at its home (R171, R209), or send them to another package (R250). -/
def State.copyWriteMem (s : State) (bid q : Nat) (lanes : List Nat) (addr : Nat) : State :=
  match ((s.blockOf bid).queue q).entries with
  | [] => s
  | e :: _ =>
    let tag := if e.tagset then some e.dstTag else none
    match s.copyMeets bid e true addr with
    | (.hold w, s1) => s1.copyHold bid q (lanes.headD 0) addr true w
    | (.stop c k x, s1) => s1.copyStops bid q (lanes.headD 0) addr c k x
    | (.ok spa dom _, s1) =>
      let b := s1.blockOf bid
      let line := spa / 256
      if b.holds then ((s1.holdLine bid line (e.lineOut lanes) tag).updHead bid q fun e => e.wrote lanes).spillCheck bid
      else if spaRemote spa then
        let data := lanes.map fun i => (i, (laneLoc e.dst i).addr % 256, BitVec.ofNat 128 (leNat (e.outBytes i)), (0 : Rec))
        (s1.farReq (.copy bid q e.id) (Tbl.get e.pts (farDie line)) b.core b.vf dom spa (addr / 256 * 256) 1 e.wd tag data).updHead bid q fun e => e.goFar lanes
      else
        let d := homeDie spa
        let (t, s2) := (s1.lineDomain line dom).homeTime line (Tbl.get e.pts d)
        (s2.applyLine dom line (e.lineOut lanes) tag).updHead bid q fun e => { e.wrote lanes with pts := ptsUp e.pts d t }

/-- The answer of another package to a transfer of the head entry (R209, R250). -/
def State.farDone (s : State) (bid q id : Nat) (r : LineReq) : State :=
  let lanes := r.lanes.map (·.1)
  s.updHead bid q fun e =>
    if e.id ≠ id then e
    else
      let e1 := { e with far := e.far.filter fun i => !lanes.contains i }
      let e2 := if r.kind = 0 then lanes.foldl (fun (e : CopyEntry) i => e.gotLane i (leBytes e.ws ((AL.get? r.got i).getD 0).toNat)) e1 else e1.wrote lanes
      { e2 with pts := ptsUp e2.pts (farDie r.line) r.wts }

/-- A transfer of the head entry is refused (R309): the entry stops as on an invalid page, with the fabric's cause in its record (log entry 39). One that fails its read check at its home stops as a failing sector here does (R211, R254, R255). -/
def State.farFailed (s : State) (bid q id : Nat) (r : LineReq) (cause : Nat) : State :=
  let lanes := r.lanes.map (·.1)
  s.updHead bid q fun e =>
    if e.id ≠ id then e
    else ({ e with far := e.far.filter fun i => !lanes.contains i }).stopped (lanes.headD 0) (if cause < 16 then tcAccess else cause)
      (if cause < 16 then cause - 1 else if cause = tcUncorr then 0 else 4) ((laneLoc (if r.kind = 0 then e.src else e.dst) (lanes.headD 0)).addr)

/-- Write lanes of one line. -/
def State.copyWrite (s : State) (bid q : Nat) (lanes : List Nat) : State :=
  match ((s.blockOf bid).queue q).entries, lanes with
  | e :: _, i :: _ =>
    let l := laneLoc e.dst i
    if l.tile then
      let gang := match AL.get? (s.blockOf bid).tiles l.handle with
        | some t => tileGang t.desc
        | none => false
      let s1 := lanes.foldl (fun s j =>
        let o := (laneLoc e.dst j).addr
        if gang then s.onPath e.wid e.pathB fun s => s.storeGang bid l.handle e.id o (e.outBytes j)
        else s.updTile bid l.handle fun t => t.put o (e.outBytes j)) s
      s1.updHead bid q fun e => e.wrote lanes
    else s.copyWriteMem bid q lanes l.addr
  | _, _ => s

/-- One line transfer of the head entry of a queue. -/
def State.copyTransfer (s : State) (bid q : Nat) : State :=
  match ((s.blockOf bid).queue q).entries with
  | [] => s
  | e :: _ =>
    match e.nextSide with
    | none => s
    | some (false, lanes) => s.copyRead bid q lanes
    | some (true, _) =>
      let s1 := if e.checked then s else s.copyCheck bid q
      match ((s1.blockOf bid).queue q).entries with
      | [] => s1
      | e1 :: _ => match e1.checked, e1.nextSide with
        | true, some (true, lanes) => s1.copyWrite bid q lanes
        | _, _ => s1

/-- The queues of a core's blocks in the order of the rotation: slot × 8 + queue, and block (R210). The entries of a pre-empted block go on (R213). -/
def State.copyRing (s : State) (core : Nat) : List (Nat × Nat) :=
  (s.blocks.filter fun e => e.2.core == core && (e.2.onCore || e.2.st == .saved)).flatMap fun e => (List.range 8).map fun q => (e.2.slot * 8 + q, e.1)

/-- The next queue that can take a transfer, after the one served last. -/
def State.copyNext (s : State) (core : Nat) : Option (Nat × Nat) :=
  let last := AL.getD s.eng.copyRot core 255
  let ok := (s.copyRing core).filter fun x => s.canTransfer x.2 (x.1 % 8)
  minBy (fun x => (x.1 + 256 - last - 1 + 256) % 256) ok

/-- COPY_LINE_TRANSFER (R209 to R211). -/
def execCopyLineTransfer (core : Nat) (s : State) : Host.Outcome State Fault Refusal :=
  .next (match s.copyNext core with
    | none => s
    | some (k, bid) => ({ s with eng := { s.eng with copyRot := AL.put s.eng.copyRot core k } }).copyTransfer bid (k % 8))

/-- The head entry has been performed whole. -/
def State.copyDone (s : State) (bid q : Nat) : Bool :=
  match ((s.blockOf bid).queue q).entries with
  | e :: _ => e.stop.isNone && e.wroteLanes.length == 32
  | [] => false

/-- The log entries of a completed copy: the bytes read and the bytes written (R230). -/
def State.copyLog (s : State) (bid : Nat) (e : CopyEntry) : State :=
  let tile := e.dst.any (·.tile)
  let s1 := match e.readSeq with
    | some k => s.logFill bid (e.wid % 32) e.pathB k ((List.range 32).flatMap fun i => (List.range e.ws).map fun j => (AL.getD e.buf (i * 16 + j) 0).toNat)
    | none => s
  match e.doneSeq with
  | some k => s1.logFill bid (e.wid % 32) e.pathB k (if tile then (List.range 32).flatMap e.outBytes else [])
  | none => s1

/-- The entries and queues that waited for an entry across a `qfence` take its times (R179). -/
def Block.fenceJoin (b : Block) (id : Nat) (pts : Tbl 40) : Block :=
  { b with queues := b.queues.map fun c => (c.1, { c.2 with
      pts := if c.2.fence.contains id then joinPts c.2.pts pts else c.2.pts
      fence := c.2.fence.filter fun k => k != id
      entries := c.2.entries.map fun e => if e.after.contains id then { e with pts := joinPts e.pts pts } else e }) }

/-- A warp waits in a `qwait` for an entry (R168, R179). -/
def Warp.awaits (w : Warp) (id : Nat) : Bool := w.slow.any fun x => match x.wait with
  | .copies ids => ids.contains id
  | _ => false

/-- The warps that a `qwait` holds for an entry take its times (R179). -/
def State.waitJoin (s : State) (bid id : Nat) (pts : Tbl 40) : State :=
  (s.warpsOf bid).foldl (fun s k => s.updWarp k fun w => if w.awaits id then { w with pts := joinPts w.pts pts } else w) s

/-- COPY_ENTRY_COMPLETE (R179, R210). -/
def execCopyEntryComplete (bid q : Nat) (s : State) : Host.Outcome State Fault Refusal :=
  .next (
    match ((s.blockOf bid).queue q).entries with
    | [] => s
    | e :: r =>
      if !s.copyDone bid q then s
      else
        let s1 := s.copyLog bid e
        let s2 := s1.updBlock bid fun b => { b with queues := AL.upd b.queues q fun c =>
          { c with pts := joinPts c.pts e.pts, ended := joinPts c.ended e.pts, entries := r.map fun x => { x with pts := joinPts x.pts e.pts } } }
        let s3 := (s2.updBlock bid fun b => b.fenceJoin e.id e.pts).waitJoin bid e.id e.pts
        let b := s3.blockOf bid
        match e.done with
        | 1 =>
          let cv := (s3.taskOf b.vf b.task).codeva
          if ((s3.warpOf e.wid).path e.pathB).st = .sleepCopy e.id e.scont then
            (s3.updWarp e.wid fun w => { w with pts := joinPts w.pts e.pts }).wakePath e.wid e.pathB fun p => { p with pc := contPc cv e.scont }
          else s3
        | 2 => s3.decOrLose b.vf e.scont
        | _ => s3)

/-- AUX of a copy stop (R212). -/
def copyAux (wd lane cause : Nat) : Nat := lane * wd % 2 ^ 16 + lane % 32 * 2 ^ 16 + cause * 2 ^ 21

/-- COPY_ENTRY_STOP (R211, R212): the lanes before the stop have been written. The record is sent when the stop is delivered (R280); an invalid host result is reported to the PF now (R156). -/
def execCopyEntryStop (bid q : Nat) (s : State) : Host.Outcome State Fault Refusal :=
  .next (
    match ((s.blockOf bid).queue q).entries with
    | [] => s
    | e :: _ =>
      match e.stop with
      | none => s
      | some (lane, code, cause, addr) =>
        if e.wroteLanes.length < lane then s
        else
          let b := s.blockOf bid
          let part := s.partD b.vf
          let (level, stage, gpa) := e.stopAt
          let r := termRecord b.vf part code (cause + 1) (cause = 2) level stage addr e.xpc.toNat (copyAux e.wd lane cause) b.task b.core
          let s1 := s.updBlock bid fun b => { b with queues := AL.upd b.queues q fun c =>
            { c with entries := [], faulted := some (code, e.xpc), faultRec := some r } }
          let s2 := match gpa with
            | some a => s1.queueTerm Config.pf (termRecord b.vf part tcAccess 2 false level 1 addr a 0 b.task b.core) none
            | none => s1
          let p := (s2.warpOf e.wid).path e.pathB
          if p.st = .sleepCopy e.id e.scont then
            (s2.sendFault (s2.blockOf bid) (code, e.xpc)).trapAt e.wid e.pathB code e.xpc p.pc (BitVec.ofNat 57 addr) TermInfo.none
          else s2)

end Sys2Proof.Machine
end

