-- ==== Sys2Proof/Machine/Stream.lean ====
section
/-! DEFINITION. Affine streams: `sattach`, `qdrop`, `qpop` and the stream engine (R214 to R218, R400, R404, R414). -/

set_option Elab.async false

namespace Sys2Proof.Machine

/-! Stream records (R214) -/

/-- Bits [hi:lo] of the 64-bit word at a byte offset of a stream record. -/
def strBits (r : BitVec 512) (off hi lo : Nat) : Nat := bits (r.toNat / 2 ^ (8 * off)) hi lo
def strRec (r : BitVec 512) : Rec := BitVec.ofNat 128 r.toNat
def strOff0 (r : BitVec 512) : Nat := strBits r 0x10 31 0
def strEw (r : BitVec 512) : Nat := strBits r 0x10 33 32
def strSx (r : BitVec 512) : Bool := strBits r 0x10 34 34 == 1
/-- Loops in use. -/
def strLoops (r : BitVec 512) : Nat := strBits r 0x10 36 35 + 1
def strExtent (r : BitVec 512) (k : Nat) : Nat := strBits r 0x18 (16 * k + 15) (16 * k)
def strStride (r : BitVec 512) (k : Nat) : Int := sext 32 (strBits r (0x20 + 4 * k) 31 0)

/-- The check of a stream record (R216): a trap code, or none. -/
def strBad (r : BitVec 512) : Option Nat :=
  let b := strRec r
  if strBits r 0x10 63 37 != 0 || strBits r 0x30 127 0 != 0 || strEw r == 3 then some tcIllop
  else if recMalformed b || recKind b == 1 || recStride b != 1 || (List.range (strLoops r)).any (fun k => strExtent r k == 0) then some tcBounds
  else none

/-- Elements of the sequence. -/
def strCount (r : BitVec 512) : Nat := (List.range (strLoops r)).foldl (fun n k => n * strExtent r k) 1

/-- Queue entries of the sequence. -/
def strEntries (r : BitVec 512) : Nat := (strCount r + 31) / 32

/-- The byte offset of element i (R214): loop 0 is innermost. -/
def strOffset (r : BitVec 512) (i : Nat) : Int :=
  ((List.range (strLoops r)).foldl (fun (acc : Nat × Int) k =>
    (acc.1 / strExtent r k, acc.2 + (acc.1 % strExtent r k : Nat) * strStride r k)) (i, (strOff0 r : Int))).2

/-- The place of an element (R217). -/
def strPlace (r : BitVec 512) (i : Nat) : LaneAcc :=
  let o := strOffset r i
  if o < 0 then .bounds else linearLane (strRec r) o.toNat

/-! Binding (R216) -/

/-- Entries that a queue has buffers for: those filled, and one that is being fetched. -/
def StreamQ.entries (q : StreamQ) : Nat := q.bufs.length + if q.coming.isSome then 1 else 0

/-- Buffers of a core's engine that no queue holds or has reserved. -/
def State.freeBuffers (s : State) (core : Nat) : Nat :=
  256 - sumNat (s.warps.flatMap fun e => if (s.blockOf e.2.bid).core = core ∧ (s.blockOf e.2.bid).onCore then e.2.q.map (fun q => max 4 q.2.entries) else [])

/-- Bind a queue of a warp (R216, R179): its reads come after the accesses `before` that the warp has issued (R169). -/
def Warp.bindQueue (w : Warp) (n : Nat) (r : BitVec 512) (before : List Nat) : Warp := { w with q := AL.put w.q n ⟨r, 0, [], w.pts, before, none⟩ }

/-- A path in Queue-wait on a queue looks again. -/
def Path.queueWake (p : Path) (n now : Nat) : Path := if p.st = .queueWait n then p.wake now false else p

/-- The paths of a warp in Queue-wait on a queue look again. -/
def Warp.queueWake (w : Warp) (n now : Nat) : Warp := { w with pathA := w.pathA.queueWake n now, pathB := w.pathB.queueWake n now }

/-- Unbind a queue of the issuing warp (R216, R400). -/
def State.dropQueue (s : State) (n : Nat) : State := s.modW fun w => ({ w with q := AL.del w.q n }).queueWake n s.now

/-- Bind a queue of the issuing warp to a record that has been read (R216): the queue attached before is dropped, and the binding waits for four free buffers beside its path (R414). -/
def State.attach (s : State) (n la : Nat) (r : BitVec 512) : State :=
  match strBad r with
  | some c => s.trap c 0
  | none =>
    let s1 := s.dropQueue n
    if s1.freeBuffers s1.blk.core < 4 then
      let (id, s2) := s1.fresh
      s2.issueSlow id la 0 (.buffers s1.blk.core) (.bind n r) 4
    else (s1.modW fun w => w.bindQueue n r (s1.outstanding s1.cur)).advance 4

/-- An attached queue whose binding has waited is bound (R216, R326). -/
def State.slowBind (s : State) (wid : Nat) (x : Slow) (n : Nat) (r : BitVec 512) : State :=
  s.updWarp wid fun w => ((w.bindQueue n r (s.outstandingTo wid x.id)).queueWake n s.now).endSlow x.id

/-- `sattach` (R215, R216, R414): the record is read once, when the earlier work that names the tile has ended. -/
def execSattach (n a b la : Nat) (s : State) : Host.Outcome State Fault Refusal :=
  .next (s.ending fun s =>
    let off := (s.rS b).toNat
    s.tileAtPc a (fun t => off % 64 ≠ 0 ∨ tileBytes t.desc < off + 64) fun x t s =>
      let bytes := (List.range 64).map fun i => ((s.tileStore s.bid x).byte (off + i)).toNat
      if !tileGang t.desc then s.attach n la (BitVec.ofNat 512 (leNat bytes))
      else if s.checkRun then s.logTake (fun e => e.typ == leTread) fun p s => s.attach n la (BitVec.ofNat 512 (leNat p))
      else (s.logPut leTread 0 0 64 (some bytes)).2.attach n la (BitVec.ofNat 512 (leNat bytes)))

/-- `qdrop` (R216, R400). -/
def execQdrop (n _la : Nat) (s : State) : Host.Outcome State Fault Refusal := .next (s.ending fun s => (s.dropQueue n).advance 4)

/-! Popping (R218, R404) -/

/-- Lanes of an entry that hold elements: entry number j of a sequence. -/
def strLanes (r : BitVec 512) (j : Nat) : Word := maskOf ((List.range 32).filter fun l => 32 * j + l < strCount r)

/-- An element as its lane receives it. -/
def strValue (r : BitVec 512) (x : Nat) : Word :=
  let n := 8 * 2 ^ strEw r
  if strSx r then BitVec.ofNat 32 (wrap 32 (sext n x)) else BitVec.ofNat 32 (x % 2 ^ n)

/-- Pop the head entry with the lanes' elements and the non-resident lanes: registers and the flag predicate. -/
def State.popHead (s : State) (d n : Nat) (q : StreamQ) (nr : Word) (vals : AL Word) : State :=
  let s1 := s.modW fun w => { w with q := AL.put w.q n { q with pops := q.pops + 1, bufs := q.bufs.tail } }
  let lanes := lanesOf s1.activeGuarded
  ((s1.setFP (nr &&& s1.activeGuarded)).writeV d (lanes.map fun l =>
    (l, if nr.getLsbD l then 0 else strValue q.record (AL.getD vals l 0).toNat))).advance 4

/-- Pop in a check run: the non-resident lanes and the elements of writable records come from the log (R233). A page that is not resident now, and was in the mortise run, parks the path, and the entries are fetched again. -/
def State.popReplay (s : State) (d n : Nat) (q : StreamQ) (e : StreamEntry) : State :=
  let nr := s.nrTaken.getD 0
  let s1 := s.countAccess s.nrTaken.isSome 0 0
  let mask := s.activeGuarded &&& strLanes q.record q.pops &&& ~~~nr
  if recRo (strRec q.record) then
    match (e.nonres.filter fun l => mask.getLsbD l).head? with
    | none => s1.popHead d n q nr e.elems
    | some l =>
      let va := match strPlace q.record (32 * q.pops + l) with
        | .mem a => a
        | _ => 0
      let s2 := s.modW fun w => { w with q := AL.put w.q n { q with bufs := [], coming := none } }
      let (w, s3) := s2.translate s2.blk.core s2.blk.vf va
      if w.isNonres then s3.park va 1 false w else s3.wait (.queueWait n)
  else
    s1.logTake (LogEntry.is leLoad mask) fun p s =>
      s.popHead d n q nr ((logValues (2 ^ strEw q.record) mask p).map fun v => (v.1, BitVec.ofNat 32 v.2.toNat))

/-- Pop in a run that logs or does not check. -/
def State.popPlain (s : State) (d n : Nat) (q : StreamQ) (e : StreamEntry) : State :=
  let act := s.activeGuarded
  let nr := maskOf e.nonres &&& act
  let s1 := s.countAccess false nr (strEw q.record)
  let mask := act &&& strLanes q.record q.pops &&& ~~~nr
  let w := 2 ^ strEw q.record
  let s2 := if recRo (strRec q.record) then s1
    else (s1.logPut leLoad mask (strEw q.record) (w * popc 32 mask.toNat) (some ((lanesOf mask).flatMap fun l => leBytes w (AL.getD e.elems l 0).toNat))).2
  s2.popHead d n q nr e.elems

/-- What a terminal trap of a failed element reports (R154). -/
def ElemFail.info (f : ElemFail) : TermInfo := ⟨f.cause, f.level, f.stage, false, none, f.gpa⟩

/-- An entry's failure: the first in lane order stays. -/
def StreamEntry.failAt (e : StreamEntry) (f : ElemFail) : StreamEntry :=
  match e.fail with
  | some g => if f.lane < g.lane then { e with fail := some f } else e
  | none => { e with fail := some f }

/-- The head entry's failure or violation that is first in lane order (R217, R265, R404): of one lane, BOUNDS and ALIGN come before the purity test, and what the translation finds after it. -/
def StreamEntry.violFirst (e : StreamEntry) : Option Nat :=
  match e.viol, e.fail with
  | some (l, a), some f => if l < f.lane || (l == f.lane && f.code != tcBounds && f.code != tcAlign) then some a else none
  | some (_, a), none => some a
  | none, _ => none

/-- The failure of an element that an address alone decides: out of range, or misaligned. -/
def strEarly (r : BitVec 512) (i : Nat) : Option ElemFail :=
  match strPlace r i with
  | .mem a => if a % 2 ^ strEw r = 0 then none else some ⟨i % 32, tcAlign, a, 0, 0, 0, none⟩
  | _ => some ⟨i % 32, tcBounds, 0, 0, 0, 0, none⟩

/-- Elements of entry j. -/
def strElems (r : BitVec 512) (j : Nat) : List Nat := ((List.range 32).map fun l => 32 * j + l).filter fun i => i < strCount r

/-- The failure of an element that its page's translation decides, at an address (R217, R145). -/
def Walk.elemFail (w : Walk) (lane addr : Nat) : Option ElemFail :=
  match w with
  | .failed c => some ⟨lane, c, addr, if c = tcUncorr then 1 else 5, 0, 0, none⟩
  | .invalid .. => some ⟨lane, tcAccess, addr, 2, w.stopAt.1, w.stopAt.2.1, w.stopAt.2.2⟩
  | _ => none

/-- An entry of a check run whose elements come from its log: no memory is read, and every failure but those of the values is marked; lanes in `skip` were non-resident in the mortise run (R150, R217, R233). -/
def State.strBlank (s : State) (wid : Nat) (q : StreamQ) (j : Nat) (skip : Word) : StreamEntry × State :=
  let bid := (s.warpOf wid).bid
  let b := s.blockOf bid
  let r := q.record
  ((strElems r j).filter fun i => !skip.getLsbD (i % 32)).foldl (fun (acc : StreamEntry × State) i =>
    match strEarly r i, strPlace r i with
    | some f, _ => (acc.1.failAt f, acc.2)
    | none, .mem a =>
      let (w, s1) := acc.2.translate b.core b.vf a
      (match w with
        | .ok spa .. => if !spaRemote spa && s1.ownTag bid spa != recTag (strRec r) then acc.1.failAt ⟨i % 32, tcTag, a, 4, 0, 0, none⟩ else acc.1
        | _ => ((w.elemFail (i % 32) a).map acc.1.failAt).getD acc.1, s1)
    | none, _ => acc) (⟨[], [], none, none⟩, s)

/-- A check run takes the elements of a queue's record from its log (R233). -/
def State.strLogged (s : State) (wid : Nat) (q : StreamQ) : Bool :=
  (s.blockOf (s.warpOf wid).bid).isCheck && !recRo (strRec q.record) && !(s.warpOf wid).recipe

/-- The head entry of a queue as a `qpop` of the issuing warp finds it: in a check run that takes it from the log, a lane that was non-resident in the mortise run fails no check (R150). -/
def State.headEntry (s : State) (q : StreamQ) (e : StreamEntry) : StreamEntry :=
  let nr := s.nrTaken.getD 0
  if s.strLogged s.cur q && e.fail.any (fun f => nr.getLsbD f.lane) then { e with fail := (s.strBlank s.cur q q.pops nr).1.fail } else e

/-- `qpop` (R215, R218, R404). -/
def execQpop (d n : Nat) (s : State) : Host.Outcome State Fault Refusal :=
  .next (if !s.vOk d then s.illop
    else s.writing [.v d] fun s =>
      match AL.get? s.w.q n with
      | none => s.trap tcQueue 0
      | some q =>
        if strEntries q.record ≤ q.pops then s.trap tcQueue 0
        else match q.bufs with
          | [] => s.wait (.queueWait n)
          | e0 :: _ =>
            let e := s.headEntry q e0
            s.purity e.violFirst fun s =>
              match e.fail with
              | some f =>
                let s1 := s.trapInfo f.code f.addr f.info
                match f.gpa with
                | some a => s1.hostInvalid s.blk.vf s.blk.task s.blk.core f.addr false (.invalid true f.level a)
                | none => s1
              | none => if s.checkRun && !s.w.recipe then s.popReplay d n q e else s.popPlain d n q e)

/-! The engine (R217) -/

/-- What one element's fetch finds: its failure, whether it is non-resident, its bytes, and the request that has gone to another package for them. -/
structure Fetched where
  fail : Option ElemFail
  nonres : Bool
  val : Word
  far : Option Nat
  deriving DecidableEq, Repr

/-- A failure of an element. -/
def Fetched.bad (f : ElemFail) : Fetched := ⟨some f, false, 0, none⟩

/-- Fetch one element of a warp's stream as a load (R217). No lease is taken on a window line (R170). -/
def State.fetchElem (s : State) (wid n : Nat) (q : StreamQ) (i : Nat) : Fetched × State :=
  let bid := (s.warpOf wid).bid
  let b := s.blockOf bid
  let r := strRec q.record
  let w := 2 ^ strEw q.record
  match strEarly q.record i, strPlace q.record i with
  | some f, _ => (.bad f, s)
  | none, .mem a =>
    let (t, s1) := s.translate b.core b.vf a
    match t with
    | .ok spa _ _ win _ dom =>
      if spaRemote spa then
        (⟨none, false, 0, some s1.nextId⟩,
          s1.farReq (.strm wid n) (Tbl.get q.pts (farDie (spa / 256))) b.core b.vf dom spa (a / 256 * 256) 0 w none [(i % 32, spa % 256, 0, 0)])
      else if s1.ownTag bid spa != recTag r then (.bad ⟨i % 32, tcTag, a, 4, 0, 0, none⟩, s1)
      else match s1.readVa b.core b.vf dom a spa w with
        | (some c, s2) => (.bad ⟨i % 32, c, a, if c = tcUncorr then 1 else 5, 0, 0, none⟩, s2)
        | (none, s2) =>
          let d := homeDie spa
          let (t0, s3) := if win then (Tbl.get s2.mm.wts (spa / 256), s2)
            else
              let (t0, _, s3) := s2.homeLease (spa / 256) b.core (Tbl.get q.pts d) (s2.lease b.vf)
              (t0, s3)
          let up (w : Warp) : Warp := { w with q := AL.upd w.q n fun q => { q with pts := ptsUp q.pts d t0 } }
          (⟨none, false, BitVec.ofNat 32 (leNat (s3.ownBytes bid spa w)), none⟩, s3.updWarp wid up)
    | .nonres .. => (⟨none, true, 0, none⟩, if b.isCheck then s1 else s1.raiseData b.core b.vf b.task a false t)
    | _ => (⟨t.elemFail (i % 32) a, false, 0, none⟩, s1)
  | none, _ => (⟨none, false, 0, none⟩, s)

/-- The address of an element, where it has one. -/
def strAddr (r : BitVec 512) (i : Nat) : Option Nat :=
  match strPlace r i with
  | .mem a => some a
  | _ => none

/-- Fetch the elements of an entry, lane by lane: the entry, and the requests it waits for. -/
def State.fetchEntry (s : State) (wid n : Nat) (q : StreamQ) (j : Nat) : (StreamEntry × List Nat) × State :=
  (strElems q.record j).foldl (fun (acc : (StreamEntry × List Nat) × State) i =>
    let (f, s1) := acc.2.fetchElem wid n q i
    let l := i % 32
    let e : StreamEntry := { acc.1.1 with elems := AL.put acc.1.1.elems l f.val, nonres := if f.nonres then insSorted l acc.1.1.nonres else acc.1.1.nonres }
    (((f.fail.map e.failAt).getD e, acc.1.2 ++ f.far.toList), s1)) ((⟨[], [], none, none⟩, []), s)

/-- The first violation of purity among an entry's elements, with its lane (R265). -/
def Task.strViol (t : Task) (r : BitVec 512) (j : Nat) : Option (Nat × Nat) :=
  (strElems r j).findSome? fun i => match strAddr r i with
    | some a => if inRanges (t.regions false ++ t.regions true) a then none else some (i % 32, a)
    | none => none

/-- An entry is filled: it goes to the end of its queue, and a path in Queue-wait looks again. -/
def State.strFill (s : State) (wid n : Nat) (e : StreamEntry) : State :=
  s.updWarp wid fun w => ({ w with q := AL.upd w.q n fun q => { q with bufs := q.bufs ++ [e], coming := none } }).queueWake n s.now

/-- An answer or refusal of another package for an entry that is being fetched (R217, R250): an answer raises the queue's time for the line's die (R176). -/
def State.strmAnswer (s : State) (wid n : Nat) (r : LineReq) (f : StreamEntry → StreamEntry) : State :=
  match (AL.get? (s.warpOf wid).q n).bind (·.coming) with
  | some (e, ids) =>
    if !ids.contains r.id then s
    else
      let s1 := s.updWarp wid fun w => { w with q := AL.upd w.q n fun q => { q with pts := ptsUp q.pts (farDie r.line) r.wts } }
      if ids.length ≤ 1 then s1.strFill wid n (f e)
      else s1.updWarp wid fun w => { w with q := AL.upd w.q n fun q => { q with coming := some (f e, ids.erase r.id) } }
  | none => s

/-- The lines that an entry's elements lie on, with the domains of their pages. -/
def State.entryLines (s : State) (bid : Nat) (q : StreamQ) (j : Nat) : List (Nat × Nat) :=
  let b := s.blockOf bid
  ((strElems q.record j).filterMap fun i => (strAddr q.record i).bind fun a => match (s.translate b.core b.vf a).1 with
    | .ok spa _ _ _ _ dom => some (spa / 256, dom)
    | _ => none).eraseDups

/-- A line of an entry cannot be reached now: another block holds it, an access that came before waits there, its die switches its mode (R161, R171, R184), or the VF's partition has no turn (R296). -/
def State.fetchHeld (s : State) (wid n : Nat) (q : StreamQ) (j : Nat) : Bool :=
  let bid := (s.warpOf wid).bid
  (s.entryLines bid q j).any fun x => !s.engFree (.strm wid n) x.1 || !s.tdmAllows (s.blockOf bid).vf x.2 x.1

/-- The entry that a bound queue could fetch next, but for what stands at its lines: one is left, and a buffer of its four or a free one (R216). -/
def State.nextFetch (s : State) (wid n : Nat) : Option (StreamQ × Nat) :=
  (AL.get? (s.warpOf wid).q n).bind fun q =>
    let j := q.pops + q.bufs.length
    if j < strEntries q.record && q.bufs.length < 64 && q.coming.isNone && s.beforeDone q.before &&
        (q.bufs.length < 4 || 0 < s.freeBuffers (s.blockOf (s.warpOf wid).bid).core) then some (q, j) else none

/-- A bound queue can take another entry now. -/
def State.canFetch (s : State) (wid n : Nat) : Bool := (s.nextFetch wid n).any fun x => s.strLogged wid x.1 || !s.fetchHeld wid n x.1 x.2

/-- STREAM_FETCH (R217, R218): a check run takes the elements of writable records from its log, so nothing is read for them. -/
def execStreamFetch (wid n : Nat) (s : State) : Host.Outcome State Fault Refusal :=
  .next (if !s.canFetch wid n then s
    else match s.nextFetch wid n with
      | none => s
      | some (q, j) =>
        let b := s.blockOf (s.warpOf wid).bid
        let t := s.taskOf b.vf b.task
        let ((e0, far), s1) := if s.strLogged wid q then
            let (e, s1) := s.strBlank wid q j 0
            ((e, []), s1)
          else s.fetchEntry wid n q j
        let e : StreamEntry := { e0 with viol := if t.pureNow || b.isCheck then t.strViol q.record j else none }
        if far.isEmpty then s1.strFill wid n e
        else s1.updWarp wid fun w => { w with q := AL.upd w.q n fun q => { q with coming := some (e, far) } })

end Sys2Proof.Machine
end

