-- ==== Sys2Proof/Machine/HomeEvents.lean ====
section
/-! DEFINITION. Line requests at their home slices, their answers, write-backs, and the switch between leases and the directory (R161 to R164, R170, R171, R173, R176, R177, R184, R236, R253 to R256, R296, R308, R309). -/

set_option Elab.async false

namespace Sys2Proof.Machine

/-- A line request by identifier. -/
def State.lineReq (s : State) (id : Nat) : Option LineReq := s.mm.reqs.find? fun r => r.id == id

/-- Change a line request. -/
def State.updReq (s : State) (id : Nat) (f : LineReq → LineReq) : State :=
  s.modM fun m => { m with reqs := m.reqs.map fun r => if r.id = id then f r else r }

/-- Take a line request away. -/
def State.dropReq (s : State) (id : Nat) : State := s.modM fun m => { m with reqs := m.reqs.filter fun r => r.id != id }

/-- HOLD bit of a package (R308). -/
def State.holdBit (s : State) (x : Nat) : Bool := bitOf (s.reg Config.pf blkFabric (fabOff 16 + 0x9000 + x / 64 * 8)).toNat (x % 64)

/-- A request at the home slice does not pass one, or an engine's access, that arrived before it and waits there no longer for versions (R161, R171). -/
def State.inTurn (s : State) (r : LineReq) : Bool :=
  let first (n : Nat) : Bool := r.stage == 0 || n < r.arrived
  !(s.mm.reqs.any fun q => q.line == r.line && q.stage == 1 && q.id != r.id && first q.arrived && !s.reqHeld q) &&
  !(s.mm.places.any fun p => p.1 == r.line && first p.2.2 && !s.engHeld p.2.1 r.line)

/-- A KIND 2 store waits for loads of the line that were checked against the old tag and can be performed first (R123). -/
def State.tagWaits (s : State) (r : LineReq) : Bool := r.tagset && s.probesOn r.line fun q => q.id < r.id && !r.precedes q

/-- A request can be taken at its home slice now. -/
def State.canServe (s : State) (r : LineReq) : Bool :=
  (r.stage == 0 || (r.stage == 1 && !s.reqHeld r)) && s.orderAllows r && s.inTurn r &&
  (if spaRemote (r.line * 256) then s.adaptive (linePkg r.line) || !s.holdBit (linePkg r.line)
   else !s.switchingDie (homeDie (r.line * 256)) && !s.tagWaits r)

/-! Refusals and requests to other packages (R164, R173, R211, R217, R309, R316) -/

/-- The address of a request's first lane. -/
def LineReq.firstAddr (r : LineReq) : Nat :=
  match r.lanes with
  | l :: _ => r.addr l.1 l.2.1
  | [] => r.va

/-- The trap code and TERM data of an access that another package turns away: a cause of the fabric below 16, or the trap code of the check that its sectors fail there (R254, R255, R309, R311). -/
def refusal (cause : Nat) (write : Bool) : Nat × TermInfo :=
  if cause < 16 then (tcAccess, ⟨cause, 0, 0, write, none, none⟩) else (cause, .error cause write)

/-- The cause that a refused access gives in AUX of a stopped copy (R212): an invalid page's stands beside the fabric's own (log entry 39). -/
def refusalAux (cause : Nat) : Nat := if cause < 16 then cause - 1 else if cause = tcUncorr then 0 else 4

/-- Change the first transfer of a function. -/
def updFirst (p : DcopyXfer → Bool) (f : DcopyXfer → DcopyXfer) : List DcopyXfer → List DcopyXfer
  | [] => []
  | x :: r => if p x then f x :: r else x :: updFirst p f r

/-- Change the transfer of a function that waits for a request. -/
def State.updXfer (s : State) (fn id : Nat) (f : DcopyXfer → DcopyXfer) : State :=
  { s with dcopy := updFirst (fun x => x.fn == fn && x.far == some id) f s.dcopy }

/-- A function's timestamp for a die (R168, R174, R175). -/
def State.dcopyTime (s : State) (fn die : Nat) : BitVec 40 := Tbl.get (AL.getD s.dcopyPts fn []) die

/-- Raise a function's timestamp for a die. -/
def State.dcopyRaise (s : State) (fn die : Nat) (t : BitVec 40) : State :=
  { s with dcopyPts := AL.put s.dcopyPts fn (ptsUp (AL.getD s.dcopyPts fn []) die t) }

/-- The bytes that a request's lanes have brought, lane after lane. -/
def LineReq.gotBytes (r : LineReq) : List Nat := r.lanes.flatMap fun l => leBytes r.width ((AL.get? r.got l.1).getD 0).toNat

/-- Another package's answer to a driver copy's piece (R316). -/
def State.xferAnswer (s : State) (fn : Nat) (r : LineReq) : State :=
  match s.dcopy.find? fun x => x.fn == fn && x.far == some r.id with
  | none => s
  | some x =>
    let s1 := (s.updXfer fn r.id fun x => { x with pos := x.pos + r.lanes.length * r.width, far := none }).dcopyRaise fn (farDie r.line) r.wts
    if r.kind = 0 then { s1 with host := Tbl.setBytes s1.host (x.haddr + x.pos) r.gotBytes } else s1

/-- A path waits for a word of its instruction that a request brings. -/
def State.fetches (s : State) (wid : Nat) (b : Bool) (id : Nat) : Bool :=
  AL.has s.warps wid && ((s.warpOf wid).path b).st == .operandWait (.fetch id)

/-- The access of a request ends in a terminal trap (R309, R311, R154); an entry of an engine stops there (R211, R217; log entry 39), and a driver copy ends as on an invalid page or a failing source (R316; log entry 39). -/
def State.reqRefused (s : State) (r : LineReq) (cause : Nat) : State :=
  let s1 := s.dropReq r.id
  let (code, ti) := refusal cause (r.kind != 0)
  match r.eng with
  | some (.copy b q id) => s1.farFailed b q id r cause
  | some (.strm w n) => s1.strmAnswer w n r fun e => e.failAt ⟨(r.lanes.head?.map (·.1)).getD 0, code, r.firstAddr, ti.cause, 0, 0, none⟩
  | some (.jig vf name) => s1.jigStop vf name code (refusalAux cause) r.firstAddr (0, 0, none)
  | some (.dcopy fn) => s1.updXfer fn r.id fun x => { x with far := none, stop := some (if cause < 16 then 3 else if cause = tcUncorr then 6 else 7) }
  | some (.fetch wid b) =>
    if s1.fetches wid b r.id then
      let pc := ((s1.warpOf wid).path b).pc
      s1.trapAt wid b code pc pc (BitVec.ofNat 57 r.firstAddr) ti
    else s1
  | some _ => s1
  | none =>
    if AL.has s.warps r.wid && !r.isPf then
      s1.trapAt r.wid r.pathB code r.xpc ((s1.warpOf r.wid).path r.pathB).pc (BitVec.ofNat 57 r.firstAddr) ti
    else s1

/-- Send the request for a line of another package (R164, R173, R306): what happens there is outside the model. -/
def State.sendRemote (s : State) (r : LineReq) : State :=
  let x := linePkg r.line
  if !s.routed 16 x then (s.countRefused 16 7).reqRefused r 7
  else
    let ad := s.adaptive x
    let acc : FlitAcc := ⟨r.kind, r.op, r.et, r.width, r.lanes.map fun l => (l.1, l.2.1, l.2.2.1.toNat, l.2.2.2.toNat), if r.tagset then some r.tag else none⟩
    let f : Flit := ⟨s.pkgid, x, s.pkey r.vf, if ad then 2 else 0, r.line * 256 % 2 ^ 38, [], (s.farPts r).toNat, r.id, 0, some acc⟩
    (s.updReq r.id fun q => { q with stage := 4, adaptive := ad }).sendOut f

/-! Serving a request -/

/-- Sectors of a request's lanes. -/
def LineReq.needs (r : LineReq) : BitVec 4 := sectorMask (r.lanes.map fun l => (l.1, l.2.1))

/-- Sectors an L1 copy may take: those among the needed ones that memory can give whole. -/
def State.goodSectors (s : State) (line : Nat) (need : BitVec 4) : BitVec 4 :=
  [0, 1, 2, 3].foldl (fun (m : BitVec 4) k =>
    let sec := line * 4 + k
    let bad := s.mm.poison.contains sec || s.macFails sec || s.mm.treeBad.contains (sec / 64) || AL.has s.mm.upsets sec
    if need.getLsbD k && !bad then m ||| (1#4 <<< k) else m) 0

/-- The helper lanes of a request (R19). -/
def State.reqHelpers (s : State) (r : LineReq) : Word :=
  match (s.warpOf r.wid).pend.find? fun p => r.pend == some p.id with
  | some p => p.helpers
  | none => 0

/-- The tag of a load's sector is no longer the one its record gives (R122 check 5, R123): it was right at issue, where every line of an instruction is checked, and a KIND 2 write that could not wait for the load has changed it since. What a store or atomic found at issue stands. -/
def State.laneTagBad (s : State) (r : LineReq) (off : Nat) : Bool := r.kind == 0 && !r.isPf && s.ownTag r.bid (r.line * 256 + off) != r.tag

/-- The first lane whose tag fails at home, helper lanes apart: its address. -/
def State.reqTagFails (s : State) (r : LineReq) : Option Nat :=
  let h := s.reqHelpers r
  (r.lanes.find? fun l => !h.getLsbD l.1 && s.laneTagBad r l.2.1).map fun l => r.addr l.1 l.2.1

/-- Check the bytes that lanes read from memory (R254, R255): the trap code and address of the first failing lane, and the helper lanes that fail, which are not performed (R19). -/
def State.checkLanes (s : State) (r : LineReq) : Option (Nat × Nat) × List Nat × State :=
  let h := s.reqHelpers r
  r.lanes.foldl (fun (acc : Option (Nat × Nat) × List Nat × State) l =>
    match acc.1, acc.2.2.readVa r.core r.vf r.dom (r.addr l.1 l.2.1) (r.line * 256 + l.2.1) r.width with
    | some _, _ => acc
    | none, (some c, s1) => if h.getLsbD l.1 then (none, l.1 :: acc.2.1, acc.2.2) else (some (c, r.addr l.1 l.2.1), acc.2.1, s1)
    | none, (none, s1) => (none, if s1.laneTagBad r l.2.1 then l.1 :: acc.2.1 else acc.2.1, s1)) (none, [], s)

/-- An access that ends without its result owes no register any more. -/
def State.cancelPend (s : State) (wid pid : Nat) : State :=
  match (s.warpOf wid).pend.find? fun p => p.id == pid with
  | none => s
  | some p => s.finishPend wid { p with kind := 2 }

/-- Take the requests of an instruction away. -/
def State.dropIns (s : State) (wid ins : Nat) : State := s.modM fun m => { m with reqs := m.reqs.filter fun r => !(r.wid == wid && r.ins == ins && r.eng.isNone) }

/-- A request that failed its check at home: the trap of its warp, and none of the instruction's lines is performed any more (R122, R254, R255, R326). A TAG trap that comes so late is taken at the instruction itself, as a recoverable code is (R277); log entry 98. -/
def State.reqTrap (s : State) (r : LineReq) (code addr : Nat) : State :=
  if AL.has s.warps r.wid && !r.isPf then
    let s1 := s.dropIns r.wid r.ins
    let s2 := match r.pend with
      | some p => s1.cancelPend r.wid p
      | none => s1
    s2.trapAt r.wid r.pathB code r.xpc (if recoverable code then r.xpc else ((s2.warpOf r.wid).path r.pathB).pc) (BitVec.ofNat 57 addr) (.error code (r.kind != 0))
  else s.dropReq r.id

/-- The tags of a line's sectors. -/
def State.lineTags (s : State) (line : Nat) : BitVec 16 :=
  BitVec.ofNat 16 (s.tagAt (line * 256) + s.tagAt (line * 256 + 64) * 16 + s.tagAt (line * 256 + 128) * 256 + s.tagAt (line * 256 + 192) * 4096)

/-- A load at home (R176): the lease, the line for the L1 copy, and the lanes' values as the block sees them. No lease is taken on a window line (R170). -/
def State.serveLoad (s : State) (r : LineReq) : State :=
  match s.checkLanes r with
  | (some (c, a), _, s1) => s1.reqTrap r c a
  | (none, bad, s1) =>
    let d := homeDie (r.line * 256)
    let late := s1.openBefore r
    let (w, t, s2) := if r.win then (Tbl.get s1.mm.wts r.line, Tbl.get s1.mm.rts r.line, s1)
      else s1.homeLease r.line r.core (s1.agentPts r.wid d) (s1.lease r.vf)
    let vals : AL Rec := r.lanes.map fun l => (l.1, if bad.contains l.1 then 0 else BitVec.ofNat 128 (leNat (s2.ownBytes r.bid (r.line * 256 + l.2.1) r.width)))
    let fill := BitVec.ofNat 2048 (leNat (s2.memBytes (r.line * 256) 256))
    let secs := if r.win then 0 else s2.goodSectors r.line r.needs
    let tags := s2.lineTags r.line
    s2.updReq r.id fun q => { q with stage := 2, wts := w, rts := t, fill := fill, sectors := secs, tags := tags, got := vals, withheld := late }

/-- The bytes a store writes in its line (R125). -/
def LineReq.stored (r : LineReq) : List (Nat × Nat) :=
  lineBytes r.width (r.lanes.map fun l => (l.1, (l.2.2.1.toNat, 0))) (r.lanes.map fun l => (l.1, l.2.1))

/-- A store of a run that holds its versions (R171, R261): it is performed as far as the run is concerned. -/
def State.holdStore (s : State) (r : LineReq) : State :=
  (((s.holdLine r.bid r.line r.stored (if r.tagset then some r.tag else none)).updReq r.id fun q => { q with stage := 2, wts := 0 })).spillCheck r.bid

/-- A store at home (R125, R171, R176): held as versions, or applied at a time of its own. -/
def State.serveStore (s : State) (r : LineReq) : State :=
  if (s.blockOf r.bid).holds then s.holdStore r
  else
    let (t, s1) := s.homeTime r.line (s.reqPts r)
    (s1.applyLine r.dom r.line r.stored (if r.tagset then some r.tag else none)).updReq r.id fun q => { q with stage := 2, wts := t }

/-- The lanes of an atomic in ascending order over bytes of the line: old values, and bytes written (R125, R347). -/
def atomLanes (op : AtomOp) (et width : Nat) : AL Nat → List (Nat × Nat × Rec × Rec) → AL Rec × AL Nat
  | bytes, [] => ([], bytes)
  | bytes, (l, o, x, c) :: r =>
    let n := 2 ^ (8 * width)
    let old := leNat ((List.range width).map fun i => AL.getD bytes (o + i) 0)
    let new := atomNew op et width old (x.toNat % n) (c.toNat % n)
    let bytes1 := if atomWrites op old (c.toNat % n) then
        ((leBytes width new).zip (List.range width)).foldl (fun t e => AL.put t (o + e.2) e.1) bytes
      else bytes
    let (olds, bytes2) := atomLanes op et width bytes1 r
    ((l, BitVec.ofNat 128 old) :: olds, bytes2)

/-- The offsets an atomic's lanes write. -/
def atomWritten (op : AtomOp) (width : Nat) (lanes : List (Nat × Nat × Rec × Rec)) (olds : AL Rec) : List Nat :=
  sortNub (lanes.flatMap fun e =>
    if atomWrites op ((AL.get? olds e.1).getD 0).toNat (e.2.2.2.toNat % 2 ^ (8 * width)) then (List.range width).map fun i => e.2.1 + i else [])

/-- An atomic at home (R171, R173, R176): it is never held, and it also writes the versions its block holds of the bytes it touches. -/
def State.serveAtomic (s : State) (r : LineReq) : State :=
  match s.checkLanes r with
  | (some (c, a), _, s1) => s1.reqTrap r c a
  | (none, _, s1) =>
    let bid := r.bid
    let base := r.line * 256
    let touched := sortNub (r.lanes.flatMap fun l => (List.range r.width).map fun i => l.2.1 + i)
    let start : AL Nat := touched.map fun o => (o, (s1.ownByte bid (base + o)).toNat)
    let (olds, after) := atomLanes r.op r.et r.width start r.lanes
    let bs := (atomWritten r.op r.width r.lanes olds).map fun o => (o, AL.getD after o 0)
    let heldLanes := r.lanes.filter fun l => (List.range r.width).any fun i => AL.has (s1.blockOf bid).set.bytes (base + l.2.1 + i)
    let heldOff := atomWritten r.op r.width heldLanes olds
    let (t, s2) := s1.homeTime r.line (s1.reqPts r)
    let s3 := s2.applyLine r.dom r.line bs none
    let s4 := if heldOff.isEmpty then s3 else s3.holdLine bid r.line (bs.filter fun b => heldOff.contains b.1) none
    (s4.updBlock bid fun b => { b with atoms := true }).updReq r.id fun q => { q with stage := 2, wts := t, got := olds }

/-- A path whose access meets a held line enters Clamp-wait (R27, R171). -/
def Path.clamp (p : Path) (id : Nat) : Path :=
  match p.st with
  | .ready => { p with st := .clampWait [id] [], waited := false }
  | .operandWait (.regs _) => { p with st := .clampWait [id] [], waited := false }
  | .operandWait (.window _) => { p with st := .clampWait [id] [], waited := false }
  | .clampWait ids ls => { p with st := .clampWait (insSorted id ids) ls }
  | _ => p

/-- The access waits at the held line, in its place among the requests that have arrived (R161, R171). A prefetch is given up (R396). -/
def State.clampReq (s : State) (r : LineReq) : State :=
  if r.isPf then s.dropReq r.id
  else
    let (k, s1) := s.fresh
    let s2 := s1.updReq r.id fun q => { q with stage := 1, arrived := if r.stage = 1 then r.arrived else k + 1 }
    if r.eng.isSome then s2 else s2.updWarp r.wid fun w => w.setPath r.pathB ((w.path r.pathB).clamp r.id)

/-- HOME_SLICE_REQUEST (R161 to R164, R171, R173, R176). -/
def execHomeSliceRequest (id : Nat) (s : State) : Host.Outcome State Fault Refusal :=
  match s.lineReq id with
  | none => .next s
  | some r =>
    if !s.canServe r then .next s
    else if s.reqHeld r then .next (s.clampReq r)
    else if spaRemote (r.line * 256) then .next (if r.kind = 1 ∧ (s.blockOf r.bid).holds then s.holdStore r else s.sendRemote r)
    else if !spaHere (r.line * 256) then .fault (.noSuchAddress (r.line * 256))
    else
      let s1 := s.lineDomain r.line r.dom
      .next (match s1.reqTagFails r with
        | some a => s1.reqTrap r tcTag a
        | none => match r.kind with
          | 0 => s1.serveLoad r
          | 1 => s1.serveStore r
          | _ => s1.serveAtomic r)

/-! Answers -/

/-- The times of an answer reach the entries of the engines that come after the access (R168, R169). -/
def ptsAfter (before : List Nat) (pts : Tbl 40) (r : LineReq) (d : Nat) : Tbl 40 :=
  if before.contains r.id || r.mat.any before.contains then ptsUp pts d r.wts else pts

/-- An answer raises the warp's time for the line's die, and those of the engine entries that come after the access (R168, R169, R176). -/
def State.answerPts (s : State) (r : LineReq) : State :=
  let d := if spaRemote (r.line * 256) then farDie r.line else homeDie (r.line * 256)
  let s1 := s.updWarp r.wid fun w => { w.raisePts d r.wts with q := w.q.map fun (q : Nat × StreamQ) => (q.1, { q.2 with pts := ptsAfter q.2.before q.2.pts r d }) }
  s1.updBlock r.bid fun b => { b with queues := b.queues.map fun (c : Nat × CopyQueue) =>
    (c.1, { c.2 with entries := c.2.entries.map fun e => { e with pts := ptsAfter e.before e.pts r d } }) }

/-- Values go to the pending access they belong to. -/
def State.answerVals (s : State) (r : LineReq) : State :=
  match r.pend with
  | some p => s.answerPend r.wid p r.id r.got
  | none => s

/-- The answer to an engine's request for a line of another package (R209, R217, R250, R270, R316). A word of an instruction stays with its path until it issues. -/
def State.engAnswer (s : State) (e : EngRef) (r : LineReq) : State :=
  match e with
  | .copy b q id => s.farDone b q id r
  | .jig vf name => s.jigAnswer vf name r
  | .strm w n => s.strmAnswer w n r fun e =>
      r.lanes.foldl (fun (e : StreamEntry) l => { e with elems := AL.put e.elems l.1 (BitVec.ofNat 32 ((AL.get? r.got l.1).getD 0).toNat) }) e
  | .dcopy fn => s.xferAnswer fn r
  | .fetch wid b =>
    if s.fetches wid b r.id then
      s.wakePath wid b fun p => { p with fetched := r.lanes.foldl (fun t l => AL.put t (r.line * 256 + l.2.1) ((AL.get? r.got l.1).getD 0).toNat) p.fetched }
    else s
  | _ => s

/-- An atomic performed at another package counts for its block, as one performed here does (R173, R239). -/
def State.farAtom (s : State) (r : LineReq) : State :=
  if r.kind = 2 ∧ spaRemote (r.line * 256) then s.updBlock r.bid fun b => { b with atoms := true } else s

/-- STORE_ACK (R176): of a store or an atomic, whose old values come with it. -/
def execStoreAck (id : Nat) (s : State) : Host.Outcome State Fault Refusal :=
  .next (match s.lineReq id with
    | none => s
    | some r => if r.kind = 0 ∨ r.stage ≠ 2 then s
      else match r.eng with
        | some e => (s.dropReq id).engAnswer e r
        | none => ((((s.dropReq id).farAtom r).answerPts r).answerVals r))

/-- The L1 copy a load's answer brings: newer data replace older, and equal versions join (R176). -/
def State.installL1 (s : State) (r : LineReq) : State :=
  let k := l1Key r.core r.line
  if r.sectors = 0 || r.win || spaRemote (r.line * 256) then s
  else
    let mask := (List.range 4).foldl (fun m i => if r.sectors.getLsbD i then m + (2 ^ 512 - 1) * 2 ^ (512 * i) else m) 0
    let tmask := (List.range 4).foldl (fun m i => if r.sectors.getLsbD i then m + 15 * 16 ^ i else m) 0
    let new : L1Line := ⟨r.dom, r.sectors, r.fill, r.wts, r.rts, r.tags⟩
    match AL.get? s.mm.l1 k with
    | some c =>
      if r.wts.toNat < c.wts.toNat then s
      else if c.dom = r.dom ∧ c.wts = r.wts then
        let bytes := BitVec.ofNat 2048 ((c.bytes.toNat &&& (2 ^ 2048 - 1 - mask)) ||| (r.fill.toNat &&& mask))
        s.modM fun m => { m with l1 := AL.put m.l1 k ⟨c.dom, c.sectors ||| r.sectors, bytes, c.wts, if c.rts.toNat < r.rts.toNat then r.rts else c.rts,
          BitVec.ofNat 16 ((c.tags.toNat &&& (2 ^ 16 - 1 - tmask)) ||| (r.tags.toNat &&& tmask))⟩ }
      else s.modM fun m => { m with l1 := AL.put m.l1 k new }
    | none => s.modM fun m => { m with l1 := AL.put m.l1 k new }

/-- A load has to be performed again (R177): it passed an earlier access whose time its lease does not cover. Under the directory every load that passed one is. -/
def State.stale (s : State) (r : LineReq) : Bool :=
  let d := homeDie (r.line * 256)
  !r.withheld.isEmpty && (s.inDirMode d || r.rts.toNat < (s.agentPts r.wid d).toNat)

/-- A load's answer reaches its warp, or its prefetch the L1 (R176, R177). -/
def State.loadAnswer (s : State) (r : LineReq) : State :=
  if r.isPf then (s.installL1 r).dropReq r.id
  else if !(s.openBefore r).isEmpty then (s.installL1 r).updReq r.id fun q => { q with stage := 3, sectors := 0 }
  else if s.stale r then s.updReq r.id fun q => { q with stage := 0, got := [], withheld := [] }
  else (((s.installL1 r).dropReq r.id).answerPts r).answerVals r

/-- LOAD_RESPONSE (R176, R177): withheld while an earlier access of the warp to the die is not complete. -/
def execLoadResponse (id : Nat) (s : State) : Host.Outcome State Fault Refusal :=
  .next (match s.lineReq id with
    | none => s
    | some r =>
      if r.kind ≠ 0 ∨ (r.stage ≠ 2 ∧ r.stage ≠ 3) then s
      else match r.eng with
        | some e => (s.dropReq id).engAnswer e r
        | none => s.loadAnswer r)

/-- WRITE_BACK (R253 to R255). -/
def execWriteBack (line : Nat) (s : State) : Host.Outcome State Fault Refusal := .next (s.writeBackLine line)

/-! Directory mode (R184, R185) -/

/-- DIRECTORY_MODE_SWITCH (R184): accesses to the die's lines wait until the switch is complete. Cause 0 is the switch to leases. -/
def execDirectoryModeSwitch (die cause : Nat) (s : State) : Host.Outcome State Fault Refusal :=
  .next (if 4 ≤ die ∨ 4 < cause ∨ s.switchingDie die then s
    else s.modM fun m => { m with switching := AL.put m.switching die cause })

/-- DIRECTORY_SWITCH_DONE (R184): every L1 copy of the die's lines is gone. -/
def execDirectorySwitchDone (die : Nat) (s : State) : Host.Outcome State Fault Refusal :=
  .next (s.endSwitch die)

/-- WALK_COMPLETE (R140 to R142): the caches keep a successful walk, and nothing of another. -/
def execWalkComplete (core vf va : Nat) (s : State) : Host.Outcome State Fault Refusal :=
  .next (s.translate core vf (va % 2 ^ 57)).2

end Sys2Proof.Machine
end

