-- ==== Sys2Proof/Machine/Control.lean ====
section
/-! DEFINITION. Control transfer, divergence, traps, rewind points and roles (R23 to R26, R78 to R84, R279, R281, R284, R324, R353, R358, R359, R363, R366, R367, R403, R405 to R409, R436, R459, R462). -/

set_option Elab.async false

namespace Sys2Proof.Machine

/-- The target of a signed word offset from an instruction; it wraps modulo 2^57 (R324). -/
def target (pc : VAddr) (off : Int) : VAddr := BitVec.ofInt 57 (pc.toNat + 4 * off)

/-- `nop` (R391). -/
def execNop (s : State) : Host.Outcome State Fault Refusal := .next (s.advance 4)

/-- `exit` (R363). -/
def execExit (s : State) : Host.Outcome State Fault Refusal := .next (s.ending State.exitLanes)

/-- LEASE + 1 added to a timestamp of each die; it stays below 2^40 (log entry 16). -/
def yieldPts (t : Tbl 40) (lease : Nat) : Tbl 40 :=
  [0, 1, 2, 3].foldl (fun a d => Tbl.set a d (BitVec.ofNat 40 (min (2 ^ 40 - 1) ((Tbl.get t d).toNat + lease + 1)))) []

/-- `yield` (R462). -/
def execYield (s : State) : Host.Outcome State Fault Refusal :=
  .next ((((s.modW fun w => { w with pts := yieldPts w.pts (s.lease s.blk.vf) }).advance 4).wait (.sleepYield (s.now + 64))))

/-- `trap sA` (R279, R436); in recipe mode it traps ILLOP. -/
def execTrap (a : Nat) (s : State) : Host.Outcome State Fault Refusal :=
  .next (if s.w.recipe then s.illop else s.trap tcSoft ((s.rS a).toNat % 2 ^ 57))

/-- `brkpt` (R290, R291, R358). -/
def execBrkpt (s : State) : Host.Outcome State Fault Refusal :=
  .next (if s.checkRun then s.advance 4
    else if s.den s.blk.vf then (s.advance 4).debugStopAt s.cur s.curB 0 1
    else s.trap tcBreak 0)

/-- Where `eret` goes on (R279). -/
def Warp.eretPc (w : Warp) (a codeva : Nat) (x : DWord) : VAddr :=
  if a = 0 then (if w.xcode.toNat = tcSoft ∨ w.xcode.toNat = tcBreak then w.xfirst + 4 else w.xfirst)
  else BitVec.ofNat 57 (codeva + x.toNat)

/-- The handler has diverged and not reconverged: it split its warp, or in a warp that was split at the trap it has pushed entries that no `join` has popped; log entry 17. -/
def State.handlerApart (s : State) : Bool :=
  s.w.split && (!(s.w.path (!s.curB)).held || s.w.handlerDepth < s.path.depth)

/-- `eret` (R279, R362). -/
def execEret (a : Nat) (s : State) : Host.Outcome State Fault Refusal :=
  .next (
    let w := s.w
    if w.recipe || !w.inHandler || s.handlerApart || (a != 0 && (s.rS a).toNat % 4 != 0) then s.illop
    else s.modW fun w =>
      let p := w.path s.curB
      let o := w.path (!s.curB)
      let w1 := w.setPath s.curB { p with pc := w.eretPc a s.codeva (w.rS a), mode := w.xmode, fmt := w.xfmt, waited := false }
      { w1.setPath (!s.curB) { o with held := false, since := if o.held then s.now else o.since } with inHandler := false, point := none })

/-- The registers an `rwp` names: v registers in its group, beyond the allotment or not. -/
def rwpVBad (r : RwpArgs) (allot : Nat) : Bool := (List.range 16).any fun i => bitOf r.vmask i && allot ≤ 16 * r.vgrp + i

/-- The word and literal of an `rwp` (R281). -/
def rwpWord (r : RwpArgs) : Word := BitVec.ofNat 32 (0x00180000 + r.sgrp * 2 ^ 16 + r.vgrp * 2 ^ 12 + (r.roff % 4096).toNat)
def rwpLit (r : RwpArgs) : Word := BitVec.ofNat 32 (r.vmask + r.smask * 2 ^ 16)

/-- The point an `rwp` makes (R281, R231). -/
def Warp.pointAt (w : Warp) (r : RwpArgs) : RewindPoint where
  pc := w.pathA.pc
  word := rwpWord r
  lit := rwpLit r
  live := w.live
  pops := w.q.map fun e => (e.1, e.2.pops)
  sig := w.pathA.sig
  acc := w.acc
  seqA := w.pathA.logSeq
  seqB := w.pathB.logSeq
  accsA := w.pathA.accs
  accsB := w.pathB.accs

/-- Make the warp's valid point; a warp that ran on for pre-emption stops here and is saved reduced, or full for the debugger (R286, R290). -/
def State.makePoint (s : State) (r : RwpArgs) : State :=
  let pre := s.blk.pre
  (s.modW fun w => { w with point := some (w.pointAt r), recipe := false,
                            saved := match w.saved, pre with
                              | none, some (_, full) => some (!full)
                              | x, _ => x }).advance 8

/-- `rwp` (R281, R284, R408, R409). -/
def execRwp (r : RwpArgs) (s : State) : Host.Outcome State Fault Refusal :=
  .next (
    let w := s.w
    if rwpVBad r w.allot then s.illop
    else if w.recipe then (if w.point.any fun (p : RewindPoint) => p.pc == s.path.pc then s.makePoint r else s.illop)
    else if w.inHandler || w.split then s.noPoint.advance 8
    else s.makePoint r)

/-- `join` (R80, R367). -/
def execJoin (s : State) : Host.Outcome State Fault Refusal :=
  .next (s.orStop (s.joinAt s.path.pc (s.path.depth + 2)))

/-- A jump to a register-held code offset (R366, R405). -/
def State.jumpReg (s : State) (a : Nat) : State :=
  if (s.rS a).toNat % 4 ≠ 0 then s.illop else s.jump (BitVec.ofNat 57 (s.codeva + (s.rS a).toNat))

/-- `ret` (R405). -/
def execRet (a : Nat) (s : State) : Host.Outcome State Fault Refusal := .next (s.jumpReg a)

/-- `jmpr` (R366). -/
def execJmpr (a : Nat) (s : State) : Host.Outcome State Fault Refusal := .next (s.jumpReg a)

/-- Write the helper bit (R18, R403). -/
def State.setHelper (s : State) (b : Bool) : State := s.ending fun s => (s.modW fun w => { w with helper := b }).advance 4

/-- `qhelp.on` (R403). -/
def execQhelpOn (s : State) : Host.Outcome State Fault Refusal := .next (s.setHelper true)

/-- `qhelp.off` (R403). -/
def execQhelpOff (s : State) : Host.Outcome State Fault Refusal := .next (s.setHelper false)

/-- `bra` (R353). -/
def execBra (off : Int) (s : State) : Host.Outcome State Fault Refusal := .next (s.jump (target s.path.pc off))

/-- The link `call` writes (R353). -/
def linkOf (pc : VAddr) (codeva : Nat) : DWord := BitVec.ofNat 64 ((pc.toNat + 2 ^ 57 - codeva) % 2 ^ 57 + 4)

/-- `call` (R353, R354). -/
def execCall (off : Int) (s : State) : Host.Outcome State Fault Refusal :=
  .next (s.writing [.s 63] fun s => (s.writeS 63 (linkOf s.path.pc s.codeva)).jump (target s.path.pc off))

/-- A `bs` condition on a signed value (R359). -/
def bsHolds (c : BsCond) (x : Int) : Bool :=
  match c with
  | .z => x == 0 | .nz => x != 0 | .lt => decide (x < 0) | .ge => decide (0 ≤ x) | .le => decide (x ≤ 0) | .gt => decide (0 < x)

/-- `bs` (R359). -/
def execBs (c : BsCond) (a : Nat) (off : Int) (s : State) : Host.Outcome State Fault Refusal :=
  .next (if bsHolds c (s.rS a).toInt then s.jump (target s.path.pc off) else s.advance 4)

/-! Divergence -/

/-- A new arm of a top split (R78): the stream of path B keeps its place in the log. -/
def Path.arm (p : Path) (pc : VAddr) (mask : Word) (str : Path) (now : Nat) (codeva : Nat) : Path :=
  { p with pc := pc, mask := mask, stack := [], spilled := 0, st := .ready, held := false, waited := false, logSeq := str.logSeq, accs := str.accs,
           windows := [], reads := [], folds := [], sig := segStart codeva pc mask, since := now, promoted := false, passBp := none }

/-- A top split of an undiverged warp (R78, R79, R225). -/
def State.topSplit (s : State) (rc pcA pcB : VAddr) (maskA maskB : Word) : State :=
  let cv := s.codeva
  let now := s.now
  s.modW fun w =>
    let w1 := w.endSegment false
    let p := w1.pathA
    { w1 with
      split := true
      top := ⟨wordOff cv rc, 0, 0, 0, p.mode, p.fmt⟩
      pathA := p.arm pcA maskA p now cv
      pathB := p.arm pcB maskB w1.pathB now cv }

/-- A serial entry of the issuing path (R78, R79). -/
def Path.entry (p : Path) (codeva : Nat) (rc pc : VAddr) (mask : Word) : StackEntry :=
  ⟨wordOff codeva rc, wordOff codeva pc, mask, 0, p.mode, p.fmt⟩

/-- Run lanes at an address, with entries pushed for the rest; STACK above 64 entries (R84). -/
def State.serial (s : State) (mask : Word) (pc : VAddr) (es : List StackEntry) : State :=
  if 64 < s.path.depth + es.length then s.trap tcStack 0
  else s.orStop (do
    let s1 ← s.pushEntries es
    return s1.modPath fun p => { p with mask := mask, pc := pc, waited := false })

/-- `vbr` (R78). -/
def execVbr (p : Nat) (off rc : Int) (s : State) : Host.Outcome State Fault Refusal :=
  .next (
    let a := s.path.mask
    let t := a &&& s.rP p
    let n := a &&& ~~~s.rP p
    let pc := s.path.pc
    let fall := pc + 8
    if n = 0 then s.jump (target pc off)
    else if t = 0 then s.jump fall
    else if s.w.recipe then s.illop
    else if !s.w.split then s.topSplit (target pc rc) (target pc off) fall t n
    else s.serial t (target pc off) [s.path.entry s.codeva (target pc rc) fall n])

/-- The partition of a value among n case bytes (R79). -/
def casePart (n : Nat) (cases x : Nat) : Nat := ((List.range n).find? fun i => x == cases / 2 ^ (8 * i) % 256).getD n

/-- The non-empty partitions in ascending order: target and lanes (R79). -/
def State.parts (s : State) (n va sb : Nat) (table : List Int) : List (VAddr × Word) :=
  let lanes := lanesOf s.path.mask
  (List.range (n + 1)).filterMap fun i =>
    let m := maskOf (lanes.filter fun l => casePart n (s.rS sb).toNat (s.rV va l).toNat == i)
    if m = 0 then none else some (target s.path.pc (table.getD i 0), m)

/-- `vswitch` (R79, R459). -/
def execVswitch (n va sb : Nat) (table : List Int) (s : State) : Host.Outcome State Fault Refusal :=
  .next (
    let rc := target s.path.pc (n + 2)
    let ent (e : VAddr × Word) : StackEntry := s.path.entry s.codeva rc e.1 e.2
    if !s.vOk va then s.illop
    else match s.parts n va sb table with
      | [] => s.jump rc
      | [e] => s.jump e.1
      | e :: f :: r =>
        if s.w.recipe then s.illop
        else if s.w.split then s.serial e.2 e.1 ((f :: r).map ent)
        else
          let es := r.map ent
          let s1 := s.topSplit rc e.1 f.1 e.2 f.2
          s1.modW fun w => { w with pathB := { w.pathB with stack := es } })

/-! Roles -/

/-- A trap ROLE at the `role` of the issuing path, logged by a mortise run (R407). -/
def State.roleTrap (s : State) : State := (s.logVal 9).trap tcRole 0

/-- Wait for a grant, or take it at once (R23, R24, R25). -/
def State.roleWait (s : State) (n : Nat) : State :=
  let q := quarterOf s.cur
  let grows := s.w.allot < s.task.roleV n
  if !grows || ((s.oldestRole s.bid q).isNone && s.roleFits s.cur n) then s.grantRole s.cur n
  else ((s.wait (.roleWait n)).modW fun w => { w with roleSince := s.now }).roleDeadlock s.bid q

/-- `role` (R23 to R25, R406, R407). -/
def execRole (n : Nat) (s : State) : Host.Outcome State Fault Refusal :=
  .next (s.ending fun s =>
    let bad := s.w.split || roleCount s.task.record ≤ n
    let pend := (s.w.pend.flatMap (·.regs)).filter fun r => match r with
      | .v _ => true
      | _ => false
    if s.checkRun then
      match s.logNext with
      | some e =>
        if !LogEntry.is leVal 0 e then s.diverge s.bid
        else if leNat e.payload = 9 then (s.modPath fun p => { p with logSeq := p.logSeq + 1 }).trap tcRole 0
        else if bad then s.diverge s.bid
        else if !pend.isEmpty then s.wait (.operandWait (.regs pend))
        else s.roleWait n
      | none => s.diverge s.bid
    else if bad then s.roleTrap
    else if !pend.isEmpty then s.wait (.operandWait (.regs pend))
    else s.roleWait n)

end Sys2Proof.Machine
end

