-- ==== Sys2Proof/Machine/Matrix.lean ====
section
/-! DEFINITION. The matrix engine and dovetail pairs: issue, start tokens, B-stage slots, and the queue step (R60, R61, R105 to R113, R187 to R204, R373 to R390). -/

set_option Elab.async false

namespace Sys2Proof.Machine

/-! FMT and shapes (R75, R188) -/

def fmtAf (f : Word) : Nat := bits f.toNat 2 0
def fmtBf (f : Word) : Nat := bits f.toNat 5 3
def fmtCf (f : Word) : Nat := bits f.toNat 7 6
def fmtOf (f : Word) : Nat := bits f.toNat 10 8
def fmtDup (f : Word) : Bool := bitOf f.toNat 11
def fmtSpn (f : Word) : Nat := bits f.toNat 13 12
def fmtPair (f : Word) : Bool := bits f.toNat 15 14 == 1

/-- The FMT combination is one of R188. -/
def fmtCombo (f : Word) : Bool :=
  let a := fmtAf f
  let b := fmtBf f
  if fmtCf f = 0 then (a ≤ 1 && (b ≤ 1 || b == 4)) || (a == 2 && (b == 2 || b == 4))
  else fmtCf f == 1 && a == 3 && b == 3

/-- Stored depth (R188, R374). -/
def kstOf (f : Word) : Nat := if fmtBf f = 4 then 128 else if fmtBf f = 2 then 32 else 64

/-- Logical depth (R188). -/
def depthOf (f : Word) : Nat :=
  if fmtDup f then 64 else if fmtSpn f = 2 then 2 * kstOf f else if fmtSpn f = 1 then 4 * kstOf f else kstOf f

/-- Columns of the product. -/
def colsOf (f : Word) : Nat := if fmtPair f then 128 else 64

/-- Bytes of a stored B element. -/
def bBytes (f : Word) : Nat := if fmtBf f = 2 then 2 else 1

/-- No bit outside the listed fields is set: fields as high and low bit. -/
def onlyBits (x : Nat) (fs : List (Nat × Nat)) : Bool :=
  fs.foldl (fun y f => putBits y f.1 f.2 0) x == 0

/-! Units (R241) -/

def State.coreFenced (s : State) (core : Nat) : Bool := s.chk.fenced.contains core
/-- A matrix array is fenced by itself or with its core (R242). -/
def State.arrayFenced (s : State) (core : Nat) : Bool := s.coreFenced core || s.chk.fenced.contains (core + 384)
/-- The other core of a pair. -/
def partner (core : Nat) : Nat := if core % 2 = 0 then core + 1 else core - 1

/-- A core's matrix queue. -/
def State.matQueue (s : State) (core : Nat) : List MatEntry := AL.getD s.eng.matq core []

/-- Change a core's matrix queue. -/
def State.setMatQueue (s : State) (core : Nat) (l : List MatEntry) : State :=
  { s with eng := { s.eng with matq := if l.isEmpty then AL.del s.eng.matq core else AL.put s.eng.matq core l } }

/-! Checks at issue (R191) -/

/-- A tile by handle, as a matrix instruction names it. -/
def State.mtile (s : State) (h : Nat) : Option Tile := s.blk.tile? h

/-- Byte of a table tile at element index i. -/
def State.tabByte (s : State) (bid h i : Nat) : Nat := ((s.tileStore bid h).byte i).toNat

/-- Row counts c0 to c7 of a table (R193). -/
def State.rowCounts (s : State) (bid h : Nat) : List Nat := (List.range 8).map (s.tabByte bid h)

/-- The row-count check (R191 check 5). -/
def countsBad (cs : List Nat) (m : Nat) : Bool := cs.any (fun c => 64 < c) || m < sumNat cs

/-- The metadata check (R191 check 5): n columns of kst stored rows, kpb kept in each block. -/
def metaBad (md : Nat → Nat) (n kst kpb : Nat) : Bool :=
  (List.range (n * kst)).any fun i => 64 ≤ md i || (i % kst % kpb != 0 && md i ≤ md (i - 1))

/-- The map check (R108). -/
def mapBad (x : Nat) : Bool := (List.range 8).any fun i => 64 ≤ bits x (8 * i + 7) (8 * i) && bits x (8 * i + 7) (8 * i) != 255

/-- Kept rows in a 64-position block (R194). -/
def kpbOf (f : Word) : Nat := if fmtSpn f = 1 then 16 else 32

/-- Check 5 of an operation: op 0 mma, 1 mmag, 2 mmas. -/
def State.mmaTablesBad (s : State) (bid op : Nat) (f : Word) (m : Nat) (map : Nat) (tab : Nat) : Bool :=
  (op == 1 && countsBad (s.rowCounts bid tab) m) ||
  (op == 2 && metaBad (s.tabByte bid tab) (colsOf f) (kstOf f) (kpbOf f)) ||
  (op != 2 && fmtDup f && mapBad map)

/-- Check 4 of an operation (R190). -/
def mmaShapeBad (f : Word) (op : Nat) (a c : Tile) (ah ch tab : Nat) (t : Option Tile) : Bool :=
  tileLevel a.desc != 0 || tileEb a.desc != (if fmtAf f = 2 then 1 else 0) || tileCols a.desc != (if fmtDup f then 72 else depthOf f) ||
  64 < tileRows a.desc || !tileAcc c.desc || tileRows c.desc < tileRows a.desc || tileCols c.desc != colsOf f || ah == ch ||
  (op == 1 && (tab == ch || match t with
    | some t => tileEb t.desc != 0 || tileElems t.desc < 8
    | none => true)) ||
  (op == 2 && (tab == ch || match t with
    | some t => tileEb t.desc != 0 || tileElems t.desc < colsOf f * kstOf f
    | none => true))

/-- The matrix instructions share this much of R191: PARTIAL, NOMATRIX, and recipe mode. -/
def State.matrixIssue (s : State) (bad : Bool) (k : State → State) : State :=
  if !s.wholeWarp then s.trap tcPartial 0
  else if s.task.nomatrix || bad then s.illop
  else s.ending k

/-! Entering the queue (R187, R201, R378) -/

/-- The cores whose queues an entry takes a place in. -/
def State.entryCores (s : State) (paired : Bool) : List Nat := if paired then [s.blk.core, partner s.blk.core] else [s.blk.core]

/-- An entry made at issue (R373). -/
def State.matEntry (s : State) (id op : Nat) (wa wb wc : DWord) (sc : Nat) (paired : Bool) : MatEntry where
  id := id
  bid := s.bid
  wid := s.cur
  pathB := s.curB
  xpc := s.path.pc
  op := op
  wa := wa
  wb := wb
  wc := wc
  sc := sc
  fmt := s.path.fmt
  mode := s.path.mode
  paired := paired
  follower := false
  token := none
  elems := []
  tag := 0
  tagset := false
  pend := none

/-- Put an entry into its queues. -/
def State.enqueueMat (s : State) (e : MatEntry) : State :=
  let s1 := s.setMatQueue s.blk.core (s.matQueue s.blk.core ++ [e])
  if e.paired then s1.setMatQueue (partner s.blk.core) (s1.matQueue (partner s.blk.core) ++ [{ e with follower := true }]) else s1

/-- The queue that holds a block's withdrawn operations: no core has it. -/
def heldQueue (bid : Nat) : Nat := Config.cores + bid

/-- A matrix instruction of a block can enter these cores' queues: each has a place, and no withdrawn operation of the block still has to enter before it (R61, R187). -/
def State.matPlace (s : State) (bid : Nat) (cores : List Nat) : Bool :=
  (cores.all fun c => (s.matQueue c).length < 4) && (s.matQueue (heldQueue bid)).isEmpty

/-- Go on when every queue has a place; otherwise wait for one (R187). -/
def State.matRoom (s : State) (paired : Bool) (k : State → State) : State :=
  let cores := s.entryCores paired
  if s.matPlace s.bid cores then k s else s.wait (.operandWait (.matrixPlace cores))

/-- A queued entry, whose instruction has not issued whole: it waits for a start token, stands aside, or stands behind the follower's share of a paired operation (R60, R61, R201). -/
def State.matStands (s : State) (id : Nat) : Bool :=
  s.eng.matq.any fun q => q.2.any (fun m => m.id == id && !m.follower && (m.token.isSome || Config.cores ≤ q.1)) ||
    (q.2.dropWhile fun m => !m.follower).any fun m => m.id == id && !m.follower

/-- A matrix instruction has entered its queue as entry `id`. While the entry stands, its path issues at most LA further instructions (R62, R326, R373): with LA = 0 it stands in Operand-wait at once (DEDUCED, log entry 83). -/
def State.entered (s : State) (id la : Nat) : State :=
  let s1 := s.advance 4
  if !s.matStands id then s1
  else if la = 0 then s1.wait (.operandWait (.token id)) else s1.modPath fun p => { p with windows := p.windows ++ [(id, la)] }

/-- The token request of an entry whose operation finds cores at rest (R60). -/
def State.tokenReq (s : State) (e : MatEntry) (rest : List Nat) : TokenReq :=
  let b := s.blockOf e.bid
  ⟨e.id, dieOf b.core, s.partD b.vf, rest, e.wid⟩

/-- Cores of a list that are at rest (R60). -/
def State.atRest (s : State) (cores : List Nat) : List Nat := cores.filter fun c => !AL.has s.eng.active c

/-- Ask for the start tokens of an entry; its cores leave rest in this clock (R60). -/
def State.askToken (s : State) (e : MatEntry) (rest : List Nat) : State :=
  { s with eng := { s.eng with
    active := rest.foldl (fun a c => AL.put a c s.now) s.eng.active
    tokens := s.eng.tokens ++ [s.tokenReq e rest] } }

/-- Enter an operation, with a start-token request where a core is at rest (R60, R378). -/
def State.enterMma (s : State) (op : Nat) (wa wb wc : DWord) (la : Nat) : State :=
  let f := s.path.fmt
  let paired := fmtPair f && s.blk.pair == .paired
  s.matRoom paired fun s =>
    let (id, s1) := s.fresh
    let e := s1.matEntry id op wa wb wc 0 paired
    let rest := s1.atRest (s1.entryCores paired)
    let s2 := s1.foldPendAs 2 id
    (if rest.isEmpty then s2.enqueueMat e else (s2.enqueueMat { e with token := some id }).askToken e rest).entered id la

/-- `mma`, `mmag` and `mmas` (R191, R377, R378). -/
def State.mmaIssue (s : State) (op : Nat) (wa : DWord) (sb : Nat) (map tab : DWord) (la : Nat) : State :=
  let f := s.path.fmt
  let w := wa.toNat
  let bad := !onlyBits w [(5, 0), (13, 8), (18, 16), (24, 24)] || !fmtCombo f || (op != 2 && fmtSpn f != 0) ||
    (op == 2 && (fmtSpn f == 0 || fmtDup f)) || (fmtDup f && 1 < fmtAf f) || (fmtPair f && s.blk.pair == .none) || (!fmtDup f && sb != 0)
  s.matrixIssue bad fun s =>
    let ah := bits w 5 0
    let ch := bits w 13 8
    let t := if op = 0 then none else s.mtile tab.toNat
    match s.mtile ah, s.mtile ch with
    | some a, some c =>
      if op != 0 && t.isNone then s.trap tcHandle 0
      else if mmaShapeBad f op a c ah ch tab.toNat t then s.trap tcBounds 0
      else if s.mmaTablesBad s.bid op f (tileRows a.desc) map.toNat tab.toNat then s.trap tcBounds 0
      else s.enterMma op wa map tab la
    | _, _ => s.trap tcHandle 0

/-- `mma` (R377, R378). -/
def execMma (a b la : Nat) (s : State) : Host.Outcome State Fault Refusal := .next (s.mmaIssue 0 (s.rS a) b (s.rS b) 0 la)

/-- `mmag` (R193, R377, R378). -/
def execMmag (a b c la : Nat) (s : State) : Host.Outcome State Fault Refusal := .next (s.mmaIssue 1 (s.rS a) b (s.rS b) (s.rS c) la)

/-- `mmas` (R194, R377, R378). -/
def execMmas (a c la : Nat) (s : State) : Host.Outcome State Fault Refusal := .next (s.mmaIssue 2 (s.rS a) 0 0 (s.rS c) la)

/-- `mbld` and `mbld.pair` at issue (R190, R374). -/
def State.mbldIssue (s : State) (pair : Bool) (wa : DWord) (la : Nat) : State :=
  let w := wa.toNat
  let f := s.path.fmt
  s.matrixIssue (!onlyBits w [(5, 0), (10, 8), (27, 16), (43, 32)] || (pair && s.blk.pair == .none)) fun s =>
    match s.mtile (bits w 5 0) with
    | none => s.trap tcHandle 0
    | some t =>
      if tileEb t.desc != (if fmtBf f = 2 then 1 else 0) || tileRows t.desc < bits w 27 16 + kstOf f || tileCols t.desc < bits w 43 32 + 64 then s.trap tcBounds 0
      else s.matRoom false fun s =>
        let (id, s1) := s.fresh
        let gang := tileGang t.desc
        let e := s1.matEntry id (if pair then 4 else 3) wa 0 0 0 false
        if !gang then (s1.enqueueMat e).entered id la
        else if s1.checkRun then s1.logTake (fun e => e.typ == leTread) fun p s =>
          (s.enqueueMat { e with elems := p.map fun b => (b, 0, 0, false) }).entered id la
        else if s1.logging then
          let (q, s2) := s1.logPut leTread 0 0 (kstOf f * 64 * bBytes f) none
          (s2.enqueueMat { e with pend := if s2.logging then some q else none }).entered id la
        else (s1.enqueueMat e).entered id la

/-- `mbld` (R374, R375). -/
def execMbld (a la : Nat) (s : State) : Host.Outcome State Fault Refusal := .next (s.mbldIssue false (s.rS a) la)

/-- `mbld.pair` (R374, R375). -/
def execMbldPair (a la : Nat) (s : State) : Host.Outcome State Fault Refusal := .next (s.mbldIssue true (s.rS a) la)

/-- A scale tile is missing, or has the wrong shape, where it is enabled. -/
def State.scaleOf (s : State) (w lo en : Nat) : Option (Option Tile) := if bitOf w en then some (s.mtile (bits w (lo + 5) lo)) else none

/-- The element index of element k of a write-back in row-major order (R199). -/
def mwbIndex (origin cols k : Nat) : Nat := (bits origin 31 0 + k / cols * bits origin 63 32 + k % cols) % 2 ^ 32

/-- Bytes of the output format (R110, R388). -/
def ofBytes (f : Word) : Nat := if fmtOf f = 0 then 4 else if fmtOf f = 1 then 2 else 1

/-- An `mwb` that finds a page NONRES is complete with nothing written (R199, R389). -/
def State.mwbNonres (s : State) (width : Nat) : State :=
  ((s.countAccess s.checkRun 0xFFFFFFFF#32 (Nat.log2 width)).setFP 0xFFFFFFFF#32).advance 4

/-- Check 5 of a write-back, and its entry (R122, R123, R389). In a tenon run, which writes nothing, the tags of the moment are checked and nothing is waited for (R233). -/
def State.mwbEnter (s : State) (wa wb wc : DWord) (la : Nat) (r : Rec) (ws : List (Nat × Walk)) (as : List (Nat × Nat)) : State :=
  let tagset := recKind r == 2
  let near := as.filter fun e => (walkAt ws e.2).isOk && !spaRemote ((walkAt ws e.2).spa e.2)
  let lines := sortNub (near.map fun e => (walkAt ws e.2).spa e.2 / 256)
  let waits := !tagset && s.blk.kind != .tenon
  if waits && !(s.tagHeld s.bid lines).isEmpty then s.wait (.clampWait [] (s.tagHeld s.bid lines))
  else if waits && !(s.tagPending lines).isEmpty then s.wait (.operandWait (.perf (s.tagPending lines)))
  else if waits && !(s.tagMats lines).isEmpty then s.wait (.operandWait (.mats (s.tagMats lines)))
  else match (if tagset then none else near.find? fun e => s.tagSeen [] ((walkAt ws e.2).spa e.2) != recTag r) with
    | some e => s.trap tcTag e.2
    | none =>
      s.matRoom false fun s =>
        let (id, s1) := s.fresh
        let s2 := if tagset then s1.viewTags s1.bid (near.map fun e => (walkAt ws e.2).spa e.2) (recTag r) else s1
        let e := s2.matEntry id 5 wa wb wc 0 false
        let el := as.map fun x => let w := walkAt ws x.2
          (x.2, w.spa x.2, w.dom, w.isOk)
        (((s2.countAccess false 0 0).foldPendAs 0 id).enqueueMat { e with elems := el, tag := recTag r, tagset := tagset }).entered id la

/-- Translation and residency of a write-back to memory (R145, R150, R261, R389). -/
def State.mwbTranslate (s : State) (wa wb wc : DWord) (la : Nat) (r : Rec) (width : Nat) (as : List (Nat × Nat)) : State :=
  if s.checkRun && s.nrTaken.isSome then s.mwbNonres width
  else
    let (ws, s1) := s.walks s.blk.core s.blk.vf (pagesOfAddrs as)
    match as.find? fun e => (walkAt ws e.2).denies true with
    | some e => s1.denyTrap e.2 true (walkAt ws e.2)
    | none =>
      match as.find? fun e => (walkAt ws e.2).isWin with
      | some e => s1.trap tcWindow e.2
      | none =>
        match as.find? fun e => (walkAt ws e.2).isNonres with
        | some e =>
          if !s1.checkRun then
            ((nonresPages ws as).foldl (fun (s : State) p => s.raiseData s.blk.core s.blk.vf s.blk.task (p * 4096) true (walkAt ws (p * 4096))) s1).mwbNonres width
          else if s1.blk.kind == .dowel then s1.park e.2 1 true (walkAt ws e.2)
          else s1.mwbEnter wa wb wc la r ws as
        | none => s1.mwbEnter wa wb wc la r ws as

/-- The write-back to memory at issue (R389). -/
def State.mwbMemory (s : State) (wa wb wc : DWord) (la : Nat) (acc : Tile) : State :=
  let br := bits wa.toNat 20 16
  let r := s.rB br
  let width := ofBytes s.path.fmt
  let n := tileElems acc.desc
  let accs : Accs := (List.range n).map fun k => (k, linearLane r (mwbIndex wc.toNat (tileCols acc.desc) k))
  match accCheck (recMalformed r) (recRo r) true width accs 0 with
  | some (c, a) => s.trap c a
  | none =>
    let as := Accs.addrs accs
    s.purity (s.task.writeViol (as.map (·.2))) fun s => s.mwbTranslate wa wb wc la r width as

/-- Check 4 of `mwb` (R190, R388, R389). -/
def mwbShapeBad (f : Word) (wa wb wc : DWord) (acc : Tile) (d : Option Tile) (cs rs : Option (Option Tile)) (kind1 : Bool) : Bool :=
  let ah := bits wa.toNat 5 0
  let dh := bits wa.toNat 29 24
  let mem := bitOf wa.toNat 8
  let csh := bits wb.toNat 5 0
  let rsh := bits wb.toNat 13 8
  let scaleBad (t : Option (Option Tile)) (n h : Nat) : Bool :=
    match t with
    | some (some t) => tileEb t.desc != 2 || tileElems t.desc < n || h == ah || (!mem && h == dh)
    | _ => false
  !tileAcc acc.desc || scaleBad cs (tileCols acc.desc) csh || scaleBad rs (tileRows acc.desc) rsh || (mem && kind1) ||
  (match d with
   | some d => !mem && (ah == dh || tileEb d.desc != (if fmtOf f = 0 then 2 else if fmtOf f = 1 then 1 else 0) ||
      tileRows d.desc < bits wc.toNat 11 0 + tileRows acc.desc || tileCols d.desc < bits wc.toNat 27 16 + tileCols acc.desc)
   | none => false)

/-- `mwb` (R388 to R390). -/
def execMwb (a b c la : Nat) (s : State) : Host.Outcome State Fault Refusal :=
  let wa := s.rS a
  let wb := s.rS b
  let wc := s.rS c
  let mem := bitOf wa.toNat 8
  .next (s.matrixIssue (!onlyBits wa.toNat [(5, 0), (8, 8), (20, 16), (29, 24)] || !onlyBits wb.toNat [(6, 0), (14, 8)] ||
      (!mem && !onlyBits wc.toNat [(11, 0), (27, 16)])) fun s =>
    let d := if mem then none else s.mtile (bits wa.toNat 29 24)
    let cs := s.scaleOf wb.toNat 0 6
    let rs := s.scaleOf wb.toNat 8 14
    match s.mtile (bits wa.toNat 5 0) with
    | none => s.trap tcHandle 0
    | some acc =>
      if (!mem && d.isNone) || cs == some none || rs == some none then s.trap tcHandle 0
      else if mwbShapeBad s.path.fmt wa wb wc acc d cs rs (recKind (s.rB (bits wa.toNat 20 16)) == 1) then s.trap tcBounds 0
      else if mem then s.mwbMemory wa wb wc la acc
      else s.matRoom false fun s =>
        let (id, s1) := s.fresh
        ((s1.foldPendAs 2 id).enqueueMat (s1.matEntry id 5 wa wb wc 0 false)).entered id la)

/-- Check 4 of `mqnt` (R190, R386). -/
def mqntShapeBad (w : Nat) (x q t : Tile) : Bool :=
  tileEb x.desc != 1 || tileCols x.desc != 64 || 64 < tileRows x.desc || tileEb q.desc != 0 || tileCols q.desc != 72 || tileRows q.desc < tileRows x.desc ||
  tileEb t.desc != 2 || tileElems t.desc < tileRows x.desc || bits w 13 8 == bits w 5 0 || bits w 21 16 == bits w 5 0 || bits w 21 16 == bits w 13 8

/-- `mqnt` (R386, R387): s[SC] is pending from issue until the queue step; its lookahead window ends as it enters the queue (R373). -/
def execMqnt (a b c la : Nat) (s : State) : Host.Outcome State Fault Refusal :=
  let wa := s.rS a
  let wb := s.rS b
  let w := wa.toNat
  .next (s.matrixIssue (!onlyBits w [(5, 0), (13, 8), (21, 16)] || 1 < fmtAf s.path.fmt) fun s =>
    match s.mtile (bits w 5 0), s.mtile (bits w 13 8), s.mtile (bits w 21 16) with
    | some x, some q, some t =>
      if mqntShapeBad w x q t then s.trap tcBounds 0
      else s.matRoom false fun s =>
        let (id, s1) := s.fresh
        let p : Pend := ⟨id, s1.curB, if c = 0 then [] else [.s c], c, 8, 0, 1, 0, 0, [], [id], 0, 0, 0, s1.path.pc⟩
        let s2 := ((s1.foldPendAs 1 id).foldPendAs 2 id).modW fun w => { w with pend := w.pend ++ [p] }
        (s2.enqueueMat { s2.matEntry id 6 wa wb 0 c false with pend := some id }).entered id la
    | _, _, _ => s.trap tcHandle 0)

/-! Pairs (R201 to R204, R383 to R385) -/

/-- The block gets or keeps the pair (R201). -/
def State.pairTry (s : State) : Bool :=
  let core := s.blk.core
  s.blk.pair == .paired ||
  !(core % 2 == 1 || s.coreFenced (partner core) || s.arrayFenced core || s.arrayFenced (partner core) ||
    s.blocks.any fun e => e.1 != s.bid && e.2.core == core && e.2.pair == .paired)

/-- `mpair` (R201, R204, R383). -/
def execMpair (d _la : Nat) (s : State) : Host.Outcome State Fault Refusal :=
  .next (if s.task.nomatrix then s.illop
    else s.ending fun s =>
      if s.checkRun then
        s.logTake (LogEntry.is leVal 0) fun p s =>
          let x := leNat p
          let s1 := if x = 1 then s.modB fun b => { b with pair := if s.pairTry then .paired else .solo } else s
          (s1.writeS d (BitVec.ofNat 64 x)).advance 4
      else
        let ok := s.pairTry
        let s1 := if ok then s.modB fun b => { b with pair := .paired } else s
        let x : DWord := if ok then 1 else 0
        ((s1.logVal x).writeS d x).advance 4)

/-- A block loses its upper slots (R203). -/
def State.dropUpper (s : State) (bid : Nat) : State :=
  let s1 := s.updBlock bid fun b => { b with bstage := b.bstage.filter (fun e => e.1 < 8 * 8192), bsaved := b.bsaved.filter (· < 8) }
  { s1 with eng := { s1.eng with bphys := s1.eng.bphys.filter fun e => !(e.2.1 == bid && 8 ≤ e.2.2) } }

/-- Entries of a block that use its pair. -/
def State.pairEntries (s : State) (bid : Nat) : List Nat :=
  s.eng.matq.flatMap fun e => (e.2.filter fun m => m.bid == bid && !m.follower && (m.op == 4 || (m.op ≤ 2 && fmtPair m.fmt))).map (·.id)

/-- `munpair` (R203, R383, R384): in state None it has no effect; otherwise the pair ends, and the upper slots go once no queued work uses them. -/
def execMunpair (_la : Nat) (s : State) : Host.Outcome State Fault Refusal :=
  .next (if s.task.nomatrix then s.illop
    else s.ending fun s =>
      let ids := s.pairEntries s.bid
      let s1 := s.modB fun b => { b with pair := .none }
      if s.waitDone then (s.dropUpper s.bid).advance 4
      else if s.blk.pair = .none then s.advance 4
      else if !ids.isEmpty then s1.wait (.operandWait (.mats ids))
      else (s1.dropUpper s1.bid).advance 4)

/-! Start tokens (R60, R61) -/

/-- The token requests of a die that can be granted now, in the arbiter's order: partitions in rotation, requests in order within one (R61). The rotation starts at partition 0 after reset, and a paired request that needs two tokens where one is left waits at the head and holds the other partitions back: R61 says neither (DESIGN CHOICE, log entry 83). -/
def State.tokenNext (s : State) (die : Nat) : Option TokenReq :=
  let win := s.now / 32
  let used := match AL.get? s.eng.granted die with
    | some (w, n) => if w = win then n else 0
    | none => 0
  let rot := AL.getD s.eng.tokenRot die 31
  let heads := s.eng.tokens.filter fun t => t.die == die && (s.eng.tokens.find? fun u => u.die == die && u.part == t.part) == some t
  match minBy (fun t => (t.part + 64 - rot - 1) % 32) heads with
  | some t => if used + t.cores.length ≤ 8 then some t else none
  | none => none

/-- An operation has its start tokens: its lookahead window ends, and a path that stands for it goes on (R60, R373). -/
def State.startGranted (s : State) (wid id : Nat) : State :=
  let go (p0 : Path) : Path :=
    let p := { p0 with windows := p0.windows.filter fun x => x.1 != id }
    if p.st = .operandWait (.token id) then p.wake s.now false else p
  s.updWarp wid fun w => { w with pathA := go w.pathA, pathB := go w.pathB }

/-- The request of a withdrawn operation passes to the next operation in a core's queue, which cannot start before it (R60): without one none is left to be granted (DEDUCED, log entry 83). -/
def State.passToken (s : State) (core : Nat) : State :=
  match (s.matQueue core).find? fun m => m.op ≤ 2 with
  | some m =>
    if m.token.isSome || s.eng.tokens.any (fun t => t.cores.contains core) then s
    else { s with eng := { s.eng with
      matq := s.eng.matq.map fun (e : Nat × List MatEntry) => (e.1, e.2.map fun x => if x.id = m.id then { x with token := some m.id } else x)
      tokens := s.eng.tokens ++ [s.tokenReq m [core]] } }
  | none => s

/-- The entries of a block that stand in a queue from the first withdrawn one on. -/
def fromWithdrawn (bid : Nat) (ids : List Nat) (l : List MatEntry) : List MatEntry := (l.dropWhile fun m => !ids.contains m.id).filter fun m => m.bid == bid && !m.follower

/-- A pre-empted warp's token requests are withdrawn (R61). Their operations stand aside, with what their block has queued behind them, in order (R187, R198), so that the queues go on; they are saved with their block (DEDUCED, log entry 83). -/
def State.withdrawTokens (s : State) (wid : Nat) : State :=
  let mine := s.eng.tokens.filter fun t => t.wid == wid
  if mine.isEmpty then s
  else
    let bid := (s.warpOf wid).bid
    let aside := (fromWithdrawn bid (mine.map (·.id)) (s.matQueue (s.blockOf bid).core)).map fun m => { m with paired := false, token := none }
    let gone (id : Nat) : Bool := aside.any fun m => m.id == id
    let lost := s.eng.tokens.filter fun t => t.wid == wid || gone t.id
    let cores := sortNub (lost.flatMap (·.cores))
    let s1 := { s with eng := { s.eng with
      active := cores.foldl (fun (a : AL Nat) c => AL.put a c s.now) s.eng.active
      tokens := s.eng.tokens.filter fun t => !lost.contains t
      matq := s.eng.matq.map fun (e : Nat × List MatEntry) => (e.1, e.2.filter fun m => !gone m.id) } }
    cores.foldl (fun s c => s.passToken c) (s1.setMatQueue (heldQueue bid) (s1.matQueue (heldQueue bid) ++ aside))

/-- A resumed block's withdrawn operation enters its core's queue as soon as a place is free, and asks for its token again where the core is at rest (R61). -/
def State.reenterMat (s : State) (bid : Nat) : State :=
  let b := s.blockOf bid
  match s.matQueue (heldQueue bid) with
  | [] => s
  | m :: r =>
    if b.st ≠ .resident ∨ 4 ≤ (s.matQueue b.core).length then s
    else
      let s1 := s.setMatQueue (heldQueue bid) r
      let rest := if m.op ≤ 2 then s1.atRest [b.core] else []
      let s2 := s1.setMatQueue b.core (s1.matQueue b.core ++ [{ m with token := if rest.isEmpty then none else some m.id }])
      if rest.isEmpty then s2.startGranted m.wid m.id else s2.askToken m rest

/-- Every block's withdrawn operations re-enter where they can. -/
def State.reenterMats (s : State) : State :=
  ((AL.keys s.eng.matq).filter fun k => Config.cores ≤ k).foldl (fun s k => s.reenterMat (k - Config.cores)) s

/-- Every matrix entry of a block has been performed, but for those withdrawn with their tokens. -/
def State.matsOut (s : State) (bid : Nat) : Bool := s.eng.matq.all fun e => Config.cores ≤ e.1 || e.2.all fun m => m.bid != bid

/-- START_TOKEN_GRANT (R61). -/
def execStartTokenGrant (die : Nat) (s : State) : Host.Outcome State Fault Refusal :=
  .next (match s.tokenNext die with
    | none => s
    | some t =>
      let win := s.now / 32
      let used := match AL.get? s.eng.granted die with
        | some (w, n) => if w = win then n else 0
        | none => 0
      let clear (m : MatEntry) : MatEntry := if m.token = some t.id then { m with token := none } else m
      let s1 := { s with eng := { s.eng with
        tokens := s.eng.tokens.filter (fun x => x.id != t.id)
        active := t.cores.foldl (fun (a : AL Nat) c => AL.put a c s.now) s.eng.active
        granted := AL.put s.eng.granted die (win, used + t.cores.length)
        tokenRot := AL.put s.eng.tokenRot die t.part
        matq := s.eng.matq.map fun (e : Nat × List MatEntry) => (e.1, e.2.map clear) } }
      s1.startGranted t.wid t.id)

/-- A core may come to rest (R60): 256 clocks without an operation or a wait for a token. -/
def State.canRest (s : State) (core : Nat) : Bool :=
  match AL.get? s.eng.active core with
  | some t => t + 256 ≤ s.now && (s.matQueue core).all (fun m => 2 < m.op) && s.eng.tokens.all fun r => !r.cores.contains core
  | none => false

/-- CORE_REST (R60). -/
def execCoreRest (core : Nat) (s : State) : Host.Outcome State Fault Refusal :=
  .next (if s.canRest core then { s with eng := { s.eng with active := AL.del s.eng.active core } } else s)

/-! B-stage slots (R196, R197) -/

/-- The place of a slot's bytes in the context area (R287). -/
def slotVa (base slot : Nat) : Nat := (base + 0x141000 + 8192 * slot) % 2 ^ 57

/-- How a context access of an engine goes: both pages of a slot. -/
inductive SlotMeets where
  | ok (spas : List Nat)
  | hold (va : Nat) (w : Walk)
  | dead (va : Nat) (w : Walk)
  deriving DecidableEq, Repr

/-- Translate the two pages of a slot's save area. -/
def State.slotPages (s : State) (bid slot : Nat) (write : Bool) : SlotMeets × State :=
  let b := s.blockOf bid
  let va := slotVa (s.ctxBase b) slot
  let (w0, s1) := s.translate b.core b.vf va
  let (w1, s2) := s1.translate b.core b.vf ((va + 4096) % 2 ^ 57)
  let meets (va : Nat) (w : Walk) (k : Nat → SlotMeets) : SlotMeets :=
    match w with
    | .ok spa wr _ _ _ _ => if write && !wr then .dead va w else k spa
    | .nonres .. => .hold va w
    | _ => .dead va w
  (meets va w0 fun a => meets ((va + 4096) % 2 ^ 57) w1 fun b => .ok [a, b], s2)

/-- Raise a SPILL request for a context page; the step is tried again when it is resident (R287). -/
def State.slotHold (s : State) (bid va : Nat) (w : Walk) : State :=
  let b := s.blockOf bid
  match s.raise (dieOf b.core) b.core b.vf b.task va 4 true w with
  | (some e, s1) => s1.updBlock bid fun b => { b with ctxWait := [e] }
  | (none, s1) => s1

/-- A context page that cannot be used kills the block's task (R287); an invalid host result is reported to the PF too (R156). -/
def State.slotDead (s0 : State) (bid va : Nat) (w : Walk) : State :=
  let b := s0.blockOf bid
  let s := s0.hostInvalid b.vf b.task b.core va true w
  let (code, ti) := match w with
    | .failed c => (c, ((.error c true) : TermInfo))
    | _ => (tcAccess, accessInfo w true)
  s.killWith b.vf b.task (termRecord b.vf (s.partD b.vf) code ti.cause ti.write ti.level ti.stage va (ti.gpa.getD 0) 0 b.task b.core)

/-- Write a slot to its block's save area; the block no longer holds it in a B stage. -/
def State.slotSave (s : State) (bid slot : Nat) : Option State × State :=
  match s.slotPages bid slot true with
  | (.hold va w, s1) => (none, s1.slotHold bid va w)
  | (.dead va w, s1) => (none, s1.slotDead bid va w)
  | (.ok spas, s1) =>
    let b := s1.blockOf bid
    let s2 := (List.range 32).foldl (fun (s : State) l =>
      s.quietWrite (spas.getD (l / 16) 0 + l % 16 * 256) ((List.range 256).map fun i => (AL.getD b.bstage (slot * 8192 + l * 256 + i) 0).toNat)) s1
    let s3 := s2.updBlock bid fun b => { b with bstage := b.bstage.filter (fun e => e.1 / 8192 != slot), bsaved := insSorted slot b.bsaved }
    (some { s3 with eng := { s3.eng with bphys := s3.eng.bphys.filter fun e => e.2 != (bid, slot) } }, s3)

/-- Read a slot back from its save area; an uncorrectable error traps in the warp that named it (R197). -/
def State.slotRestore (s : State) (bid slot : Nat) (wid : Nat) (pathB : Bool) (xpc : VAddr) : Option State × State :=
  if !(s.blockOf bid).bsaved.contains slot then (some s, s)
  else match s.slotPages bid slot false with
  | (.hold va w, s1) => (none, s1.slotHold bid va w)
  | (.dead va w, s1) => (none, s1.slotDead bid va w)
  | (.ok spas, s1) =>
    let b := s1.blockOf bid
    let va := slotVa (s1.ctxBase b) slot
    let (c, s2) := (spas.zip [va, (va + 4096) % 2 ^ 57]).foldl (fun (acc : Option Nat × State) a =>
      match acc.1 with
      | some _ => acc
      | none => if spaRemote a.1 then acc else acc.2.readVa b.core b.vf (acc.2.fotOf (a.1 / 4096)).owner a.2 a.1 4096) (none, s1)
    match c with
    | some c => (none, s2.trapAt wid pathB c xpc ((s2.warpOf wid).path pathB).pc 0 (.error c false))
    | none =>
      let bytes := spas.flatMap fun a => (List.range 4096).map fun i => if spaRemote a then BitVec.ofNat 8 (Config.freeWord (s2.free + a + i)).toNat else s2.memByte (a + i)
      let put (b : Block) : Block := { b with
        bsaved := b.bsaved.filter (· != slot)
        bstage := (bytes.zip (List.range 8192)).foldl (fun t e => if e.1 = 0 then t else AL.put t (slot * 8192 + e.2) e.1) b.bstage }
      (some { s2.updBlock bid put with free := s2.free + 1 }, s2)

/-- The physical slot that holds a logical one, marked as used last. -/
def State.touchSlot (s : State) (core i : Nat) (bid slot : Nat) : State :=
  let l := i :: (AL.getD s.eng.bLru core []).filter (· != i)
  { s with eng := { s.eng with bphys := AL.put s.eng.bphys (core * 8 + i) (bid, slot), bLru := AL.put s.eng.bLru core l } }

/-- Bring a logical slot of a block into a core's B stage (R197): a state to go on in, or the state that waits or ends. -/
def State.needSlot (s : State) (core bid slot : Nat) (wid : Nat) (pathB : Bool) (xpc : VAddr) : Option State × State :=
  match (List.range 8).find? fun i => AL.get? s.eng.bphys (core * 8 + i) == some (bid, slot) with
  | some i => (some (s.touchSlot core i bid slot), s)
  | none =>
    let free := (List.range 8).find? fun i => !AL.has s.eng.bphys (core * 8 + i)
    let i := free.getD ((AL.getD s.eng.bLru core []).getLast?.getD 0)
    let (r, s1) := match AL.get? s.eng.bphys (core * 8 + i) with
      | some (b2, s2) => s.slotSave b2 s2
      | none => (some s, s)
    match r with
    | none => (none, s1)
    | some s2 =>
      match s2.slotRestore bid slot wid pathB xpc with
      | (some s3, _) => (some (s3.touchSlot core i bid slot), s3)
      | (none, s3) => (none, s3)

/-- Bring several slots in. -/
def State.needSlots (s : State) (e : MatEntry) : List (Nat × Nat) → Option State × State
  | [] => (some s, s)
  | (core, slot) :: r =>
    match s.needSlot core e.bid slot e.wid e.pathB e.xpc with
    | (some s1, _) => s1.needSlots e r
    | (none, s1) => (none, s1)

/-! Arithmetic (R91 to R93, R105 to R109) -/

/-- A tw8 term in units of 2^−6 (R91). -/
def tw8Term (neg : Bool) (c : Nat) : Int := if c = 0 then 0 else if neg then -(2 ^ (c - 1) : Nat) else (2 ^ (c - 1) : Nat)
/-- A tw8 weight in units of 2^−6. -/
def tw8Val (b : Nat) : Int := tw8Term (bitOf b 7) (bits b 6 4) + tw8Term (bitOf b 3) (bits b 2 0)
/-- A non-canonical zero term. -/
def tw8Odd (b : Nat) : Bool := (bitOf b 7 && bits b 6 4 == 0) || (bitOf b 3 && bits b 2 0 == 0)

/-- An operand of a format code: 0 e4m3, 1 e5m2, 2 bf16, 3 i8, 4 tw8. -/
def matVal (f x : Nat) : FVal :=
  match f with
  | 0 => e4m3F.read x
  | 1 => e5m2F.read x
  | 2 => bf16F.read x
  | 3 => let v := sext 8 x
    .fin (v < 0) v.natAbs 0
  | _ => .fin (tw8Val x < 0) (tw8Val x).natAbs (-6)

/-- Round an exact value to f32 under RNE, with the sign an exact zero takes: −0 only for −0 products (R106, log entry 22). -/
def chunkSum (l : List FVal) : Nat := if l.isEmpty then 0 else (f32F.sum 0 false false l).bits

/-- Add a chunk to the accumulator. -/
def accAdd (acc s : Nat) : Nat := (f32F.addF 0 false acc s).bits

/-- One f32 element (R106): a and b give the operands of a logical row, k the depth, dup the pairs of extra column and B row. -/
def f32Element (c0 k : Nat) (a b : Nat → FVal) (dup : Option (List (Nat × Nat))) : Nat :=
  let acc := (List.range ((k + 15) / 16)).foldl (fun acc j =>
    accAdd acc (chunkSum (((List.range 16).filter fun i => 16 * j + i < k).map fun i => ((a (16 * j + i)).mul (b (16 * j + i))).1))) c0
  match dup with
  | some l => accAdd acc (chunkSum (l.map fun (e : Nat × Nat) => ((a e.1).mul (b e.2)).1))
  | none => acc

/-- One i32 element (R109). -/
def i32Element (c0 k : Nat) (a b : Nat → FVal) (dup : Option (List (Nat × Nat))) : Nat :=
  let p (i j : Nat) : Int := (a i).dy.x * (b j).dy.x
  wrap 32 ((c0 : Int) + (List.range k).foldl (fun t i => t + p i i) 0 + (dup.getD []).foldl (fun (t : Int) (e : Nat × Nat) => t + p e.1 e.2) 0)

/-! The queue step (R192 to R200) -/

/-- A byte of a logical slot of a block (R196). -/
def Block.slotByte (b : Block) (slot i : Nat) : Nat := (AL.getD b.bstage (slot * 8192 + i) 0).toNat

/-- Where stored row t of column n begins in a slot (R196). -/
def slotAt (kst eb t n : Nat) : Nat := 4 * t / kst * 2048 + (t % (kst / 4) * 64 + n % 64) * eb

/-- The stored element of a slot, columns 64 and above in the upper slot. -/
def Block.stored (b : Block) (f : Word) (slot t n : Nat) : Nat :=
  let eb := bBytes f
  let o := slotAt (kstOf f) eb t n
  let sl := if n < 64 then slot else 8 + slot
  if eb = 2 then b.slotByte sl o + 256 * b.slotByte sl (o + 1) else b.slotByte sl o

/-- The slot each row uses: SLOT, or that of its group (R193); none beyond the table's total. -/
def rowSlot (op slot : Nat) (counts : List Nat) (r : Nat) : Option Nat :=
  if op != 1 then some slot
  else ((List.range 8).find? fun g => r < sumNat (counts.take (g + 1))).map fun g => (slot + g) % 8

/-- The slots an operation reads. -/
def slotsRead (op slot : Nat) (counts : List Nat) : List Nat :=
  if op != 1 then [slot] else ((List.range 8).filter fun g => counts.getD g 0 != 0).map fun g => (slot + g) % 8

/-- Column n of the dense-equivalent B as a function of the logical row (R107, R194). -/
def State.denseB (s : State) (b : Block) (bid : Nat) (f : Word) (op tab slot n : Nat) : Nat → FVal :=
  if op = 2 then
    let kst := kstOf f
    let kpb := kpbOf f
    let at_ := (List.range kst).map fun t => (64 * (t / kpb) + s.tabByte bid tab (n * kst + t) % 64, t)
    fun k => match at_.find? fun (e : Nat × Nat) => e.1 == k with
      | some e => matVal (fmtBf f) (b.stored f slot e.2 n)
      | none => .fin false 0 0
  else fun k => matVal (fmtBf f) (b.stored f slot k n)

/-- The pairs of extra column and B row of a duplication map (R106, R108). -/
def dupPairs (f : Word) (map : Nat) : Option (List (Nat × Nat)) :=
  if fmtDup f then some (((List.range 8).filter fun i => bits map (8 * i + 7) (8 * i) != 255).map fun i => (64 + i, bits map (8 * i + 7) (8 * i))) else none

/-- An element of a tile at a row and column. -/
def Tile.at_ (t : Tile) (r c : Nat) : Nat := t.get ((r * tileCols t.desc + c) * tileElem t.desc) (tileElem t.desc)

/-- The elements an operation writes, with the slots as `b` holds them: index in C and value, row-major (R192). -/
def State.mmaResult (s : State) (b : Block) (e : MatEntry) : List (Nat × Nat) :=
  let w := e.wa.toNat
  let f := e.fmt
  let a := s.tileStore e.bid (bits w 5 0)
  let c := s.tileStore e.bid (bits w 13 8)
  let tab := bits e.wc.toNat 5 0
  let counts := if e.op = 1 then s.rowCounts e.bid tab else []
  (List.range (tileRows a.desc)).flatMap fun r =>
    match rowSlot e.op (bits w 18 16) counts r with
    | none => []
    | some sl =>
      (List.range (colsOf f)).map fun n =>
        let c0 := if bitOf w 24 then 0 else c.at_ r n
        let av (k : Nat) : FVal := matVal (fmtAf f) (a.at_ r k)
        let bv := s.denseB b e.bid f e.op tab sl n
        (r * tileCols c.desc + n, if fmtCf f = 1 then i32Element c0 (depthOf f) av bv (dupPairs f e.wb.toNat) else f32Element c0 (depthOf f) av bv (dupPairs f e.wb.toNat))

/-- A byte the operation reads holds a non-canonical zero term (R92). -/
def State.tw8Flag (s : State) (b : Block) (e : MatEntry) : Bool :=
  let f := e.fmt
  let slots := slotsRead e.op (bits e.wa.toNat 18 16) (if e.op = 1 then s.rowCounts e.bid (bits e.wc.toNat 5 0) else [])
  fmtBf f == 4 && slots.any fun sl => (List.range (if fmtDup f then 64 else 128)).any fun t => (List.range (colsOf f)).any fun n => tw8Odd (b.stored f sl t n)

/-- Flip elements by injection, one after another (R244). -/
def State.injectElems (s : State) (n : Nat) : List (Nat × Nat) → List (Nat × Nat) × State
  | [] => ([], s)
  | (i, x) :: r =>
    let (b, s1) := s.inject 2
    let (l, s2) := s1.injectElems n r
    ((i, flipAt n x b) :: l, s2)

/-- Write elements of a tile of the issuing block as matrix results; a gang tile's reach the other blocks as a store would. -/
def State.putElems (s : State) (ins h eb : Nat) (l : List (Nat × Nat)) : List (Nat × Nat) × State :=
  let inj := (s.reg Config.pf blkRas (0x1000 + 8 * s.blk.core)).toNat
  let (l1, s1) := if injQualifies s inj 2 then s.injectElems (8 * eb) l else (l, s)
  match AL.get? s1.blk.tiles h with
  | none => (l1, s1)
  | some t =>
    (l1, if tileGang t.desc && !s1.checkRun then l1.foldl (fun (s : State) (e : Nat × Nat) => s.storeGang s.bid h ins (e.1 * eb) (leBytes eb e.2)) s1
         else s1.tileStoreOwn h eb l1)

/-- Fix the record of an entry in a class. -/
def State.fixMat (s : State) (cls id : Nat) (l : List Nat) : State := s.modW fun w => w.fixFoldAs s.curB cls id l

/-- The step of `mma`, `mmag` and `mmas`, over the bytes of the slots it reads; check 5 is made again on what the step reads (R378). XFIRST names what the path has reached (R277). -/
def State.mmaStep (s : State) (slots : AL Byte) (e : MatEntry) : State :=
  let bs := { s.blockOf e.bid with bstage := slots }
  let w := e.wa.toNat
  let ch := bits w 13 8
  let a := s.tileStore e.bid (bits w 5 0)
  let again := e.op != 0 && s.mmaTablesBad e.bid e.op e.fmt (tileRows a.desc) 0xFFFFFFFFFFFFFFFF (bits e.wc.toNat 5 0)
  if again then
    let b := s.blk
    let at_ := (s.w.path e.pathB).pc
    if b.isCheck then (s.modW fun w => w.takeTrap e.pathB tcBounds e.xpc at_ 0).voidRun e.bid
    else
      (s.modW fun w => w.takeTrap e.pathB tcBounds e.xpc at_ 0).killWith b.vf b.task
        (termRecord b.vf (s.partD b.vf) tcBounds 0 false 0 0 0 e.xpc.toNat (auxOf b.lin s.w.idx e.pathB false s.w.inHandler) b.task b.core)
  else
    let flag := s.tw8Flag bs e
    let (l, s1) := s.putElems e.id ch 4 (s.mmaResult bs e)
    let s2 := s1.fixMat 2 e.id (0x21 :: ch :: l.flatMap fun x => leBytes 4 x.2)
    if flag && !s2.w.exited then s2.orFlags 0x20#6 else s2

/-- The bytes of an `mbld` source in the order they are copied: row by row (R196). -/
def State.mbldBytes (s : State) (e : MatEntry) : List Nat :=
  let w := e.wa.toNat
  let t := s.tileStore e.bid (bits w 5 0)
  let eb := bBytes e.fmt
  (List.range (kstOf e.fmt)).flatMap fun r => (List.range (64 * eb)).map fun j =>
    (t.byte (((bits w 27 16 + r) * tileCols t.desc + bits w 43 32) * eb + j)).toNat

/-- The step of `mbld` and `mbld.pair` (R196, R375). -/
def State.mbldStep (s : State) (e : MatEntry) : State :=
  let w := e.wa.toNat
  let h := bits w 5 0
  let eb := bBytes e.fmt
  let kst := kstOf e.fmt
  let slot := bits w 10 8 + if e.op = 4 then 8 else 0
  let gangCheck := s.checkRun && !e.elems.isEmpty
  let s0 := if gangCheck then s else s.ownStoresFirst e.bid h
  let bytes := if gangCheck then e.elems.map (·.1) else s0.mbldBytes e
  let s1 := match e.pend with
    | some q => s0.logFill e.bid (e.wid % 32) e.pathB q bytes
    | none => s0
  let put (t : AL Byte) (x : Nat × Nat) : AL Byte :=
    let r := x.2 / (64 * eb)
    let j := x.2 % (64 * eb)
    let k := slot * 8192 + slotAt kst eb r 0 + j
    if x.1 = 0 then AL.del t k else AL.put t k (BitVec.ofNat 8 x.1)
  s1.modB fun b => { b with bstage := (bytes.zip (List.range bytes.length)).foldl put b.bstage }

/-- Round a value to a format for write-back (R95, R103, R110). -/
def wbRound (f : Fmt) (rm : Nat) (sat : Bool) (v : FVal) : Nat :=
  match v with
  | .nan _ => f.nan
  | .inf s => if f == e4m3F && sat then f.maxOf s else f.infBits s
  | .fin s m e => if m = 0 then f.zero s else (f.convRound rm (sat && f == e4m3F) false s m e).bits

/-- Convert one accumulator element (R110): OF code, RM, SAT. -/
def wbElem (ofc rm : Nat) (sat : Bool) (v : FVal) : Nat :=
  match ofc with
  | 0 => wbRound f32F rm false v
  | 1 => wbRound bf16F rm false v
  | 2 => wbRound e4m3F rm sat v
  | _ =>
    match v with
    | .nan _ => 0
    | .inf s => wrap 8 (if s then -128 else 127)
    | .fin s m e => intOut 8 true sat (roundToInt rm s m e).1

/-- The elements of a write-back in row-major order. -/
def State.mwbValues (s : State) (e : MatEntry) : List Nat :=
  let wb := e.wb.toNat
  let acc := s.tileStore e.bid (bits e.wa.toNat 5 0)
  let cs := s.tileStore e.bid (bits wb 5 0)
  let rs := s.tileStore e.bid (bits wb 13 8)
  let cols := tileCols acc.desc
  let one : FVal := .fin false 1 0
  (List.range (tileElems acc.desc)).map fun k =>
    let x := acc.get (4 * k) 4
    let v := if fmtCf e.fmt = 1 then (let i := sext 32 x; FVal.fin (i < 0) i.natAbs 0) else f32F.read x
    let c := if bitOf wb 6 then f32F.read (cs.get (4 * (k % cols)) 4) else one
    let r := if bitOf wb 14 then f32F.read (rs.get (4 * (k / cols)) 4) else one
    wbElem (fmtOf e.fmt) (bits e.mode.toNat 17 15) (bitOf e.mode.toNat 18) ((v.mul c).1.mul r).1

/-- A stored element of a write-back to memory. -/
structure WbStore where
  /-- Its place in row-major order. -/
  idx : Nat
  va : Nat
  spa : Nat
  dom : Nat
  val : Nat
  deriving DecidableEq, Repr

/-- The line request of a write-back: a store of the issuing warp, in the place of the `mwb` in its program order (R160, R199). -/
def State.wbReq (s : State) (e : MatEntry) (id width : Nat) (l : List WbStore) : LineReq where
  id := id
  wid := e.wid
  pathB := e.pathB
  pend := none
  core := s.blk.core
  vf := s.blk.vf
  dom := (l.head?.map (·.dom)).getD 0
  line := (l.head?.map (·.spa)).getD 0 / 256
  va := (l.head?.map (·.va)).getD 0 / 256 * 256
  win := false
  kind := 1
  op := .add
  et := 0
  width := width
  tag := e.tag
  tagset := e.tagset
  lanes := l.map fun x => (x.idx, x.va % 256, BitVec.ofNat 128 x.val, 0)
  stage := 0
  wts := 0
  rts := 0
  fill := 0
  sectors := 0
  got := []
  withheld := []
  xpc := e.xpc
  made := s.now
  ord := e.id
  mat := some e.id
  arrived := 0
  tags := 0
  vas := (l.filter fun x => some (x.va / 256) != l.head?.map (·.va / 256)).map fun x => (x.idx, x.va / 256 * 256)
  eng := none
  ins := e.id
  adaptive := false
  engPts := 0

/-- The memory writes of `mwb`: one request for each line, and the SS record (R199, R226, R244). A tenon run writes nothing (R233). -/
def State.mwbStores (s : State) (e : MatEntry) (vals : List Nat) : State :=
  let width := ofBytes e.fmt
  let n := vals.length
  let (data, s0) := s.injectStores width ((List.range n).zip (vals.map fun v => (v, 0))) (List.range n)
  let all := (e.elems.zip (List.range n)).map fun x => (⟨x.2, x.1.1, x.1.2.1, x.1.2.2.1, ((AL.get? data x.2).getD (0, 0)).1⟩ : WbStore)
  let s1 := s0.fixMat 0 e.id ((sortNub (all.map fun x => x.va / 256)).flatMap fun v =>
    storeRecord (v * 256) (lineBytes width data ((all.filter fun x => x.va / 256 == v).map fun x => (x.idx, x.va))))
  if s1.blk.kind = .tenon then s1
  else (sortNub (all.map fun x => x.spa / 256)).foldl (fun (s : State) line =>
    let (id, s2) := s.fresh
    s2.modM fun m => { m with reqs := m.reqs ++ [s2.wbReq e id width (all.filter fun x => x.spa / 256 == line)] }) s1

/-- The step of `mwb` (R199, R389). -/
def State.mwbStep (s : State) (e : MatEntry) : State :=
  let vals := s.mwbValues e
  let wa := e.wa.toNat
  let wc := e.wc.toNat
  if bitOf wa 8 then s.mwbStores e vals
  else
    let dh := bits wa 29 24
    let cols := tileCols (s.tileStore e.bid (bits wa 5 0)).desc
    let d := s.tileStore e.bid dh
    let l := (vals.zip (List.range vals.length)).map fun x =>
      ((bits wc 11 0 + x.2 / cols) * tileCols d.desc + bits wc 27 16 + x.2 % cols, x.1)
    let eb := ofBytes e.fmt
    let (l1, s1) := s.putElems e.id dh eb l
    s1.fixMat 2 e.id (0x21 :: dh :: l1.flatMap fun x => leBytes eb x.2)

/-! The quantiser (R111 to R113) -/

/-- |x| > T for a bf16 element and an f32 threshold (R111). -/
def outlierElem (x : FVal) (t : FVal) : Bool :=
  let ax : FVal := match x with
    | .inf _ => .inf false
    | .fin _ m e => .fin false m e
    | v => v
  !x.isNan && !t.isNan && FVal.cmp false ax t == 1

/-- Half of a bf16 element, rounded by RNE. -/
def halfBf16 (x : Nat) : Nat :=
  match bf16F.read x with
  | .nan _ => bf16F.nan
  | .inf s => bf16F.infBits s
  | .fin s m e => if m = 0 then bf16F.zero s else (bf16F.round 0 false s m (e - 1)).bits

/-- The smallest integer e with m × 2^x × 2^−e ≤ max, clamped (R113). -/
def rowExp (af : Nat) (amax : Dy) : Int :=
  let mx : Dy := if af = 0 then ⟨448, 0⟩ else ⟨57344, 0⟩
  if amax.x = 0 then 0
  else
    -- e = ⌈log2 (amax / max)⌉: start two below the difference of the leading exponents
    let d := leadExp amax.x.natAbs amax.e - leadExp mx.x.natAbs mx.e
    let fits (e : Int) : Bool := !(mx.lt ⟨amax.x, amax.e - e⟩)
    let e := if fits (d - 1) then d - 1 else if fits d then d else d + 1
    max (-126) (min 127 e)

/-- What `mqnt` makes of a bf16 tile of m rows: the rows of QH, the row scales and the map (R111 to R113). A finite unsplit outlier that overflows e4m3 with SAT = 0 becomes NaN by R113's own words, and what R103 and R95 give by RM as R113 also has it: under RZ, RU and RD the two differ, and the model follows R103 (DESIGN CHOICE, log entry 86). -/
def quantise (af rm : Nat) (sat : Bool) (m : Nat) (x : Nat → Nat → Nat) (t : FVal) : List (List Nat) × List Nat × Nat :=
  let out := (List.range 64).filter fun c => (List.range m).any fun r => outlierElem (bf16F.read (x r c)) t
  let split := out.take 8
  let loose := out.drop 8
  let f := if af = 0 then e4m3F else e5m2F
  let y (r c : Nat) : Nat :=
    if c < 64 then (if split.contains c then halfBf16 (x r c) else x r c)
    else match split[c - 64]? with
      | some k => halfBf16 (x r k)
      | none => 0
  let amax (r : Nat) : Dy := (List.range 72).foldl (fun (a : Dy) c =>
    if loose.contains c then a else match bf16F.read (y r c) with
      | .fin _ k e => if a.lt ⟨k, e⟩ then ⟨k, e⟩ else a
      | _ => a) ⟨0, 0⟩
  let q (r : Nat) (ex : Int) (c : Nat) : Nat :=
    match bf16F.read (y r c) with
    | .fin s k e => if k = 0 then f.zero s else (f.convRound rm sat false s k (e - ex)).bits
    | .inf s => if sat then f.maxOf s else f.infBits s
    | .nan _ => f.nan
  let es := (List.range m).map fun r => rowExp af (amax r)
  ((es.zip (List.range m)).map fun (e, r) => (List.range 72).map (q r e),
   es.map fun e => (e + 127).toNat * 2 ^ 23,
   (List.range 8).foldl (fun a i => a + split.getD i 255 * 2 ^ (8 * i)) 0)

/-- The step of `mqnt` (R200, R387). -/
def State.mqntStep (s : State) (e : MatEntry) : State :=
  let w := e.wa.toNat
  let xt := s.tileStore e.bid (bits w 5 0)
  let m := tileRows xt.desc
  let (rows, scales, map) := quantise (fmtAf e.fmt) (bits e.mode.toNat 17 15) (bitOf e.mode.toNat 18) m xt.at_ (f32F.read (e.wb.toNat % 2 ^ 32))
  let (ql, s1) := s.putElems e.id (bits w 13 8) 1 ((rows.flatMap id).zip (List.range (72 * m)) |>.map fun x => (x.2, x.1))
  let (sl, s2) := s1.putElems e.id (bits w 21 16) 4 (scales.zip (List.range m) |>.map fun x => (x.2, x.1))
  let flipped := flipAt 64 map (s2.inject 1).1
  let (r, s3) := s2.putS e.sc (BitVec.ofNat 64 map)
  let s4 := (s3.fixMat 1 e.id r).fixMat 2 e.id (0x22 :: (ql.map (·.2)) ++ (sl.flatMap fun x => leBytes 4 x.2) ++ leBytes 8 flipped)
  s4.modW fun w => { w with pend := w.pend.filter fun p => p.id != e.id }

/-- The slots an entry names, with the core that holds each (R197, R201, R203). -/
def State.entrySlots (s : State) (e : MatEntry) : List (Nat × Nat) :=
  let b := s.blockOf e.bid
  let w := e.wa.toNat
  let upperCore := if e.paired || (e.op == 4 && b.pair == .paired) then partner b.core else b.core
  match e.op with
  | 3 => [(b.core, bits w 10 8)]
  | 4 => [(upperCore, 8 + bits w 10 8)]
  | 5 | 6 => []
  | _ =>
    let ls := slotsRead e.op (bits w 18 16) (if e.op = 1 then s.rowCounts e.bid (bits e.wc.toNat 5 0) else [])
    ls.map (fun sl => (b.core, sl)) ++ if fmtPair e.fmt then ls.map fun sl => (upperCore, 8 + sl) else []

/-- Bring in the slots an entry reads (R197): the bytes it reads, and a state to go on in, or the state that waits or ends. In Solo a PAIR = 1 operation makes two passes over one core's eight places, first the lower slots and then the upper ones (R203). -/
def State.bringSlots (s : State) (e : MatEntry) : AL Byte × Option State × State :=
  let l := s.entrySlots e
  let solo := e.op ≤ 2 && fmtPair e.fmt && !e.paired
  let low := if solo then l.filter (·.2 < 8) else l
  let up := if solo then l.filter (8 ≤ ·.2) else []
  match s.needSlots e low with
  | (none, s1) => ([], none, s1)
  | (some s1, _) =>
    let first := (s1.blockOf e.bid).bstage.filter fun x => x.1 < 8 * 8192 || !solo
    match s1.needSlots e up with
    | (none, s2) => ([], none, s2)
    | (some s2, s3) => (if solo then first ++ (s2.blockOf e.bid).bstage.filter (fun x => 8 * 8192 ≤ x.1) else first, some s2, s3)

/-- Issued tile accesses that wait and that an entry comes after: they name one of its tiles, or both go to tiles of the gang (R135, R198). -/
def State.tilesBeforeMat (s : State) (e : MatEntry) : List Nat :=
  s.slowTilesOf e.bid fun x => x.id < e.id && e.handles.any fun h => x.handle == h || (s.gangHandle e.bid h && s.gangHandle e.bid x.handle)

/-- The head entry of a core can be performed (R187, R198, R201): it has its token, a paired entry heads both queues, and earlier accesses to its tiles have been performed. -/
def State.matReady (s : State) (core : Nat) : Option MatEntry :=
  match s.matQueue core with
  | [] => none
  | e :: _ =>
    if e.follower || e.token.isSome || !(s.tilesBeforeMat e).isEmpty || s.blocks.any (fun b => b.2.core == core && b.2.onCore && b.2.ctxWait.any fun x => s.mergeLive x.1 x.2) then none
    else if e.paired then (if ((s.matQueue (partner core)).head?.map (·.id)) = some e.id then some e else none)
    else some e

/-- Take an entry off its queues. -/
def State.matPop (s : State) (core : Nat) (e : MatEntry) : State :=
  let cut (s : State) (c : Nat) : State := s.setMatQueue c ((s.matQueue c).filter fun m => m.id != e.id)
  let s1 := cut s core
  let s2 := if e.paired then cut s1 (partner core) else s1
  if e.op ≤ 2 then
    let cores := if e.paired then [core, partner core] else [core]
    { s2 with eng := { s2.eng with active := cores.foldl (fun a c => AL.put a c s.now) s2.eng.active } }
  else s2

/-- MATRIX_QUEUE_STEP (R198): the head entry is performed as one step, once its slots are in the B stage. -/
def execMatrixQueueStep (core : Nat) (s : State) : Host.Outcome State Fault Refusal :=
  .next (match s.matReady core with
    | none => s
    | some e =>
      match s.bringSlots e with
      | (_, none, s1) => s1
      | (slots, some s1, _) =>
        (s1.matPop core e).onPath e.wid e.pathB fun s =>
          match e.op with
          | 3 | 4 => s.mbldStep e
          | 5 => s.mwbStep e
          | 6 => s.mqntStep e
          | _ => s.mmaStep slots e)

end Sys2Proof.Machine
end

