-- ==== Sys2Proof/Machine/MemInstr.lean ====
section
/-! DEFINITION. Loads, stores, atomics, prefetches, page requests and record writes (R148, R284, R346 to R352, R355 to R357, R368 to R372, R395 to R397, R421 to R424). -/

set_option Elab.async false

namespace Sys2Proof.Machine

/-- A per-lane memory instruction of a kind through b[bk] at v[vi], with the issuing path's width and type. -/
def State.laneIns (s : State) (kind bk vi la len : Nat) : MemIns where
  kind := kind
  bk := bk
  width := s.path.width
  et := s.path.modeET
  accs := s.accs bk vi (kind == 0) s.acting
  helpers := s.actingHelpers
  uniform := false
  noWindow := false
  op := .add
  data := []
  destKind := 2
  dest := 0
  la := la
  len := len

/-- A uniform memory instruction through b[bk] at s[sc] (R351). -/
def State.uniIns (s : State) (kind bk sc la : Nat) : MemIns where
  kind := kind
  bk := bk
  width := s.path.width
  et := s.path.modeET
  accs := s.uacc bk sc (kind == 0)
  helpers := 0
  uniform := true
  noWindow := kind != 0
  op := .add
  data := []
  destKind := 2
  dest := 0
  la := la
  len := 4

/-- The v registers of an access. -/
def vRange (k width : Nat) : List RegRef := (List.range (widthRegs width)).map fun i => .v (k + i)

/-- Values of a register range by lane. -/
def State.laneData (s : State) (k n : Nat) (second : Nat → Nat) : AL (Nat × Nat) :=
  (lanesOf s.acting).map fun i => (i, (s.vVal k n i, second i))

/-- `ld` (R368 to R371). -/
def execLd (d b i la : Nat) (s : State) : Host.Outcome State Fault Refusal :=
  let w := s.path.width
  .next (if !s.vWidthOk d w || !s.idxOk b i || (s.w.recipe && !recRo (s.rB b)) then s.illop
    else s.writing (vRange d w) fun s => s.memAccess { s.laneIns 0 b i la 4 with destKind := 0, dest := d })

/-- `st` (R421 to R423). -/
def execSt (b i src la : Nat) (s : State) : Host.Outcome State Fault Refusal :=
  let w := s.path.width
  .next (if !s.vWidthOk src w || !s.idxOk b i then s.illop
    else s.ending fun s => s.memAccess { s.laneIns 1 b i la 4 with data := s.laneData src (widthRegs w) fun _ => 0 })

/-- `atom` (R346 to R349). -/
def execAtom (op : AtomOp) (d b i vc : Nat) (nd : Bool) (la : Nat) (s : State) : Host.Outcome State Fault Refusal :=
  let w := s.path.width
  let n := widthRegs w
  .next (if !atomTypeOk op s.path.modeMW s.path.modeET || !s.vWidthOk d w || !s.idxOk b i || (op == .cas && !s.vWidthOk vc w) then s.illop
    else s.ending fun s => s.memAccess { s.laneIns 2 b i la 8 with
      noWindow := true, op := op, destKind := if nd then 2 else 0, dest := d,
      data := s.laneData d n fun l => if op = .cas then s.vVal vc n l else 0 })

/-- `ldu` (R372). -/
def execLdu (a b c la : Nat) (s : State) : Host.Outcome State Fault Refusal :=
  let w := s.path.width
  .next (if (w == 16 && a % 2 == 1) || (s.w.recipe && !recRo (s.rB b)) then s.illop
    else s.writing (if w = 16 then [.s a, .s (a + 1)] else [.s a]) fun s =>
      s.memAccess { s.uniIns 0 b c la with destKind := 1, dest := a })

/-- `stu` (R424). -/
def execStu (b c a la : Nat) (s : State) : Host.Outcome State Fault Refusal :=
  let w := s.path.width
  .next (if w == 16 && a % 2 == 1 then s.illop
    else s.ending fun s => s.memAccess { s.uniIns 1 b c la with
      data := [(0, ((s.rS a).toNat + (if w = 16 then (s.rS (a + 1)).toNat * 2 ^ 64 else 0), 0))] })

/-- `atomu` (R350 to R352). -/
def execAtomu (op : AtomOp) (a b c la : Nat) (s : State) : Host.Outcome State Fault Refusal :=
  let w := s.path.width
  .next (if !atomTypeOk op s.path.modeMW s.path.modeET || (op == .cas && a % 2 == 1) then s.illop
    else s.ending fun s => s.memAccess { s.uniIns 2 b c la with
      op := op, destKind := 1, dest := a,
      data := [(0, ((s.rS a).toNat % 2 ^ (8 * w), if op = .cas then (s.rS (a + 1)).toNat % 2 ^ (8 * w) else 0))] })

/-! Prefetch and page requests -/

/-- The request of `pf` for one line, unless the line is held, in a window, on another package, or in L1 already (R396). -/
def State.prefetchLine (s0 : State) (m : MemIns) (g : LineGroup) : State :=
  if g.win || spaRemote g.spa || s0.heldByOther s0.bid (g.spa / 256) then s0
  else
    let s := s0.l1Scrub s0.blk.core s0.blk.vf g.dom g.va (g.spa / 256)
    if (s.l1Hit s.blk.core g.dom (g.spa / 256) (sectorMask g.lanes) (Tbl.get s.w.pts (homeDie g.spa))).isSome then s
    else
      let (id, s1) := s.fresh
      s1.modM fun mm => { mm with reqs := mm.reqs ++ [m.req s id id none g] }

/-- `pf` (R396). A check run skips its fills. -/
def execPf (b i la : Nat) (s : State) : Host.Outcome State Fault Refusal :=
  .next (
    let m : MemIns := { s.laneIns 0 b i la 4 with accs := s.accs b i true s.activeGuarded, helpers := 0 }
    if !s.idxOk b i then s.illop
    else match accCheck (badRecord b (s.rB b) (s.rB (b + 1))) false false m.width m.accs 0 with
      | some (c, a) => s.trap c a
      | none =>
        let as := Accs.addrs m.accs
        s.purity (s.task.readViol (as.map (·.2))) fun s =>
          if s.checkRun then s.advance 4
          else
            let (ws, s1) := s.walks s.blk.core s.blk.vf (pagesOfAddrs as)
            ((sendGroups ws (as.filter fun e => (walkAt ws e.2).isOk)).foldl (fun (s : State) g => s.prefetchLine m g) s1).advance 4)

/-- Raise a request for each non-resident page: the merge entries joined, or none when an entry is missing (R148, R151). -/
def State.raisePages (s : State) (ws : List (Nat × Walk)) : List Nat → Option (List (Nat × Nat)) × State
  | [] => (some [], s)
  | p :: r =>
    match s.raise (dieOf s.blk.core) s.blk.core s.blk.vf s.blk.task (p * 4096) 1 false (walkAt ws (p * 4096)) with
    | (some e, s1) =>
      match s1.raisePages ws r with
      | (some es, s2) => (some (e :: es), s2)
      | (none, s2) => (none, s2)
    | (none, s1) => (none, s1)

/-- `pgreq` and `pgreq.y` (R148, R397): `sleeps` tells them apart. With no free merge entry for some page the instruction waits and raises nothing yet (log entry 18). -/
def State.pageRequest (s : State) (b i : Nat) (sleeps : Bool) : State :=
  let w := s.path.width
  let as0 := s.accs b i true s.activeGuarded
  if !s.idxOk b i then s.illop
  else match accCheck (badRecord b (s.rB b) (s.rB (b + 1))) false false w as0 0 with
    | some (c, a) => s.trap c a
    | none =>
      let as := Accs.addrs as0
      let (ws, s1) := s.walks s.blk.core s.blk.vf (pagesOfAddrs as)
      match as.find? fun e => (walkAt ws e.2).denies false with
      | some e => s1.denyTrap e.2 false (walkAt ws e.2)
      | none =>
        let pages := nonresPages ws as
        if s1.checkRun || pages.isEmpty then s1.advance 4
        else match s1.raisePages ws pages with
          | (none, _) => s1.wait (.operandWait (.mergeFree (dieOf s1.blk.core)))
          | (some es, s2) => if sleeps then s2.wait (.sleepPage es none false) else s2.advance 4

/-- `pgreq` (R148). -/
def execPgreq (b i _la : Nat) (s : State) : Host.Outcome State Fault Refusal := .next (s.pageRequest b i false)
/-- `pgreq.y` (R148). -/
def execPgreqY (b i _la : Nat) (s : State) : Host.Outcome State Fault Refusal := .next (s.pageRequest b i true)

/-! Record writes -/

/-- A record of two 64-bit halves. -/
def recOf (lo hi : DWord) : Rec := BitVec.ofNat 128 (lo.toNat + hi.toNat * 2 ^ 64)

/-- `brec` (R355 to R357). -/
def execBrec (d a b _la : Nat) (s : State) : Host.Outcome State Fault Refusal :=
  .next (s.writing [.b d] fun s => (s.writeB d (recOf (s.rS a) (s.rS b))).advance 4)

/-- The narrowed record of `brecr`, or none where it traps BOUNDS (R356). -/
def narrow (r : Rec) (i0 n : Nat) : Option Rec :=
  if recKind r == 1 || recMalformed r || recExtent r < i0 + n ||
     (recSww r != 0 && i0 * recStride r % (256 * 2 ^ recSww r) != 0) then none
  else some (BitVec.ofNat 128 (putBits (putBits r.toNat 56 0 (recBase r + i0 * recStride r)) 127 96 n))

/-- `brecr` (R355 to R357). -/
def execBrecr (d a c _la : Nat) (s : State) : Host.Outcome State Fault Refusal :=
  .next (s.writing [.b d] fun s =>
    match narrow (s.rB a) ((s.rS c).toNat % 2 ^ 32) ((s.rS c).toNat / 2 ^ 32) with
    | some r => (s.writeB d r).advance 4
    | none => s.trap tcBounds 0)

end Sys2Proof.Machine
end

