-- ==== Sys2Proof/Machine/Scalar.lean ====
section
/-! DEFINITION. The uniform instructions on scalar and predicate registers, MODE and FMT, and the special registers (R66 to R76, R227, R376, R380 to R382, R391 to R394, R411 to R420). -/

set_option Elab.async false

namespace Sys2Proof.Machine

/-! Scalar arithmetic (R413) -/

/-- A boolean as a scalar result. -/
def dwordOf (b : Bool) : DWord := if b then 1 else 0

/-- A scalar instruction of two sources (R411, R413). -/
def State.scalar2 (s : State) (d a b : Nat) (f : DWord → DWord → DWord) : State := s.scalarResult d (f (s.rS a) (s.rS b))

/-- A shift count of 64 or more leaves zeros (R413). -/
def shl64 (a b : DWord) : DWord := if b.toNat < 64 then a <<< b.toNat else 0
def shr64 (a b : DWord) : DWord := if b.toNat < 64 then a >>> b.toNat else 0
/-- A count of 64 or more leaves copies of the sign. -/
def sar64 (a b : DWord) : DWord := a.sshiftRight (min b.toNat 64)

/-- The condition of `scmp` (R413). -/
def scmpHolds (c : SCond) (a b : DWord) : Bool :=
  match c with
  | .eq => a == b | .ne => a != b
  | .lt => a.slt b | .le => a.sle b | .gt => b.slt a | .ge => b.sle a
  | .ltu => a.ult b | .leu => a.ule b | .gtu => b.ult a | .geu => b.ule a

/-- `sadd` (R413). -/
def execSadd (d a b : Nat) (s : State) : Host.Outcome State Fault Refusal := .next (s.scalar2 d a b (· + ·))
/-- `ssub` (R413). -/
def execSsub (d a b : Nat) (s : State) : Host.Outcome State Fault Refusal := .next (s.scalar2 d a b (· - ·))
/-- `smul` (R413). -/
def execSmul (d a b : Nat) (s : State) : Host.Outcome State Fault Refusal := .next (s.scalar2 d a b (· * ·))
/-- `sand` (R413). -/
def execSand (d a b : Nat) (s : State) : Host.Outcome State Fault Refusal := .next (s.scalar2 d a b (· &&& ·))
/-- `sor` (R413). -/
def execSor (d a b : Nat) (s : State) : Host.Outcome State Fault Refusal := .next (s.scalar2 d a b (· ||| ·))
/-- `sxor` (R413). -/
def execSxor (d a b : Nat) (s : State) : Host.Outcome State Fault Refusal := .next (s.scalar2 d a b (· ^^^ ·))
/-- `sshl` (R413). -/
def execSshl (d a b : Nat) (s : State) : Host.Outcome State Fault Refusal := .next (s.scalar2 d a b shl64)
/-- `sshr` (R413). -/
def execSshr (d a b : Nat) (s : State) : Host.Outcome State Fault Refusal := .next (s.scalar2 d a b shr64)
/-- `sshr.a` (R413). -/
def execSshrA (d a b : Nat) (s : State) : Host.Outcome State Fault Refusal := .next (s.scalar2 d a b sar64)
/-- `smin` (R413). -/
def execSmin (d a b : Nat) (s : State) : Host.Outcome State Fault Refusal := .next (s.scalar2 d a b fun x y => if y.slt x then y else x)
/-- `smax` (R413). -/
def execSmax (d a b : Nat) (s : State) : Host.Outcome State Fault Refusal := .next (s.scalar2 d a b fun x y => if x.slt y then y else x)
/-- `smin.u` (R413). -/
def execSminU (d a b : Nat) (s : State) : Host.Outcome State Fault Refusal := .next (s.scalar2 d a b fun x y => if y.ult x then y else x)
/-- `smax.u` (R413). -/
def execSmaxU (d a b : Nat) (s : State) : Host.Outcome State Fault Refusal := .next (s.scalar2 d a b fun x y => if x.ult y then y else x)
/-- `smov` (R413). -/
def execSmov (d a : Nat) (s : State) : Host.Outcome State Fault Refusal := .next (s.scalarResult d (s.rS a))
/-- `scmp` (R413). -/
def execScmp (c : SCond) (d a b : Nat) (s : State) : Host.Outcome State Fault Refusal :=
  .next (s.scalar2 d a b fun x y => dwordOf (scmpHolds c x y))
/-- `smovi` (R417). -/
def execSmovi (d : Nat) (imm : Int) (s : State) : Host.Outcome State Fault Refusal := .next (s.scalarResult d (BitVec.ofInt 64 imm))

/-- A scalar result of an instruction of 8 bytes. -/
def State.scalarResult8 (s : State) (d : Nat) (x : DWord) : State := s.writing [.s d] fun s => (s.writeS d x).advance 8

/-- `sli.lo` (R416). -/
def execSliLo (d lit : Nat) (s : State) : Host.Outcome State Fault Refusal := .next (s.scalarResult8 d (BitVec.ofNat 64 lit))
/-- `sli.hi` (R416). -/
def execSliHi (d lit : Nat) (s : State) : Host.Outcome State Fault Refusal :=
  .next (s.scalarResult8 d (BitVec.ofNat 64 ((s.rS d).toNat % 2 ^ 32 + lit * 2 ^ 32)))
/-- `sigadd` (R227, R415). -/
def execSigadd (a : Nat) (s : State) : Host.Outcome State Fault Refusal :=
  .next (s.ending fun s => (s.foldVS (0x1F :: leBytes 8 (s.rS a).toNat)).advance 4)

/-! Predicates (R392) -/

/-- A predicate result and the next instruction (R392, R394). -/
def State.predResult (s : State) (d : Nat) (x : Word) : State := s.writing [.p d] fun s => (s.writeP d x).advance 4

/-- The index of the lowest set bit, or all ones (R392). -/
def lowestBit (x : Word) : DWord :=
  match firstIdx 32 x.getLsbD with
  | some i => BitVec.ofNat 64 i
  | none => BitVec.ofNat 64 (2 ^ 64 - 1)

/-- `pand` (R392). -/
def execPand (d a b : Nat) (s : State) : Host.Outcome State Fault Refusal := .next (s.predResult d (s.rP a &&& s.rP b))
/-- `por` (R392). -/
def execPor (d a b : Nat) (s : State) : Host.Outcome State Fault Refusal := .next (s.predResult d (s.rP a ||| s.rP b))
/-- `pxor` (R392). -/
def execPxor (d a b : Nat) (s : State) : Host.Outcome State Fault Refusal := .next (s.predResult d (s.rP a ^^^ s.rP b))
/-- `pnot` (R392). -/
def execPnot (d a : Nat) (s : State) : Host.Outcome State Fault Refusal := .next (s.predResult d (~~~s.rP a))
/-- `pmov pD, sD` (R392). -/
def execPmovPS (d sa : Nat) (s : State) : Host.Outcome State Fault Refusal := .next (s.predResult d ((s.rS sa).setWidth 32))
/-- `pmov sD, pA` (R392). -/
def execPmovSP (sd a : Nat) (s : State) : Host.Outcome State Fault Refusal := .next (s.scalarResult sd ((s.rP a).setWidth 64))
/-- `pcnt` (R392). -/
def execPcnt (sd a : Nat) (s : State) : Host.Outcome State Fault Refusal := .next (s.scalarResult sd (BitVec.ofNat 64 (popc 32 (s.rP a).toNat)))
/-- `pffs` (R392). -/
def execPffs (sd a : Nat) (s : State) : Host.Outcome State Fault Refusal := .next (s.scalarResult sd (lowestBit (s.rP a)))
/-- `pmov pD, pA` (R392). -/
def execPmovPP (d a : Nat) (s : State) : Host.Outcome State Fault Refusal := .next (s.predResult d (s.rP a))

/-! MODE and FMT (R69 to R76, R330, R376, R382) -/

/-- The field of MODE a selector names: low bit and width (R70, R330). -/
def modeField : Nat → Nat × Nat
  | 1 => (0, 4) | 2 => (4, 4) | 3 => (8, 4) | 4 => (12, 3) | 5 => (15, 3) | 6 => (18, 1) | 7 => (19, 1)
  | _ => (0, 32)

/-- The width of a selector's value (R330). -/
def modeWidth (sel : Nat) : Nat := if sel = 8 then 6 else (modeField sel).2

/-- No field of MODE holds a reserved value (R69). -/
def modeLegal (m : Nat) : Bool := bits m 11 8 ≤ 12 && bits m 14 12 ≤ 4 && bits m 17 15 ≤ 4 && m < 2 ^ 20

/-- No field of FMT holds a reserved value (R75). -/
def fmtLegal (f : Nat) : Bool :=
  bits f 2 0 ≤ 3 && bits f 5 3 ≤ 4 && bits f 7 6 ≤ 1 && bits f 10 8 ≤ 3 && bits f 13 12 ≤ 2 && bits f 15 14 ≤ 1 && f < 2 ^ 16

/-- MODE with a field replaced. -/
def modeNew (old sel val : Nat) : Nat :=
  let (lo, n) := modeField sel
  putBits old (lo + n - 1) lo val

/-- Write MODE or clear flags (R382). -/
def State.writeMode (s : State) (sel val len : Nat) : State :=
  if s.w.recipe || 9 ≤ sel || 2 ^ modeWidth sel ≤ val then s.illop
  else if sel = 8 then (s.noPoint.modW fun w => { w with fpflags := w.fpflags &&& ~~~BitVec.ofNat 6 val }).advance len
  else
    let new := modeNew s.path.mode.toNat sel val
    if modeLegal new then (s.noPoint.modPath fun p => { p with mode := BitVec.ofNat 32 new }).advance len else s.illop

/-- `mode` (R380, R382). -/
def execMode (sel val : Nat) (s : State) : Host.Outcome State Fault Refusal := .next (s.writeMode sel val 8)
/-- `modex` (R381, R382). -/
def execModex (sel a : Nat) (s : State) : Host.Outcome State Fault Refusal := .next (s.writeMode sel (s.rS a).toNat 4)
/-- `mfmt` (R376). -/
def execMfmt (a : Nat) (s : State) : Host.Outcome State Fault Refusal :=
  .next (if s.w.recipe || !fmtLegal (s.rS a).toNat then s.illop
    else (s.noPoint.modPath fun p => { p with fmt := (s.rS a).setWidth 32 }).advance 4)

/-! Special registers (R66 to R68, R418 to R420) -/

def runCode : RunKind → Nat
  | .plain => 0 | .mortise => 1 | .tenon => 2 | .dowel => 3

/-- A special register other than LANE (R66). -/
def State.special (s : State) (id : Nat) : DWord :=
  let b := s.blk
  let t := s.task
  let w := s.w
  match id with
  | 1 => BitVec.ofNat 64 w.idx
  | 2 => BitVec.ofNat 64 (b.lin % t.nbx)
  | 3 => BitVec.ofNat 64 (b.lin / t.nbx % t.nby)
  | 4 => BitVec.ofNat 64 (b.lin / t.nbx / t.nby)
  | 5 => BitVec.ofNat 64 (b.lin / t.gang)
  | 6 => BitVec.ofNat 64 (b.lin % t.gang)
  | 7 => BitVec.ofNat 64 b.task
  | 8 => BitVec.ofNat 64 (if s.checkRun then (s.blockOf b.origin).core else b.core)
  | 9 => s.clock
  | 10 => (Tbl.get w.pts s.die).setWidth 64
  | 11 => BitVec.ofNat 64 (runCode b.kind)
  | 12 => BitVec.ofNat 64 t.rlvl
  | 13 => w.fpflags.setWidth 64
  | 14 => w.xpc.setWidth 64
  | 15 => w.xfirst.setWidth 64
  | 16 => w.xaddr.setWidth 64
  | 17 => w.xcode.setWidth 64
  | 18 => BitVec.ofNat 64 b.nwarps
  | 19 => BitVec.ofNat 64 t.nbx
  | 20 => BitVec.ofNat 64 t.nby
  | 21 => BitVec.ofNat 64 t.nbz
  | _ => 0

/-- Read a special register: CLOCK and PTS are tested for purity and logged (R68, R420). -/
def State.readSpecial (s : State) (id : Nat) (k : DWord → State → State) : State :=
  if id = 9 ∨ id = 10 then s.purity (some 0) fun s => s.replayed (s.special id) k
  else k (s.special id) s

/-- `sreg.s` (R66, R418, R419). -/
def execSregS (d id : Nat) (s : State) : Host.Outcome State Fault Refusal :=
  .next (if id = 0 ∨ 22 ≤ id then s.illop
    else s.writing [.s d] fun s => s.readSpecial id fun x s => (s.writeS d x).advance 4)

/-- `sreg.v` (R66, R418, R419). -/
def execSregV (d id : Nat) (s : State) : Host.Outcome State Fault Refusal :=
  .next (if 22 ≤ id || !s.vOk d then s.illop
    else s.writing [.v d] fun s => s.readSpecial id fun x s =>
      (s.writeV d ((lanesOf s.acting).map fun i => (i, if id = 0 then BitVec.ofNat 32 i else x.setWidth 32))).advance 4)

end Sys2Proof.Machine
end

