-- ==== Sys2Proof/Machine/TaskInstr.lean ====
section
/-! DEFINITION. The instructions of the hardware task scheduler: `tskpost`, `tskdec`, `tskadd`, `tskq` (R46, R47, R437 to R440). -/

set_option Elab.async false

namespace Sys2Proof.Machine

/-- The SS record of an operation: its opcode, taken as the F field, then the record, or name and k (R226; log entry 23). -/
def htsRecordBytes (o : HtsOp) : List Nat :=
  0x03 :: o.op :: (if o.op = 0 then leBytes 256 o.record.toNat else leBytes 4 o.name ++ leBytes 4 o.k)

/-- What an operation of the issuing warp comes after (R46): its stores and atomics, and its copy entries. -/
def State.afterMine (s : State) (o : HtsOp) : HtsOp :=
  { o with wid := s.cur
           after := (s.mm.reqs.filter fun r => r.wid == s.cur && r.kind != 0).map (·.id) ++ (s.queuedMats s.cur s.nextId).map (·.id)
           cops := (s.blk.queues.flatMap fun x => x.2.entries).filterMap fun e => if e.wid = s.cur then some e.id else none }

/-- Hold an operation with the block's versions (R47). -/
def State.holdOp (s : State) (o : HtsOp) : State :=
  s.modB fun b => { b with set := { b.set with ops := b.set.ops ++ [s.afterMine o] } }

/-- Send an operation of the issuing warp, to be performed once what it comes after is visible (R46). -/
def State.sendOp (s : State) (o : HtsOp) (ret : Option Nat) : State :=
  let x : HtsSend := ⟨s.blk.vf, s.bid, s.afterMine o, ret⟩
  { s with sends := s.sends ++ [x] }.sendOps [] (s.sends ++ [x])

/-- An operation of the issuing warp that reports its status comes after nothing that is still open. -/
def State.sendsNow (s : State) (o : HtsOp) : Bool :=
  let x : HtsSend := ⟨s.blk.vf, s.bid, s.afterMine o, some 0⟩
  s.sendDue x && !(s.sends.any fun y => y.line == x.line)

/-- An operation that waits: s[SD] is pending until it has been performed, and up to LA later instructions issue (R326, R439). -/
def State.sendLater (s : State) (d : Nat) (o : HtsOp) (la : Nat) : State :=
  let (id, s1) := s.fresh
  let p : Pend := ⟨id, s.curB, if d = 0 then [] else [.s d], d, 8, 0, 1, 0, 0, [], [id], 0, 0, 0, s.path.pc⟩
  let s2 := (s1.foldPend id).modW fun w => { w with pend := w.pend ++ [p] }
  ((s2.modPath fun p => { p with windows := p.windows ++ [(id, la)] }).sendOp o (some id)).advance 4

/-- Send an operation, or hold or drop it in a checked run (R47, R440): a run whose versions have been released early sends it, and returns OK as every checked run does. `code` is a status found before it is sent (R438, R439). -/
def State.htsSend (s : State) (d : Nat) (o : HtsOp) (code la : Nat) : State :=
  let done (x : Nat) (s : State) : State := (s.writeS d (BitVec.ofNat 64 x)).advance 4
  let s0 := s.fold 0 (htsRecordBytes o)
  if s.blk.kind = .tenon then done 0 s0
  else if s.blk.holds then done 0 (if code = stOk then s0.holdOp o else s0)
  else if s.blk.kind ≠ .plain then done 0 (if code = stOk then s0.sendOp o none else s0)
  else if code ≠ stOk then done code s0
  else if s0.sendsNow o then
    let (x, s1) := s0.htsDo s.blk.vf o
    done x s1
  else s0.sendLater d o la

/-- An operation after its purity test (R265). -/
def State.htsIssue (s : State) (d : Nat) (o : HtsOp) (code la : Nat) : State := s.purity (some 0) fun s => s.htsSend d o code la

/-- Status of an operation on a word that names no task, before it is sent (R438). A k out of range is found after the name and its state, in code order (R42). -/
def htsEarly (n : Nat) : Nat := if n = 0 ∨ 2 ^ 20 ≤ n then stNoname else stOk

/-- `tskpost` (R437 to R440): the record is read once, when the earlier work that names the tile has ended. -/
def execTskpost (d h o la : Nat) (s : State) : Host.Outcome State Fault Refusal :=
  .next (s.ending fun s =>
    let off := (s.rS o).toNat
    s.tileAtPc h (fun t => off % 64 ≠ 0 ∨ tileBytes t.desc < off + 256) fun x _ s =>
      let bytes := (List.range 256).map fun i => ((s.tileStore s.bid x).byte (off + i)).toNat
      s.htsIssue d ⟨0, 0, 0, BitVec.ofNat 2048 (leNat bytes), 0, [], []⟩ stOk la)

/-- `tskdec` (R437 to R440). -/
def execTskdec (d n k la : Nat) (s : State) : Host.Outcome State Fault Refusal :=
  .next (s.ending fun s => s.htsIssue d ⟨1, (s.rS n).toNat, (s.rS k).toNat, 0, 0, [], []⟩ (htsEarly (s.rS n).toNat) la)

/-- `tskadd` (R437 to R440). -/
def execTskadd (d n k la : Nat) (s : State) : Host.Outcome State Fault Refusal :=
  .next (s.ending fun s => s.htsIssue d ⟨2, (s.rS n).toNat, (s.rS k).toNat, 0, 0, [], []⟩ (htsEarly (s.rS n).toNat) la)

/-- `tskq` (R43, R437 to R440). -/
def execTskq (d n _la : Nat) (s : State) : Host.Outcome State Fault Refusal :=
  let x := (s.rS n).toNat
  let v : DWord := if x = 0 ∨ 2 ^ 20 ≤ x then 0 else BitVec.ofNat 64 (s.htsQuery s.blk.vf x)
  .next (s.writing [.s d] fun s => s.replayed v fun v s => (s.writeS d v).advance 4)

end Sys2Proof.Machine
end

