-- ==== Sys2Proof/Machine/Vector.lean ====
section
/-! DEFINITION. Per-lane vector instructions (R94 to R103, R441 to R447, R452, R454, R455, R457). -/

set_option Elab.async false

namespace Sys2Proof.Machine

/-- The controls of a vector instruction (R441). -/
structure Ctl where
  et : Nat
  rm : Nat
  sat : Bool
  ftz : Bool
  deriving DecidableEq, Repr

/-- The controls in force for the issuing path. -/
def State.ctl (s : State) : Ctl := ⟨s.path.modeET, s.path.modeRM, s.path.modeSAT, s.path.modeFTZ⟩
/-- Element width, signedness and format of the type. -/
def Ctl.n (c : Ctl) : Nat := etBits c.et
def Ctl.sg (c : Ctl) : Bool := etSigned c.et
def Ctl.fmt (c : Ctl) : Fmt := etFmt c.et
/-- The integer an element stands for, and an exact integer delivered (R101). -/
def Ctl.val (c : Ctl) (x : Nat) : Int := intVal c.n c.sg x
def Ctl.out (c : Ctl) (x : Int) : FRes := .exact (intOut c.n c.sg c.sat x)

/-- All flags of a list of results. -/
def flagsOf (l : List FRes) : Nat := l.foldl (fun a r => a ||| r.flags) 0

/-- Elements combined into a value, with their flags (R89, R97). -/
def packRes (n : Nat) (l : List FRes) : FRes := ⟨packElems n (l.map (·.bits)), flagsOf l⟩

/-- Element-wise application to one, two or three values. -/
def map1 (et : Nat) (f : Nat → FRes) (a : Nat) : FRes := packRes (etBits et) ((elemsOf et a).map f)
def map2 (et : Nat) (f : Nat → Nat → FRes) (a b : Nat) : FRes :=
  packRes (etBits et) (((elemsOf et a).zip (elemsOf et b)).map fun x => f x.1 x.2)
def map3 (et : Nat) (f : Nat → Nat → Nat → FRes) (a b d : Nat) : FRes :=
  packRes (etBits et) ((((elemsOf et a).zip (elemsOf et b)).zip (elemsOf et d)).map fun x => f x.1.1 x.1.2 x.2)

/-- Write a result to n registers of the given lanes, with its flags (R441). -/
def State.vecLanes (s : State) (lanes : Word) (d n len : Nat) (f : Nat → FRes) : State :=
  s.writing ((List.range n).map fun i => .v (d + i)) fun s =>
    let l := (lanesOf lanes).map fun i => (i, f i)
    let s1 := s.orFlags (BitVec.ofNat 6 (flagsOf (l.map (·.2))))
    (s1.writeVec d n (l.map fun e => (e.1, e.2.bits))).advance len

/-- Write a result to n registers of the acting lanes. -/
def State.vecOp (s : State) (d n len : Nat) (f : Nat → FRes) : State := s.vecLanes s.acting d n len f

/-- A unary instruction on elements (R442). -/
def State.unary (s : State) (ok : Nat → Bool) (d a : Nat) (f : Ctl → Nat → FRes) : State :=
  let c := s.ctl
  let n := etRegs c.et
  if ok c.et && s.vRegsOk d n && s.vRegsOk a n then s.vecOp d n 4 fun i => map1 c.et (f c) (s.vVal a n i) else s.illop

/-- A binary instruction on elements (R444). -/
def State.binary (s : State) (ok : Nat → Bool) (d a b : Nat) (f : Ctl → Nat → Nat → FRes) : State :=
  let c := s.ctl
  let n := etRegs c.et
  if ok c.et && s.vRegsOk d n && s.vRegsOk a n && s.vRegsOk b n then
    s.vecOp d n 4 fun i => map2 c.et (f c) (s.vVal a n i) (s.vVal b n i)
  else s.illop

/-- An instruction that also reads its destination (R445). -/
def State.ternary (s : State) (ok : Nat → Bool) (d a b : Nat) (f : Ctl → Nat → Nat → Nat → FRes) : State :=
  let c := s.ctl
  let n := etRegs c.et
  if ok c.et && s.vRegsOk d n && s.vRegsOk a n && s.vRegsOk b n then
    s.vecOp d n 4 fun i => map3 c.et (f c) (s.vVal a n i) (s.vVal b n i) (s.vVal d n i)
  else s.illop

/-- A bitwise instruction on registers or pairs (R445). -/
def State.bitwise (s : State) (d a b : Nat) (f : Nat → Nat → Nat) : State :=
  let n := etRegs s.path.modeET
  if s.vRegsOk d n && s.vRegsOk a n && s.vRegsOk b n then s.vecOp d n 4 fun i => .exact (f (s.vVal a n i) (s.vVal b n i))
  else s.illop

/-- Classes of R441. -/
def etNum (et : Nat) : Bool := etInt et || etFlt et
def etAny (_ : Nat) : Bool := true
/-- Types of the approximate functions (R100). -/
def etApprox (et : Nat) : Bool := et == 2 || et == 3 || et == 4

/-! Element operations -/

def eAdd (c : Ctl) (a b : Nat) : FRes := if etFlt c.et then c.fmt.addF c.rm c.ftz a b else c.out (c.val a + c.val b)
def eSub (c : Ctl) (a b : Nat) : FRes := if etFlt c.et then c.fmt.subF c.rm c.ftz a b else c.out (c.val a - c.val b)
def eMul (c : Ctl) (a b : Nat) : FRes := if etFlt c.et then c.fmt.mulF c.rm c.ftz a b else c.out (c.val a * c.val b)
/-- The lesser or the greater (R98, R445). -/
def eMinMax (mx : Bool) (c : Ctl) (a b : Nat) : FRes :=
  if etFlt c.et then c.fmt.minmax c.ftz mx a b
  else .exact (if mx then (if c.val a < c.val b then b else a) else (if c.val b < c.val a then b else a))
/-- a × b + d or a × b − d. -/
def eFma (sub : Bool) (c : Ctl) (a b d : Nat) : FRes :=
  if etFlt c.et then c.fmt.fmaF c.rm c.ftz sub a b d
  else c.out (if sub then c.val a * c.val b - c.val d else c.val a * c.val b + c.val d)
/-- Integer quotient (R101). -/
def intDiv (c : Ctl) (a b : Nat) : Nat :=
  let x := c.val a
  let y := c.val b
  if y = 0 then (if c.sg then wrap c.n (if 0 ≤ x then intMax c.n true else intMin c.n true) else 2 ^ c.n - 1)
  else intOut c.n c.sg c.sat (x.tdiv y)
def eDiv (c : Ctl) (a b : Nat) : FRes := if etFlt c.et then c.fmt.divF c.rm c.ftz a b else .exact (intDiv c a b)
/-- Shifts by an unsigned count (R445). -/
def eShl (c : Ctl) (a b : Nat) : FRes := .exact (if c.n ≤ b then 0 else a * 2 ^ b % 2 ^ c.n)
def eShr (c : Ctl) (a b : Nat) : FRes := .exact (wrap c.n (c.val a / (2 ^ (min b c.n) : Nat)))
/-- The high half of the exact product. -/
def eMulhi (c : Ctl) (a b : Nat) : FRes := .exact (wrap c.n (c.val a * c.val b / (2 ^ c.n : Nat)))
/-- Absolute value (R443). -/
def eAbs (c : Ctl) (a : Nat) : FRes :=
  if etFlt c.et then .exact (a % c.fmt.signBit) else c.out (c.val a).natAbs
/-- Negation. -/
def eNeg (c : Ctl) (a : Nat) : FRes :=
  if etFlt c.et then .exact (if a < c.fmt.signBit then a + c.fmt.signBit else a - c.fmt.signBit) else c.out (-c.val a)
/-- Leading zeros of an n-bit element. -/
def clz (n a : Nat) : Nat := if a % 2 ^ n = 0 then n else n - 1 - Nat.log2 (a % 2 ^ n)

/-! Binary instructions -/

/-- `vadd` (R445). -/
def execVadd (d a b : Nat) (s : State) : Host.Outcome State Fault Refusal := .next (s.binary etNum d a b eAdd)
/-- `vsub` (R445). -/
def execVsub (d a b : Nat) (s : State) : Host.Outcome State Fault Refusal := .next (s.binary etNum d a b eSub)
/-- `vmul` (R445). -/
def execVmul (d a b : Nat) (s : State) : Host.Outcome State Fault Refusal := .next (s.binary etNum d a b eMul)
/-- `vmin` (R445). -/
def execVmin (d a b : Nat) (s : State) : Host.Outcome State Fault Refusal := .next (s.binary etNum d a b (eMinMax false))
/-- `vmax` (R445). -/
def execVmax (d a b : Nat) (s : State) : Host.Outcome State Fault Refusal := .next (s.binary etNum d a b (eMinMax true))
/-- `vfma` (R445). -/
def execVfma (d a b : Nat) (s : State) : Host.Outcome State Fault Refusal := .next (s.ternary etNum d a b (eFma false))
/-- `vfms` (R445). -/
def execVfms (d a b : Nat) (s : State) : Host.Outcome State Fault Refusal := .next (s.ternary etNum d a b (eFma true))
/-- `vdiv` (R445). -/
def execVdiv (d a b : Nat) (s : State) : Host.Outcome State Fault Refusal := .next (s.binary etNum d a b eDiv)
/-- `vand` (R445). -/
def execVand (d a b : Nat) (s : State) : Host.Outcome State Fault Refusal := .next (s.bitwise d a b (· &&& ·))
/-- `vor` (R445). -/
def execVor (d a b : Nat) (s : State) : Host.Outcome State Fault Refusal := .next (s.bitwise d a b (· ||| ·))
/-- `vxor` (R445). -/
def execVxor (d a b : Nat) (s : State) : Host.Outcome State Fault Refusal := .next (s.bitwise d a b (· ^^^ ·))
/-- `vshl` (R445). -/
def execVshl (d a b : Nat) (s : State) : Host.Outcome State Fault Refusal := .next (s.binary etInt d a b eShl)
/-- `vshr` (R445). -/
def execVshr (d a b : Nat) (s : State) : Host.Outcome State Fault Refusal := .next (s.binary etInt d a b eShr)
/-- `vmulhi` (R445). -/
def execVmulhi (d a b : Nat) (s : State) : Host.Outcome State Fault Refusal := .next (s.binary etInt d a b eMulhi)

/-- The dot product of a lane (R446). -/
def dotRes (c : Ctl) (a b d : Nat) : FRes :=
  let ps := (elemsOf c.et a).zip (elemsOf c.et b)
  if etFlt c.et then
    let prods := ps.map fun x => FVal.mul (c.fmt.readZ c.ftz x.1) (c.fmt.readZ c.ftz x.2)
    let acc := f32F.readZ c.ftz d
    let inv := prods.any (·.2) || acc.signals || ps.any fun x => (c.fmt.readZ c.ftz x.1).signals || (c.fmt.readZ c.ftz x.2).signals
    f32F.sum c.rm c.ftz inv (acc :: prods.map (·.1))
  else
    .exact (intOut 32 c.sg c.sat (ps.foldl (fun t x => t + c.val x.1 * c.val x.2) (intVal 32 c.sg d)))

/-- `vdot4` (R446). -/
def execVdot4 (d a b : Nat) (s : State) : Host.Outcome State Fault Refusal :=
  let c := s.ctl
  .next (if 3 ≤ c.et && c.et ≤ 7 && s.vOk d && s.vOk a && s.vOk b then
      s.vecOp d 1 4 fun i => dotRes c (s.rV a i).toNat (s.rV b i).toNat (s.rV d i).toNat
    else s.illop)

/-- `vsel` (R447): every active and helper lane, whatever the guard. -/
def execVsel (d a b : Nat) (s : State) : Host.Outcome State Fault Refusal :=
  let n := etRegs s.path.modeET
  .next (if s.vRegsOk d n && s.vRegsOk a n && s.vRegsOk b n then
      s.vecLanes (s.path.mask ||| s.helperLanes) d n 4 fun i => .exact (s.vVal (if s.guardMask.getLsbD i then a else b) n i)
    else s.illop)

/-! Unary instructions -/

/-- `vabs` (R443). -/
def execVabs (d a : Nat) (s : State) : Host.Outcome State Fault Refusal := .next (s.unary etNum d a eAbs)
/-- `vneg` (R443). -/
def execVneg (d a : Nat) (s : State) : Host.Outcome State Fault Refusal := .next (s.unary etNum d a eNeg)
/-- `vnot` (R443). -/
def execVnot (d a : Nat) (s : State) : Host.Outcome State Fault Refusal :=
  .next (s.unary etAny d a fun c x => .exact (2 ^ c.n - 1 - x))
/-- `vrcp` (R100). -/
def execVrcp (d a : Nat) (s : State) : Host.Outcome State Fault Refusal := .next (s.unary etApprox d a fun c x => c.fmt.approxF 0 c.ftz x)
/-- `vrsq` (R100). -/
def execVrsq (d a : Nat) (s : State) : Host.Outcome State Fault Refusal := .next (s.unary etApprox d a fun c x => c.fmt.approxF 1 c.ftz x)
/-- `vsqrt` (R443). -/
def execVsqrt (d a : Nat) (s : State) : Host.Outcome State Fault Refusal := .next (s.unary etFlt d a fun c x => c.fmt.sqrtF c.rm c.ftz x)
/-- `vexp2` (R100). -/
def execVexp2 (d a : Nat) (s : State) : Host.Outcome State Fault Refusal := .next (s.unary etApprox d a fun c x => c.fmt.approxF 2 c.ftz x)
/-- `vlog2` (R100). -/
def execVlog2 (d a : Nat) (s : State) : Host.Outcome State Fault Refusal := .next (s.unary etApprox d a fun c x => c.fmt.approxF 3 c.ftz x)
/-- `vsin` (R100). -/
def execVsin (d a : Nat) (s : State) : Host.Outcome State Fault Refusal := .next (s.unary etApprox d a fun c x => c.fmt.approxF 4 c.ftz x)
/-- `vcos` (R100). -/
def execVcos (d a : Nat) (s : State) : Host.Outcome State Fault Refusal := .next (s.unary etApprox d a fun c x => c.fmt.approxF 5 c.ftz x)
/-- `vpopc` (R443). -/
def execVpopc (d a : Nat) (s : State) : Host.Outcome State Fault Refusal := .next (s.unary etInt d a fun c x => .exact (popc c.n x))
/-- `vclz` (R443). -/
def execVclz (d a : Nat) (s : State) : Host.Outcome State Fault Refusal := .next (s.unary etInt d a fun c x => .exact (clz c.n x))
/-- `vmov` (R443). -/
def execVmov (d a : Nat) (s : State) : Host.Outcome State Fault Refusal := .next (s.unary etAny d a fun _ x => .exact x)

/-! Conversions (R102, R103, R455) -/

/-- Half registers an element of a type takes, inverted: elements in two registers. -/
def etPer2 (et : Nat) : Nat := 64 / etBits et
/-- Elements in a group. -/
def groupOf (src tgt : Nat) : Nat := max (max (etPer2 src) (etPer2 tgt)) 2 / 2
/-- Registers of a range. -/
def rangeRegs (g et : Nat) : Nat := 2 * g / etPer2 et

/-- A type holds floating-point values. -/
def etFloaty (et : Nat) : Bool := etFlt et || et == 11 || et == 12

/-- One element converted (R103). -/
def convElem (c : Ctl) (tgt x : Nat) : FRes :=
  if etFloaty c.et then
    (if etFloaty tgt then c.fmt.toFloat (etFmt tgt) c.rm c.sat c.ftz x else c.fmt.toInt (etBits tgt) (etSigned tgt) c.rm c.ftz x)
  else if etFloaty tgt then (etFmt tgt).ofInt c.rm c.sat c.ftz (c.val x)
  else .exact (intOut (etBits tgt) (etSigned tgt) c.sat (c.val x))

/-- `vcvt` (R102, R455). -/
def execVcvt (t : ElemType) (d a : Nat) (s : State) : Host.Outcome State Fault Refusal :=
  let c := s.ctl
  let tgt := etCode t
  let g := groupOf c.et tgt
  let ns := rangeRegs g c.et
  let nt := rangeRegs g tgt
  .next (if s.vRegsOk d nt && s.vRegsOk a ns then
      s.vecOp d nt 4 fun i =>
        packRes (etBits tgt) ((List.range g).map fun j => convElem c tgt (s.vVal a ns i / 2 ^ (c.n * j) % 2 ^ c.n))
    else s.illop)

/-! Bit fields, immediates and compares -/

/-- Offset and usable length of a field word (R452). -/
def bfOff (b : Nat) : Nat := b % 32
def bfLen (b : Nat) : Nat := min (bits b 13 8) (32 - bfOff b)

/-- `vbfe` on a lane (R452). -/
def bfeRes (signed : Bool) (a b : Nat) : Nat :=
  let k := bfLen b
  let f := a / 2 ^ bfOff b % 2 ^ k
  if k = 0 then 0 else if signed then wrap 32 (sext k f) else f

/-- `vbfi` on a lane (R452). -/
def bfiRes (a b d : Nat) : Nat := if bfLen b = 0 then d else putBits d (bfOff b + bfLen b - 1) (bfOff b) a

/-- `vbfe` (R452). -/
def execVbfe (d a b : Nat) (s : State) : Host.Outcome State Fault Refusal :=
  .next (if s.path.modeET ≤ 1 && s.vOk d && s.vOk a && s.vOk b then
      s.vecOp d 1 4 fun i => .exact (bfeRes (s.path.modeET == 0) (s.rV a i).toNat (s.rV b i).toNat)
    else s.illop)
/-- `vbfi` (R452). -/
def execVbfi (d a b : Nat) (s : State) : Host.Outcome State Fault Refusal :=
  .next (if s.path.modeET ≤ 1 && s.vOk d && s.vOk a && s.vOk b then
      s.vecOp d 1 4 fun i => .exact (bfiRes (s.rV a i).toNat (s.rV b i).toNat (s.rV d i).toNat)
    else s.illop)

/-- `vmovi`, short form (R457). -/
def execVmovi (d : Nat) (imm : Int) (s : State) : Host.Outcome State Fault Refusal :=
  .next (if s.vOk d then s.vecOp d 1 4 fun _ => .exact (wrap 32 imm) else s.illop)
/-- `vmovi`, literal form (R457). -/
def execVmoviLiteral (d lit : Nat) (s : State) : Host.Outcome State Fault Refusal :=
  .next (if s.vOk d then s.vecOp d 1 8 fun _ => .exact lit else s.illop)

/-- The code of a `vcmp` condition. -/
def vcmpCode : VCond → Nat
  | .eq => 0 | .ne => 1 | .lt => 2 | .le => 3 | .gt => 4 | .ge => 5 | .ord => 6 | .unord => 7

/-- An integer condition; ord is always true (R454). -/
def intCond (c : VCond) (x y : Int) : Bool :=
  match c with
  | .eq => x == y | .ne => x != y | .lt => decide (x < y) | .le => decide (x ≤ y) | .gt => decide (y < x) | .ge => decide (y ≤ x)
  | .ord => true | .unord => false

/-- A condition on one element, with its flags. -/
def eCmp (k : VCond) (c : Ctl) (a b : Nat) : Bool × Nat :=
  if etFlt c.et then c.fmt.compare c.ftz (vcmpCode k) a b else (intCond k (c.val a) (c.val b), 0)

/-- `vcmp` (R454). -/
def execVcmp (k : VCond) (p a b : Nat) (s : State) : Host.Outcome State Fault Refusal :=
  let c := s.ctl
  let n := etRegs c.et
  .next (if etNum c.et && s.vRegsOk a n && s.vRegsOk b n then
      s.writing [.p p] fun s =>
        let rs := (lanesOf s.acting).map fun i =>
          (i, ((elemsOf c.et (s.vVal a n i)).zip (elemsOf c.et (s.vVal b n i))).map fun x => eCmp k c x.1 x.2)
        let fl := rs.foldl (fun t r => r.2.foldl (fun t x => t ||| x.2) t) 0
        let m := rs.foldl (fun t r => setLane t r.1 (r.2.all (·.1))) (s.rP p)
        ((s.orFlags (BitVec.ofNat 6 fl)).writeP p m).advance 4
    else s.illop)

end Sys2Proof.Machine
end

