-- ==== Sys2Proof/Machine/Issue.lean ====
section
/-! DEFINITION. Issue: stall charges, the choice of a path for a slot, instruction fetch, the scoreboard and the lookahead window, and the end of waits (R24, R27, R55 to R59, R149, R219 to R221, R290, R321, R326, R331, R332, R462, R484). -/

set_option Elab.async false

namespace Sys2Proof.Machine

/-! Stall counters (R219 to R221) -/

/-- Charge n units to a cause in the partition block of a partition that counts. -/
def State.chargePart (s : State) (p cause n : Nat) : State :=
  if s.regBits Config.pf blkPart (partOff p + 0x4000) 0 0 = 1 then s.regSat Config.pf blkPart (partOff p + 0x4100 + 8 * cause) 64 n else s

/-- Charge n units of a VF to a cause. -/
def State.charge (s : State) (vf cause n : Nat) : State :=
  let s1 := if s.regBits vf blkStall 0 0 0 = 1 then s.regSat vf blkStall (0x100 + 8 * cause) 64 n else s
  match s.partOf vf with
  | some p => s1.chargePart p cause n
  | none => s1

/-- The partition in whose set a core's cluster is. -/
def State.partOfCore (s : State) (core : Nat) : Option Nat :=
  (List.range Config.partitions).find? fun p => bitOf (s.clustersOf p) (clusterOf core)

/-- Registers pending on memory. -/
def Warp.memPending (w : Warp) (l : List RegRef) : Bool :=
  w.pend.any fun p => p.kind == 0 && l.any p.regs.contains || p.kind == 1 && p.waiting != [p.id] && l.any p.regs.contains

/-- A v register: the scoreboard of these is a path's own (R13, R21). -/
def RegRef.isV : RegRef → Bool
  | .v _ => true
  | _ => false

/-- Registers that the incomplete instructions of a path read or write (R326). -/
def Path.readRegs (p : Path) : List RegRef := (p.reads.filter fun e => p.windows.any fun x => x.1 == e.1).flatMap (·.2)

/-- Registers the scoreboard holds for a path: those of pending accesses, and those that incomplete instructions read (R326). In a split warp the v registers of the other path do not count (R13, R21, R78). -/
def Warp.heldRegs (w : Warp) (b : Bool) : List RegRef :=
  let of (c : Bool) : List RegRef := (w.pend.filter fun p => p.pathB == c).flatMap (·.regs) ++ (w.path c).readRegs
  of b ++ if w.split then (of (!b)).filter (!·.isV) else of (!b)

/-- An issued instruction is a `qwait` or a `tfree`, whose wait charges MEMWAIT (R220). -/
def Slow.waitsMemory (x : Slow) : Bool :=
  match x.op with
  | .qwait _ | .tfree => true
  | _ => false

/-- The cause a waiting path charges (R220). -/
def State.waitCause (s : State) (wid : Nat) (b : Bool) : Option Nat :=
  let w := s.warpOf wid
  match (w.path b).st with
  | .ready => none
  | .operandWait (.regs l) => some (if w.memPending l then 5 else 4)
  | .operandWait (.window ids) => some (if (w.pend.any fun p => ids.contains p.id && p.waiting != [p.id]) ||
      (w.slow.any fun x => ids.contains x.id && x.waitsMemory) then 5 else 4)
  | .operandWait (.fetch _) => some 5
  | .operandWait _ => some 4
  | .queueWait _ => some 6
  | .sleepYield _ => some 7
  | .sleepCopy _ _ => some 7
  | .sleepPage _ _ _ => some 7
  | .parked _ _ => some 8
  | .clampWait _ _ => some 9
  | .barrier _ _ _ => some 10
  | .roleWait _ => some 11
  | .ended => none

/-! Choosing a path (R55 to R57) -/

/-- Key of a quarter. -/
def quarterKey (core q : Nat) : Nat := core * 4 + q

/-- A quarter's state; a VF not listed has deficit 0. -/
def State.quarterOf' (s : State) (k : Nat) : Quarter := AL.getD s.quarters k ⟨[], [], [], [], 0⟩

/-- The warps resident on a quarter of a core. -/
def State.quarterWarps (s : State) (core q : Nat) : List Nat :=
  (s.warps.filter fun e => quarterOf e.1 == q && !e.2.exited && (s.blockOf e.2.bid).core == core && (s.blockOf e.2.bid).onCore).map (·.1)

/-- The paths of a list of warps. -/
def pathsOf (l : List Nat) : List (Nat × Bool) := l.flatMap fun k => [(k, false), (k, true)]

/-- A path may be issued from: Ready, not held or stopped, and not taken for pre-emption. -/
def State.issuable (s : State) (x : Nat × Bool) : Bool :=
  let w := s.warpOf x.1
  let b := s.blockOf w.bid
  let p := w.path x.2
  p.st == .ready && !p.held && (!w.dbg || w.stepping == some x.2) && !w.exited && w.saved.isNone && (b.st == .resident || b.st == .saving)

/-- The VF of a path. -/
def State.vfOfPath (s : State) (x : Nat × Bool) : Nat := (s.blockOf (s.warpOf x.1).bid).vf

/-- A path of a check run. -/
def State.checkPath (s : State) (x : Nat × Bool) : Bool := (s.blockOf (s.warpOf x.1).bid).isCheck

/-- R56: x goes before y: more urgent class, longer Ready. Of paths equal in both, the one issued longer ago, then the lower warp, then path A goes first: R56 states the alternation of one warp's two paths, and the order between warps is the model's choice (DESIGN CHOICE, log entry 79). -/
def State.before (s : State) (x y : Nat × Bool) : Bool :=
  let p := (s.warpOf x.1).path x.2
  let q := (s.warpOf y.1).path y.2
  let cx := if p.promoted then 0 else (s.warpOf x.1).prio
  let cy := if q.promoted then 0 else (s.warpOf y.1).prio
  if cx ≠ cy then cx < cy
  else if p.since ≠ q.since then p.since < q.since
  else if p.lastIssue ≠ q.lastIssue then p.lastIssue < q.lastIssue
  else if x.1 ≠ y.1 then x.1 < y.1
  else !x.2 && y.2

/-- The path of a list that R56 takes. -/
def State.oldest (s : State) : List (Nat × Bool) → Option (Nat × Bool)
  | [] => none
  | x :: r => some (r.foldl (fun m y => if s.before y m then y else m) x)

/-- The VF with the largest deficit; ties go to the lower number. -/
def topVf (d : AL Int) : List Nat → Option Nat
  | [] => none
  | v :: r => some (r.foldl (fun m u => if AL.getD d m 0 < AL.getD d u 0 then u else m) v)

/-- What a slot decides: the path that issues, the quarter after it, and whether the slot was a reserved one. -/
structure SlotPick where
  path : Option (Nat × Bool)
  quarter : Quarter
  check : Bool
  deriving DecidableEq, Repr

/-- One issue slot (R55 to R57): `ready` are the paths Ready on the quarter, `vfs` the VFs resident on it. -/
def State.pickSlot (s : State) (q0 : Quarter) (vfs : List Nat) (ready : List (Nat × Bool)) : SlotPick :=
  let c := sortNub (ready.map s.vfOfPath)
  let weights := vfs.foldl (fun (t : AL Nat) v => if AL.has t v then t else AL.put t v (s.weightNow v)) (q0.weight.filter fun e => vfs.contains e.1)
  let since := c.foldl (fun (t : AL Nat) v => if AL.has t v then t else AL.put t v s.now) (q0.readySince.filter fun e => c.contains e.1)
  let q : Quarter := { q0 with deficit := q0.deficit.filter (fun e => vfs.contains e.1), weight := weights, readySince := since, promoted := q0.promoted.filter c.contains }
  let checks := ready.filter s.checkPath
  let took (q : Quarter) (v : Nat) : Quarter := { q with readySince := AL.put q.readySince v (s.now + 1), promoted := q.promoted.filter (· != v) }
  if q.reserved < 16 && !checks.isEmpty then
    match s.oldest checks with
    | some x => ⟨some x, { took q (s.vfOfPath x) with reserved := q.reserved + 1 }, true⟩
    | none => ⟨none, q, false⟩
  else
    let d := c.foldl (fun (t : AL Int) v => AL.put t v (AL.getD t v 0 + (AL.getD weights v 0 : Nat))) q.deficit
    match (match q.promoted.head? with
      | some v => some v
      | none => topVf d c) with
    | none => ⟨none, q, false⟩
    | some v =>
      let w := sumNat (c.map fun u => AL.getD weights u 0)
      ⟨s.oldest (ready.filter fun x => s.vfOfPath x == v), took { q with deficit := AL.put d v (AL.getD d v 0 - (w : Nat)) } v, false⟩

/-- The cause a path charges in a slot (R219, R220). -/
def State.slotCause (s : State) (pick : SlotPick) (x : Nat × Bool) : Option Nat :=
  let w := s.warpOf x.1
  let p := w.path x.2
  if pick.path = some x then some 0
  else if p.st = .ended || w.saved.isSome || (s.blockOf w.bid).st = .starting then none
  else if p.held || w.dbg then some 12
  else if p.st = .ready then
    match pick.path with
    | some y => some (if pick.check then 3 else if s.vfOfPath y = s.vfOfPath x then 2 else 1)
    | none => none
  else s.waitCause x.1 x.2

/-- A debug breakpoint that a path meets (R290): its number. One that stopped it here is passed once, with those before it. -/
def State.breakpoint (s : State) (x : Nat × Bool) : Option Nat :=
  let b := s.blockOf (s.warpOf x.1).bid
  let p := (s.warpOf x.1).path x.2
  if b.isCheck || !s.den b.vf then none
  else (List.range 8).find? fun n =>
    p.passBp.all (fun t => t.2 != p.pc.toNat || t.1 < n) && s.regBits b.vf blkDebug (16 * n) 0 0 == 1 && s.regBits b.vf blkDebug (16 * n) 56 2 == p.pc.toNat / 4 &&
    (s.regBits b.vf blkDebug (16 * n + 8) 20 20 == 0 || s.regBits b.vf blkDebug (16 * n + 8) 19 0 == b.task)

/-- The chosen path issues, unless a debug stop comes first (R290). -/
def State.issueOrStop (s : State) (x : Nat × Bool) : State :=
  let w := s.warpOf x.1
  if w.stepping.isSome then { s with issue := some x }
  else if (s.blockOf w.bid).stopBlk.contains w.idx then s.debugStopAt x.1 x.2 0 4
  else match s.breakpoint x with
    | some n => (s.updWarp x.1 fun w => w.setPath x.2 { w.path x.2 with passBp := some (n, (w.path x.2).pc.toNat) }).debugStopAt x.1 x.2 n 0
    | none => { s with issue := some x }

/-- ISSUE_SLOT (R55 to R57, R59, R219). -/
def execIssueSlot (core quarter : Nat) (s : State) : Host.Outcome State Fault Refusal :=
  .next (
    let k := quarterKey core quarter
    let ws := s.quarterWarps core quarter
    let ready := (pathsOf ws).filter s.issuable
    let pick := s.pickSlot (s.quarterOf' k) (sortNub (ws.map fun x => s.vfOfPath (x, false))) ready
    let s1 := (pathsOf ws).foldl (fun (s1 : State) (x : Nat × Bool) =>
      match s.slotCause pick x with
      | some c => s1.charge (s.vfOfPath x) c 1
      | none => s1) s
    let s2 := if ready.isEmpty then
        match s.partOfCore core with
        | some p => s1.chargePart p 13 1
        | none => s1
      else s1
    let keep := !ws.isEmpty || pick.quarter.reserved != 0
    let s3 := { s2 with quarters := if keep then AL.put s2.quarters k pick.quarter else AL.del s2.quarters k }
    match pick.path with
    | some x => s3.issueOrStop x
    | none => s3)

/-- A VF has had a Ready path for 4,096 clocks without issuing (R55). -/
def State.vfOverdue (s : State) (k vf : Nat) : Bool :=
  match AL.get? (s.quarterOf' k).readySince vf with
  | some t => t + 4096 ≤ s.now && !(s.quarterOf' k).promoted.contains vf
  | none => false

/-- ISSUE_VF_PROMOTE (R55): the VF is taken next. -/
def execIssueVfPromote (core quarter vf : Nat) (s : State) : Host.Outcome State Fault Refusal :=
  .next (let k := quarterKey core quarter
    if s.vfOverdue k vf then { s with quarters := AL.upd s.quarters k fun q => { q with promoted := insSorted vf q.promoted } } else s)

/-- A path has been Ready for 1,024 clocks without issuing (R56). -/
def State.pathOverdue (s : State) (wid : Nat) (b : Bool) : Bool :=
  let p := (s.warpOf wid).path b
  s.issuable (wid, b) && p.since + 1024 ≤ s.now && !p.promoted

/-- ISSUE_PATH_PROMOTE (R56): the path counts as class 0 until it issues. -/
def execIssuePathPromote (wid : Nat) (pathB : Bool) (s : State) : Host.Outcome State Fault Refusal :=
  .next (if s.pathOverdue wid pathB then s.updWarp wid fun w => w.setPath pathB { w.path pathB with promoted := true } else s)

/-- ISSUE_ROUND_BOUNDARY (R55, R57): weights take effect and the reservation restarts. -/
def execIssueRoundBoundary (core quarter : Nat) (s : State) : Host.Outcome State Fault Refusal :=
  .next (if s.now % 256 ≠ 0 then s
    else { s with quarters := AL.upd s.quarters (quarterKey core quarter) fun q =>
      { q with reserved := 0, weight := q.weight.map fun (e : Nat × Nat) => (e.1, s.weightNow e.1) } })

/-- A warp's Role-wait can be granted (R24): it is the oldest of its share, and its growth fits. A warp that the debugger has stopped is granted after RESUME, and the later waiters of its share wait with it: R24 and R289 do not say, and the model chooses so (DESIGN CHOICE, log entry 79). -/
def State.roleReady (s : State) (wid : Nat) : Option Nat :=
  let w := s.warpOf wid
  let b := s.blockOf w.bid
  match w.roleWaits with
  | some n => if (b.st == .resident || b.st == .saving) && w.saved.isNone && !w.dbg && s.oldestRole w.bid (quarterOf wid) == some wid && s.roleFits wid n then some n else none
  | none => none

/-- ROLE_GRANT (R24). -/
def execRoleGrant (wid : Nat) (s : State) : Host.Outcome State Fault Refusal :=
  .next (match s.roleReady wid with
    | some n => s.grantRole wid n
    | none => s)

/-- A yield's time has come (R462). -/
def Path.yieldDue (p : Path) (now : Nat) : Bool :=
  match p.st with
  | .sleepYield t => t ≤ now
  | _ => false

/-- YIELD_WAKE (R462). -/
def execYieldWake (wid : Nat) (pathB : Bool) (s : State) : Host.Outcome State Fault Refusal :=
  .next (if ((s.warpOf wid).path pathB).yieldDue s.now then s.wakePath wid pathB fun p => p else s)

/-! Fetch (R149, R265, R321, R322) -/

/-- A word of the issuing path's instruction on another package: one that has come, or a request for it, which the path waits for (R250). -/
def State.farWord (s : State) (va spa dom : Nat) : Except State (Nat × State) :=
  match AL.get? s.path.fetched spa with
  | some w => .ok (w, s)
  | none =>
    let id := s.nextId
    .error ((s.farReq (.fetch s.cur s.curB) (Tbl.get s.w.pts (farDie (spa / 256))) s.blk.core s.blk.vf dom spa (va / 256 * 256) 0 4 none
      [(0, spa % 256, 0, 0)]).wait (.operandWait (.fetch id)))

/-- Fetch one word for the issuing path, or stop: a page that is not resident, denied or failing, or a word outside the code window of a pure task. -/
def State.fetchWord (s : State) (va : Nat) : Except State (Nat × State) :=
  let cv := s.codeva
  match s.purityTest (if (va + 2 ^ 57 - cv) % 2 ^ 57 < 0x40000 then none else some 0) with
  | .error s1 => .error s1
  | .ok s0 =>
    let (w, s1) := s0.translate s0.blk.core s0.blk.vf va
    match w with
    | .ok spa _ x _ _ dom =>
      if !x then .error (s1.trapInfo tcAccess va TermInfo.none)
      else if spaRemote spa then s1.farWord va spa dom
      else match s1.readVa s1.blk.core s1.blk.vf dom va spa 4 with
        | (some c, s2) => .error (s2.trapInfo c va (.error c false))
        | (none, s2) => .ok (leNat (s2.memBytes spa 4), s2)
    | .nonres .. => .error (s1.park va 3 false w)
    | _ => .error (s1.denyTrap va false w)

/-- Fetch n words from an address on. -/
def State.fetchWords (s : State) (va : Nat) : Nat → Except State (List Nat × State)
  | 0 => .ok ([], s)
  | n + 1 =>
    match s.fetchWord va with
    | .error s1 => .error s1
    | .ok (w, s1) =>
      match s1.fetchWords ((va + 4) % 2 ^ 57) n with
      | .error s2 => .error s2
      | .ok (ws, s2) => .ok (w :: ws, s2)

/-- ILLOP for a rejected word: a `cpy` or matrix instruction of a partial warp traps PARTIAL first (R332). -/
def State.rejectTrap (s : State) (w : Nat) : State :=
  let m := majorOf w
  if (m == 0x23 || m == 0x26 || m == 0x27 || m == 0x28) && !s.wholeWarp then s.trap tcPartial 0 else s.illop

/-- The first word of an instruction with literal words names a vector register that lies beyond the allotment or is no place for a value of its width, or gives a field of MODE a reserved value (R64, R70, R331). -/
def State.badFirst (s : State) : Instr → Bool
  | .vmoviLiteral d _ => !s.vOk d
  | .vswitch _ va _ _ => !s.vOk va
  | .atom _ d b i _ _ _ => !s.vWidthOk d s.path.width || !s.idxOk b i
  | .tatom _ d _ i _ _ _ => !s.vOk d || !s.vOk i
  | .cpy c => !s.vOk c.vsrc || !s.vOk c.vdst
  | .mode sel val => sel != 0 && sel < 8 && !modeLegal (modeNew s.path.mode.toNat sel val)
  | _ => false

/-- The first word alone decides ILLOP (R321): it is no instruction whatever follows it, or names a register that it may not. -/
def State.firstWordBad (s : State) (w : Nat) : Bool :=
  match decode w [] with
  | .ok i => s.badFirst i
  | .error _ => true

/-- Fetch and decode the instruction at the issuing path's PC (R321, R331). -/
def State.fetchInstr (s : State) : Except State (Instr × State) :=
  let pc := s.path.pc.toNat
  match s.fetchWord pc with
  | .error s1 => .error s1
  | .ok (w, s1) =>
    if s.firstWordBad w then .error (s1.rejectTrap w)
    else match s1.fetchWords ((pc + 4) % 2 ^ 57) (literalCount w) with
      | .error s2 => .error s2
      | .ok (ls, s2) =>
        match decode w ls with
        | .ok i => .ok (i, s2)
        | .error _ => .error (s2.rejectTrap w)

/-! Scoreboard and lookahead (R326, R484) -/

/-- n registers from one on. -/
def vRegs (k n : Nat) : List RegRef := (List.range n).map fun i => .v (k + i)

/-- The index registers of an access through b[b]. -/
def State.idxRegs (s : State) (b i : Nat) : List RegRef := if recKind (s.rB b) = 1 then [.v i, .v (i + 1)] else [.v i]

/-- Registers of an element of the tile that s[h] names. -/
def State.tileRegs (s : State) (h : Nat) : Nat :=
  match s.blk.tile? (s.rS h).toNat with
  | some t => widthRegs (tileElem t.desc)
  | none => 1

/-- The v and s registers an instruction reads or writes under the MODE and FMT in force (R484). No other kind of register is ever pending. -/
def State.usesRegs (s : State) (i : Instr) : List RegRef :=
  let n := etRegs s.path.modeET
  let w := widthRegs s.path.width
  match i with
  | .trap a | .eret a | .ret a | .jmpr a | .modex _ a | .mfmt a | .sigadd a | .tfree a _ | .bs _ a _ => [.s a]
  | .call _ => [.s 63]
  | .vswitch _ va sb _ => [.v va, .s sb]
  | .sregS d _ | .smovi d _ | .sliLo d _ | .sliHi d _ | .vvote _ d _ | .mpair d _ => [.s d]
  | .sregV d _ | .vmovi d _ | .vmoviLiteral d _ | .qpop d _ => [.v d]
  | .vadd d a b | .vsub d a b | .vmul d a b | .vmin d a b | .vmax d a b | .vfma d a b | .vfms d a b | .vdiv d a b
  | .vand d a b | .vor d a b | .vxor d a b | .vshl d a b | .vshr d a b | .vmulhi d a b | .vsel d a b => vRegs d n ++ vRegs a n ++ vRegs b n
  | .vdot4 d a b | .vbfe d a b | .vbfi d a b | .vshflIdx d a b => [.v d, .v a, .v b]
  | .vabs d a | .vneg d a | .vnot d a | .vrcp d a | .vrsq d a | .vsqrt d a | .vexp2 d a | .vlog2 d a | .vsin d a | .vcos d a
  | .vpopc d a | .vclz d a | .vmov d a | .vred _ d a | .vscan _ _ d a => vRegs d n ++ vRegs a n
  | .vcvt t d a =>
    let g := groupOf s.path.modeET (etCode t)
    vRegs d (rangeRegs g (etCode t)) ++ vRegs a (rangeRegs g s.path.modeET)
  | .vcmp _ _ a b => vRegs a n ++ vRegs b n
  | .vshflUp d a _ | .vshflDown d a _ | .vshflXor d a _ | .vbcast d a _ | .qswz d a _ | .qbcast d a _ => [.v d, .v a]
  | .vget d a _ => .s d :: vRegs a n
  | .vput d a _ => .s a :: vRegs d n
  | .pmovPS _ a => [.s a]
  | .pmovSP d _ | .pcnt d _ | .pffs d _ => [.s d]
  | .sadd d a b | .ssub d a b | .smul d a b | .sand d a b | .sor d a b | .sxor d a b | .sshl d a b | .sshr d a b | .sshrA d a b
  | .smin d a b | .smax d a b | .sminU d a b | .smaxU d a b | .scmp _ d a b | .tskdec d a b _ | .tskadd d a b _ | .tskpost d a b _ => [.s d, .s a, .s b]
  | .smov d a | .talloc d a _ | .tinfo d a _ | .tskq d a _ => [.s d, .s a]
  | .ld d b i _ => vRegs d w ++ s.idxRegs b i
  | .st b i src _ => vRegs src w ++ s.idxRegs b i
  | .atom op d b i vc _ _ => vRegs d w ++ s.idxRegs b i ++ (if op = .cas then vRegs vc w else [])
  | .ldu a _ c _ | .stu _ c a _ => .s c :: .s a :: (if s.path.width = 16 then [.s (a + 1)] else [])
  | .atomu op a _ c _ => .s c :: .s a :: (if op = .cas then [.s (a + 1)] else [])
  | .pf b i _ | .pgreq b i _ | .pgreqY b i _ => s.idxRegs b i
  | .brec _ a b _ | .sattach _ a b _ | .mma a b _ => [.s a, .s b]
  | .brecr _ _ c _ => [.s c]
  | .tld d h i _ => .s h :: .v i :: vRegs d (s.tileRegs h)
  | .tst h i src _ => .s h :: .v i :: vRegs src (s.tileRegs h)
  | .tatom op d h i vc _ _ => .s h :: .v i :: (vRegs d (s.tileRegs h) ++ if op = .cas then vRegs vc (s.tileRegs h) else [])
  | .cpy c => [.v c.vsrc, .v c.vdst] ++ (if c.stile then [.s c.bsrc] else []) ++ (if c.dtile then [.s c.bdst] else []) ++ (if c.done = 0 then [] else [.s c.scont])
  | .mmag a b c _ | .mwb a b c _ | .mqnt a b c _ => [.s a, .s b, .s c]
  | .mmas a c _ => [.s a, .s c]
  | .mbld a _ | .mbldPair a _ => [.s a]
  | _ => []

/-- An instruction that never issues while an LA-bearing instruction of the path is incomplete (R326). -/
def State.afterWindows (s : State) (i : Instr) : Bool :=
  match i with
  | .vbr p _ _ => (s.path.mask &&& s.rP p) != 0 && (s.path.mask &&& ~~~s.rP p) != 0
  | .vswitch n va sb table => 1 < (s.parts n va sb table).length
  | .join | .exit | .role _ | .rwp _ | .eret _ => true
  | _ => false

/-- An instruction at which a signature segment of the path may end, or is recorded (R225, R231). -/
def State.endsSegment (s : State) (i : Instr) : Bool :=
  match i with
  | .vbr _ _ _ | .vswitch _ _ _ _ => !s.w.split
  | .join | .exit | .rwp _ => true
  | _ => false

/-- What an instruction makes the machine do, for the orders that a lookahead window leaves as they are (R326): an access of memory or of a tile, work of an engine, of the scheduler or of a barrier, or a queue of the stream engine. -/
inductive OrderClass where
  | access
  | engine
  | stream (n : Nat)
  | other
  deriving DecidableEq, Repr

/-- The order class of an instruction. -/
def orderClass (i : Instr) : OrderClass :=
  match i with
  | .ld _ _ _ _ | .st _ _ _ _ | .atom _ _ _ _ _ _ _ | .ldu _ _ _ _ | .stu _ _ _ _ | .atomu _ _ _ _ _ | .pf _ _ _ | .tld _ _ _ _ | .tst _ _ _ _ | .tatom _ _ _ _ _ _ _
  | .mwb _ _ _ _ => .access
  | .cpy _ | .tskpost _ _ _ _ | .tskdec _ _ _ _ | .tskadd _ _ _ _ | .mma _ _ _ | .mmag _ _ _ _ | .mmas _ _ _ | .mbld _ _ | .mbldPair _ _ | .mqnt _ _ _ _
  | .bar _ _ | .gbar | .arrive _ _ | .tfree _ _ | .fence _ _ | .fenceSc _ _ | .wacq _ _ | .wrel _ _ | .qwait _ _ | .qfence _ _ => .engine
  | .sattach n _ _ _ | .qpop _ n | .qdrop n _ => .stream n
  | _ => .other

/-- An issued instruction that waits is a fence (R165). -/
def Slow.isFence (x : Slow) : Bool :=
  match x.op with
  | .fence _ _ => true
  | _ => false

/-- An issued instruction orders what its path does after it: a fence, a `qwait`, a `wacq` or a `wrel` (R165, R168, R170). -/
def Slow.orders (x : Slow) : Bool :=
  match x.op with
  | .fence _ _ | .qwait _ | .wacq _ | .wrel _ => true
  | _ => false

/-- Issued instructions that the next one comes after, whatever their lookahead (R165, R168, R216, R326): an access after the fences of its warp and its path's `qwait`; the work of an engine after the orders of its path; a stream queue after the `sattach` that binds it. -/
def State.ordersBefore (s : State) (i : Instr) : List Nat :=
  let own (x : Slow) : Bool := x.pathB == s.curB
  let binds (n : Nat) (x : Slow) : Bool := match x.op with
    | .bind m _ => m == n
    | _ => false
  let queued (x : Slow) : Bool := match x.op with
    | .qwait _ => true
    | _ => false
  (s.w.slow.filter fun x => match orderClass i with
    | .access => x.isFence || (own x && queued x)
    | .engine => own x && x.orders
    | .stream n => binds n x || (own x && x.orders)
    | .other => false).map (·.id)

/-- The wait of an instruction before its meaning: registers of the scoreboard, the lookahead window, orders, and, where a signature segment may end, the records still to be folded (R225, R226). -/
def State.gate (s : State) (i : Instr) : Option Wait :=
  let p := s.path
  let held := s.w.heldRegs s.curB
  let need := (s.usesRegs i).filter held.contains
  let full := (p.windows.filter (·.2 == 0)).map (·.1)
  if s.afterWindows i && !p.windows.isEmpty then some (.window (p.windows.map (·.1)))
  else if s.afterWindows i && s.endsSegment i && !p.folds.isEmpty then some (.folded)
  else if !full.isEmpty then some (.window full)
  else if !need.isEmpty then some (.regs need)
  else if !(s.ordersBefore i).isEmpty then some (.window (s.ordersBefore i))
  else none

/-- The cause that a vector instruction charges while it holds its quarter's pipe (R219, R220): the lane-exchange and reduction network, f64 elements, or any other vector work. -/
def State.vectorCause (s : State) (i : Instr) : Option Nat :=
  let plain := if s.path.modeET = 8 then 0x21 else 0x20
  match i with
  | .vred _ _ _ | .vscan _ _ _ _ | .vvote _ _ _ | .vshflIdx _ _ _ | .vshflUp _ _ _ | .vshflDown _ _ _ | .vshflXor _ _ _ | .vbcast _ _ _ | .qswz _ _ _ | .qbcast _ _ _ => some 0x22
  | .vadd _ _ _ | .vsub _ _ _ | .vmul _ _ _ | .vmin _ _ _ | .vmax _ _ _ | .vfma _ _ _ | .vfms _ _ _ | .vdiv _ _ _
  | .vabs _ _ | .vneg _ _ | .vrcp _ _ | .vrsq _ _ | .vsqrt _ _ | .vexp2 _ _ | .vlog2 _ _ | .vsin _ _ | .vcos _ _
  | .vcmp _ _ _ _ | .vcvt _ _ _ | .vsel _ _ _ | .vmov _ _ => some plain
  | .vand _ _ _ | .vor _ _ _ | .vxor _ _ _ | .vshl _ _ _ | .vshr _ _ _ | .vmulhi _ _ _ | .vdot4 _ _ _ | .vbfe _ _ _ | .vbfi _ _ _
  | .vnot _ _ | .vpopc _ _ | .vclz _ _ | .vmovi _ _ | .vmoviLiteral _ _ | .vget _ _ _ | .vput _ _ _ | .sregV _ _ => some 0x20
  | _ => none

/-- Charge the clock in which a vector instruction holds its pipe: every instruction takes one clock here (log entry 80). -/
def State.chargeVector (s : State) (i : Instr) : State :=
  match s.vectorCause i with
  | some c => s.charge s.blk.vf c 1
  | none => s

/-- The instruction to perform for a path that takes the slot, in the state its meaning starts in; or the state where none is performed. -/
def State.issueInstr (s0 : State) (x : Nat × Bool) : Except State (Instr × State) :=
  let s := { s0 with issue := none, cur := x.1, curB := x.2 }
  if !s.issuable x then .error s
  else match s.fetchInstr with
    | .error s1 => .error s1
    | .ok (i, s1) =>
      if s1.waitDone then .ok (i, s1)
      else match s1.gate i with
        | some c => .error (s1.wait (.operandWait c))
        | none => .ok (i, (s1.chargeVector i).modPath fun p => { p with windows := p.windows.map fun (e : Nat × Nat) => (e.1, e.2 - 1) })

/-- A wait after which the instruction starts over. -/
def PathState.startsOver : PathState → Bool
  | .operandWait (.regs _) | .operandWait (.window _) | .operandWait .folded | .operandWait (.merge _) | .operandWait (.mergeFree _)
  | .operandWait (.copyPlace _ _) | .operandWait (.matrixPlace _) | .operandWait (.fetch _) => true
  | .queueWait _ | .parked _ _ | .clampWait _ _ => true
  | .sleepPage _ _ again => again
  | _ => false

/-- A debug step ends (R290): the warp stays stopped, with a record. -/
def State.endStep (s : State) (x : Nat × Bool) : State :=
  let w := s.warpOf x.1
  let b := s.blockOf w.bid
  if AL.has s.warps x.1 && w.stepping == some x.2 then
    (s.updWarp x.1 fun w => { w with stepping := none }).queueStop b.vf b.task w.idx x.2 0 2 b.lin
  else s

/-- What an issue leaves to its path: its age, the lookahead windows, of an instruction that starts over as they were, and the registers that a new one reads or writes (R56, R326). Until an instruction issues, a breakpoint passed at it is passed, and its words from another package are kept. -/
def Path.issued (p : Path) (old : List (Nat × Nat)) (regs : List RegRef) (now : Nat) : Path :=
  let rests := p.st.startsOver
  let isOld (id : Nat) : Bool := old.any fun o => o.1 == id
  { p with
    since := now, lastIssue := now, promoted := false
    passBp := if rests then p.passBp else none
    fetched := if rests then p.fetched else []
    reads := (p.reads.filter fun e => p.windows.any fun x => x.1 == e.1) ++ ((p.windows.filter fun e => !isOld e.1).map fun e => (e.1, regs))
    windows := if rests then p.windows.map fun e => if isOld e.1 then (e.1, e.2 + 1) else e else p.windows }

/-- What an issue leaves behind it: what the path keeps, the end of a debug step, and the wake of the quarter's yielding paths (R56, R462). `before` is the state its meaning started from. -/
def State.afterIssue (s before : State) (i : Instr) (x : Nat × Bool) : State :=
  let s1 := s.updWarp x.1 fun w => w.setPath x.2 ((w.path x.2).issued ((before.warpOf x.1).path x.2).windows (before.usesRegs i) s.now)
  let early (p : Path) : Path := match p.st with
    | .sleepYield t => { p with st := .sleepYield (min t s.now) }
    | _ => p
  let s2 := (s1.quarterWarps ((before.blockOf (before.warpOf x.1).bid).core) (quarterOf x.1)).foldl (fun (s : State) k => s.updWarp k fun w =>
    { w with pathA := if (k, false) = x then w.pathA else early w.pathA, pathB := if (k, true) = x then w.pathB else early w.pathB }) s1
  (s2.tryArrive x.1 (!x.2)).endStep x

/-! The end of waits (R27, R484) -/

/-- None of a list of line requests is left. -/
def State.reqsGone (s : State) (ids : List Nat) : Bool := !(s.mm.reqs.any fun r => ids.contains r.id)
/-- None of a list of matrix entries is left. -/
def State.matsGone (s : State) (ids : List Nat) : Bool := !(s.eng.matq.any fun e => e.2.any fun m => ids.contains m.id)

/-- What a wait of Operand-wait waits for has come. Grants of tickets, and the waits of launches, end where they are made. -/
def State.waitOver (s : State) (wid : Nat) (b : Bool) : Wait → Bool
  | .regs l => let held := (s.warpOf wid).heldRegs b
               !(l.any held.contains)
  | .window ids => let w := s.warpOf wid
                   !(w.pend.any fun p => ids.contains p.id) && !(w.slow.any fun x => ids.contains x.id) && !(ids.any s.matStands)
  | .folded => ((s.warpOf wid).path b).folds.isEmpty
  | .reqs ids => s.reqsGone ids
  | .perf ids => s.reqsDone ids
  | .copies ids => s.copiesGone (s.warpOf wid).bid ids
  | .mats ids => s.matsGone ids
  | .both rs cs => s.reqsDone rs && s.matsDone rs && s.copiesGone (s.warpOf wid).bid cs
  | .merge es => !(es.any fun e => s.mergeLive e.1 e.2)
  | .mergeFree die => (List.range 256).any fun i => !AL.has s.mm.merges (die * 256 + i)
  | .copyPlace bid q => ((s.blockOf bid).queue q).entries.length < 16
  | .matrixPlace cores => s.matPlace (s.warpOf wid).bid cores
  | .buffers core => 4 ≤ s.freeBuffers core
  | .tile ms sl cs => s.matsGone ms && (s.slowTilesOf (s.warpOf wid).bid fun x => sl.contains x.id).isEmpty && s.copiesGone (s.warpOf wid).bid cs
  | .token id => !s.matStands id
  | .ticket _ => false
  | .fence pf ak tl => s.fenceDone wid pf ak tl
  | .fetch id => s.reqsGone [id]
  | .launch _ _ _ => false

/-- A wait whose end lets the instruction go on; after the others it looks at its conditions again. -/
def Wait.goesOn : Wait → Bool
  | .reqs _ | .perf _ | .copies _ | .mats _ | .fence _ _ _ | .tile _ _ _ => true
  | _ => false

/-- What an issued instruction of a warp waits for has come (R326). A `wrel` waits no longer for a copy whose destination has proved to be elsewhere (R460). -/
def State.slowOver (s : State) (wid : Nat) (x : Slow) : Bool :=
  match x.op, x.wait with
  | .wrel dom, .both rs cs =>
    let t := { s with cur := wid, curB := x.pathB }
    s.reqsDone rs && s.matsDone rs && !((s.blockOf (s.warpOf wid).bid).queues.any fun q => q.2.entries.any fun e => cs.contains e.id && t.copyWrites e dom)
  | .look, _ => false
  | _, w => s.waitOver wid x.pathB w

/-- An issued instruction whose wait is over is done: a tile access is performed, a stream queue is bound, a fence meets its condition, and a `qwait` on a queue that has faulted traps (R165, R326, R401, R414, R434). -/
def State.endSlow (s : State) (wid : Nat) (x : Slow) : State :=
  let w := s.warpOf wid
  match x.op with
  | .tld _ | .tst _ _ | .tatom _ _ _ _ | .tfree => s.slowTile wid x
  | .bind n r => s.slowBind wid x n r
  | .fence sc isSc => s.fenceMeets wid x.id sc isSc
  | .qwait m => match (s.blockOf w.bid).faultOf m with
    | some f => (s.sendFault (s.blockOf w.bid) f).trapAt wid x.pathB f.1 f.2 (w.path x.pathB).pc 0 TermInfo.none
    | none => s.updWarp wid fun w => w.endSlow x.id
  | .wacq _ | .wrel _ => s.updWarp wid fun w => w.endSlow x.id
  | .look => s

/-- A path no longer stands at the instruction that was to read a tile. -/
def Warp.lookOver (w : Warp) (x : Slow) : Bool := x.op == .look && ((w.path x.pathB).pc != x.xpc || (w.path x.pathB).st == .ended)

/-- The issued instructions of a warp that can be completed are, in the order of their issue, and the windows of entries that stand no longer close. -/
def State.endWarpSlows (s : State) (wid : Nat) : State :=
  let s1 := (s.warpOf wid).slow.foldl (fun (s : State) x =>
    match (s.warpOf wid).slow.find? fun y => y.id == x.id with
    | some y => if s.slowOver wid y then s.endSlow wid y else s
    | none => s) (s.updWarp wid fun w => { w with slow := w.slow.filter fun x => !w.lookOver x })
  let keep (w : Warp) (e : Nat × Nat) : Bool := (w.pend.any fun p => p.id == e.1) || (w.slow.any fun x => x.id == e.1) || s1.matStands e.1
  let cut (w : Warp) (p : Path) : Path := { p with windows := p.windows.filter (keep w) }
  s1.updWarp wid fun w => { w with pathA := cut w w.pathA, pathB := cut w w.pathB }

/-- Pending registers whose values were delayed to this clock are written (R13, R326). -/
def State.settle (s : State) (wid : Nat) : State :=
  ((s.warpOf wid).pend.filter fun p => p.waiting.isEmpty).foldl (fun s p => s.finishPend wid p) s

/-- Warps by their cores and then by their numbers in their blocks: the order in which R280 takes traps of one clock. -/
def State.byCore (s : State) (l : List Nat) : List Nat :=
  (sortNub (l.map fun k => ((s.blockOf (s.warpOf k).bid).core * 32 + (s.warpOf k).idx) * 2 ^ 64 + k)).map (· % 2 ^ 64)

/-- Issued instructions that wait, of the warps on cores, in the order of R280. -/
def State.endSlows (s : State) : State :=
  (s.byCore ((s.warps.filter fun e => !e.2.exited && (s.blockOf e.2.bid).onCore && (!e.2.slow.isEmpty || !e.2.pend.isEmpty || !e.2.pathA.windows.isEmpty || !e.2.pathB.windows.isEmpty)).map (·.1))).foldl
    (fun s k => (s.endWarpSlows k).settle k) s

/-- A path whose accesses stood at held lines may go on (R171). -/
def State.clampOver (s : State) (bid : Nat) (ids lines : List Nat) : Bool :=
  !(s.mm.reqs.any fun r => ids.contains r.id && r.stage == 1) && (s.tagHeld bid lines).isEmpty

/-- A page wait whose merge entries are all resolved: the path goes on, issues again, or traps ACCESS (R148, R149, R155). -/
def State.pageOver (s : State) (wid : Nat) (b : Bool) (ents : List (Nat × Nat)) (bad : Option BadPage) (again : Bool) : State :=
  if ents.any fun e => s.mergeLive e.1 e.2 then s
  else match bad with
    | some a =>
      let pc := ((s.warpOf wid).path b).pc
      s.trapAt wid b tcAccess pc pc (BitVec.ofNat 57 a.addr) ⟨2, a.level, a.stage, false, none, a.gpa⟩
    | none => s.wakePath wid b fun p => if again then p else { p with pc := p.pc + 4 }

/-- End one path's wait if what it waits for has come. -/
def State.endWait (s : State) (x : Nat × Bool) : State :=
  let w := s.warpOf x.1
  match (w.path x.2).st with
  | .operandWait c => if s.waitOver x.1 x.2 c then s.updWarp x.1 fun w => w.setPath x.2 ((w.path x.2).wake s.now c.goesOn) else s
  | .barrier _ _ false => s.tryArrive x.1 x.2
  | .clampWait ids lines => if s.clampOver w.bid ids lines then s.wakePath x.1 x.2 fun p => p else s
  | .sleepPage es bad again => s.pageOver x.1 x.2 es bad again
  | .parked es bad => s.pageOver x.1 x.2 es bad true
  | .queueWait q => match AL.get? w.q q with
    | some sq => if sq.bufs.isEmpty && sq.pops < strEntries sq.record then s else s.wakePath x.1 x.2 fun p => p
    | none => s.wakePath x.1 x.2 fun p => p
  | _ => s

/-- A path stands in a wait. -/
def Path.waits (p : Path) : Bool := p.st != .ready && p.st != .ended

/-- End the waits of every resident path whose condition has come, in the order of R280. -/
def State.endWaits (s : State) : State :=
  (pathsOf (s.byCore ((s.warps.filter fun e => e.2.pathA.waits || e.2.pathB.waits).map (·.1)))).foldl (fun s x => s.endWait x) s

end Sys2Proof.Machine
end

