-- ==== Sys2Proof/Machine/Place.lean ====
section
/-! DEFINITION. Posting, the ranking of work, eligibility and selection, the launch of blocks, and the end of blocks (R14, R38, R45, R49 to R54, R63, R222 to R224, R235, R272, R364). -/

set_option Elab.async false

namespace Sys2Proof.Machine

/-! The posting window (R48, R49) -/

/-- POST (R49): an atomic snapshot of STAGE, or a post that is not taken. -/
def execPost (vf : Nat) (s : State) : Host.Outcome State Fault Refusal :=
  .next (
    if !s.blkActive vf blkPostwin then s
    else if AL.has s.posts vf then
      s.setReg vf blkPostwin 0x108
        (BitVec.ofNat 64 (putBits (putBits (s.reg vf blkPostwin 0x108).toNat 7 0 stBusy) 23 8 (s.regBits vf blkPostwin 0x108 23 8 + 1)))
    else
      let r := (List.range 32).foldl (fun n i => n + (s.reg vf blkPostwin (8 * i)).toNat * 2 ^ (64 * i)) 0
      ({ s with posts := AL.put s.posts vf (BitVec.ofNat 2048 r) }).setRegBits vf blkPostwin 0x108 24 24 1)

/-! Cores (R51, R224) -/

/-- Warps of a block of n warps in quarter q (R14). -/
def quarterCount (n q : Nat) : Nat := (n + 3 - q) / 4

/-- Blocks and check runs on a core. -/
def State.blocksOn (s : State) (core : Nat) : List (Nat × Block) := s.blocks.filter fun e => e.2.core == core && e.2.onCore

/-- Whole banks a task's block receives (R127). -/
def Task.banks (t : Task) : Nat := (t.tilekb + 31) / 32

/-- The core is not fenced, and neither is its array unless the task has no use for it (R51). -/
def State.coreUsable (s : State) (t : Task) (core : Nat) : Bool := !s.coreFenced core && (t.nomatrix || !s.arrayFenced core)

/-- Warps on a core: an exited warp has freed its slot (R363). -/
def State.warpsOn (s : State) (core : Nat) : Nat := sumNat ((s.blocksOn core).map fun e => (s.liveWarps e.1).length)

/-- Free warp slots, registers, banks and block slots for a block (R1, R22, R51, R127). -/
def State.coreRoom (s : State) (t : Task) (core : Nat) : Bool :=
  let bs := (s.blocksOn core).map (·.2)
  let live := (s.blocksOn core).flatMap fun e => s.liveWarps e.1
  (List.range 4).all (fun q =>
    (live.filter fun k => quarterOf k == q).length + quarterCount t.nwarps q ≤ 16 &&
    sumNat (bs.map fun b => b.val * quarterCount b.nwarps q) + 8 * t.val * quarterCount t.nwarps q ≤ 2048) &&
  sumNat (bs.map (·.banks)) + t.banks ≤ 56 && bs.length < 32

/-- A core is eligible for a block (R51). -/
def State.eligible (s : State) (t : Task) (core : Nat) : Bool := s.coreUsable t core && s.coreRoom t core

/-- A core's cluster can take a block in this cycle: at most one is placed on it in each (R51). -/
def State.clusterFree (s : State) (core : Nat) : Bool := AL.getD s.clusterNext (clusterOf core) 0 ≤ s.now

/-- n blocks take a core's cluster for n cycles. -/
def State.takeCluster (s : State) (core n : Nat) : State := { s with clusterNext := AL.put s.clusterNext (clusterOf core) (s.now + n) }

/-- The cores of a partition's clusters. -/
def State.partCores (s : State) (p : Nat) : List Nat := (List.range Config.cores).filter fun c => bitOf (s.clustersOf p) (clusterOf c)

/-- The eligible core of a list with the fewest resident warps; ties go to the lower number (R51). -/
def State.bestCore (s : State) (t : Task) (l : List Nat) : Option Nat := minBy s.warpsOn (l.filter (s.eligible t))

/-- Windows of g adjacent cores of one cluster in a partition, in the order of R52. -/
def State.windows (s : State) (p g : Nat) : List (List Nat) :=
  ((List.range 32).filter (bitOf (s.clustersOf p))).flatMap fun c => (List.range (13 - g)).map fun i => (List.range g).map fun j => 12 * c + i + j

/-! Selection (R222 to R224) -/

/-- Block lin of a task is selected for checking (R222). -/
def State.selected (s : State) (p : Nat) (t : Task) (lin : Nat) : Bool :=
  let h := (crcBytes 0 (leBytes 4 t.name ++ leBytes 4 lin ++ leBytes 8 (s.chkSeed p))).toNat % 32
  t.rlvl == 6 || (1 ≤ t.rlvl && t.rlvl ≤ 5 && h < 2 ^ (t.rlvl - 1))

/-- How a block runs: its kind, whether it is unlogged from the start, and the counter its case adds to (R222 to R224, R228). -/
def State.runKind (s : State) (p : Nat) (t : Task) (lin : Nat) : RunKind × Bool × Option Nat :=
  if !s.selected p t lin then (.plain, false, none)
  else if !s.hasCheckRegion p then (.plain, false, some 0x3F0)
  else if ((s.partCores p).filter (s.coreUsable t)).length < 3 then (.plain, false, some 0x3F8)
  else if 2 ^ s.checkLog2 p < s.checkUsed p + s.logSlot p then (.mortise, true, some 0x3E8)
  else (.mortise, false, none)

/-! Launch (R14, R38, R63) -/

/-- The lowest free block slot of a core. -/
def State.freeSlot (s : State) (core : Nat) : Nat := ((List.range 32).find? fun k => (s.blocksOn core).all fun e => e.2.slot != k).getD 0

/-- A scalar argument of a task record. -/
def Task.sarg (t : Task) (i : Nat) : DWord := BitVec.ofNat 64 (t.record.toNat / 2 ^ (8 * (0x78 + 8 * i)))

/-- A warp at launch (R63). -/
def launchWarp (t : Task) (bid idx now : Nat) : Warp :=
  let pc : VAddr := BitVec.ofNat 57 t.codeva
  { Warp.idle with
    bid := bid
    idx := idx
    s := (List.range 8).foldl (fun r i => Tbl.set r (i + 1) (t.sarg (i + 1))) []
    b := (List.range 4).foldl (fun r i => Tbl.set r i (t.brec i)) []
    live := 0xFFFFFFFF#32
    pathA := { Path.idle with
      pc := pc, mask := 0xFFFFFFFF#32, since := now, sig := segStart t.codeva pc 0xFFFFFFFF#32
      st := if t.nstr = 0 then .ready else .operandWait (.launch 0 [] none) }
    allot := 8 * t.val
    prio := t.prio }

/-- A block at its start. -/
def newBlock (t : Task) (lin core slot now : Nat) : Block :=
  { Block.idle with vf := t.vf, task := t.name, lin := lin, core := core, slot := slot, nwarps := t.nwarps, val := 8 * t.val, started := now, banks := t.banks }

/-- Give up the L1 copies of a core, those on their way to it included. -/
def State.dropCoreL1 (s : State) (core : Nat) : State :=
  s.modM fun m => { m with
    l1 := m.l1.filter (fun e => e.1 / 2 ^ 44 != core)
    l1Bad := m.l1Bad.filter fun k => k / 2 ^ 44 != core
    reqs := m.reqs.map fun r => if r.core = core then { r with sectors := 0 } else r }

/-- A VF whose first warp comes to a quarter starts there with a deficit of 0 (R55). -/
def State.freshShares (s : State) (core vf : Nat) : State :=
  let fresh (e : Nat × Quarter) : Bool := e.1 / 4 == core && !((s.quarterWarps core (e.1 % 4)).any fun k => s.vfOfPath (k, false) == vf)
  { s with quarters := s.quarters.map fun e =>
      if fresh e then (e.1, { e.2 with deficit := AL.del e.2.deficit vf, readySince := AL.del e.2.readySince vf, promoted := e.2.promoted.filter (· != vf) }) else e }

/-- Put a block with its warps on the machine. Its core gives up its L1 copies, so that the new warps see what came before their task (R46, R168; log entry 84). -/
def State.addBlock (s0 : State) (t : Task) (bid : Nat) (b : Block) : State :=
  let s := (s0.freshShares b.core b.vf).dropCoreL1 b.core
  { s with
    blocks := AL.put s.blocks bid b
    warps := (List.range t.nwarps).foldl (fun (w : AL Warp) i => AL.put w (bid * 32 + i) (launchWarp t bid i s.now)) s.warps }

/-- Place one block of the grid on a core. A run that is unlogged from the start is never voted on (R228, R273). -/
def State.placeNew (s : State) (p : Nat) (t : Task) (lin core : Nat) : State :=
  let (kind, unver, cnt) := s.runKind p t lin
  let (bid, s1) := s.fresh
  let b0 := newBlock t lin core (s.freeSlot core) s.now
  let b := { b0 with kind := kind, origin := bid, unver := unver, logAt := if kind = .mortise then s.logPlace p else 0, logSize := if kind = .mortise then s.logSlot p else 0, st := if 1 < t.gang then .starting else .resident }
  let s2 := s1.addBlock t bid b
  let key := taskKey t.vf t.name * 2 ^ 32 + lin / max 1 t.gang
  let g := (AL.get? s2.gangs key).getD ⟨[], [], 0, []⟩
  let s3 := { s2 with gangs := AL.put s2.gangs key { g with bids := g.bids ++ [bid] } }
  let s4 := match cnt with
    | some c => s3.health c
    | none => s3
  s4.updTask t.vf t.name fun x => { x with st := if x.st = .ready then .running else x.st, placed := x.placed + 1, voted := x.voted && !unver }

/-! Stream records at the start of a block (R38, R216) -/

/-- Bind stream record n of a warp's task, or go on waiting: for buffers, or for a page of the stream table. A table of another package gives words of that package's (log entry 39). -/
def State.launchStep (s : State) (wid n : Nat) (ents : List (Nat × Nat)) (bad : Option BadPage) : State :=
  let w := s.warpOf wid
  let b := s.blockOf w.bid
  let t := s.taskOf b.vf b.task
  let va := (t.stabva + 64 * n) % 2 ^ 57
  let dead (s : State) (code : Nat) (a : Nat) (ti : TermInfo) : State :=
    let s1 := if b.isCheck then s.voidRun w.bid else s
    if b.isCheck then s1
    else s.killWith b.vf b.task (termRecord b.vf (s.partD b.vf) code (ti.causeOf code) ti.write ti.level ti.stage a (ti.gpa.getD w.pathA.pc.toNat)
      (auxOf b.lin w.idx false true false) b.task b.core)
  let put (s : State) (st : PathState) : State := s.updWarp wid fun w => { w with pathA := { w.pathA with st := st, since := s.now } }
  let bind (s : State) (r : BitVec 512) : State :=
    match strBad r with
    | some c => dead s c 0 TermInfo.none
    | none => put (s.updWarp wid fun w => w.bindQueue n r []) (if n + 1 < t.nstr then .operandWait (.launch (n + 1) [] none) else .ready)
  if !b.onCore || b.st == .starting || ents.any (fun e => s.mergeLive e.1 e.2) then s
  else match bad with
    | some a => dead s tcAccess a.addr ⟨2, a.level, a.stage, false, none, a.gpa⟩
    | none =>
      if s.freeBuffers b.core < 4 then s
      else
        let (x, s1) := s.translate b.core b.vf va
        match x with
        | .ok spa _ _ _ _ dom =>
          if spaRemote spa then
            bind { s1 with free := s1.free + 8 } (BitVec.ofNat 512 (leNat ((List.range 8).flatMap fun i => leBytes 8 (Config.freeWord (s1.free + i)).toNat)))
          else match s1.readVa b.core b.vf dom va spa 64 with
          | (some c, s2) => dead s2 c va (.error c false)
          | (none, s2) => bind s2 (BitVec.ofNat 512 (leNat (s2.memBytes spa 64)))
        | .nonres .. =>
          match s1.raise (dieOf b.core) b.core b.vf b.task va 1 false x with
          | (some e, s2) => put s2 (.operandWait (.launch n [e] none))
          | (none, s2) => s2
        | .failed c => dead s1 c va (.error c false)
        | .invalid .. => dead (if b.isCheck then s1 else s1.hostInvalid b.vf b.task b.core va false x) tcAccess va (accessInfo x false)

/-! Ranking (R50) -/

/-- A unit of the partition's work: a saved block or gang, or the next blocks of a task. -/
structure WorkUnit where
  saved : Bool
  vf : Nat
  name : Nat
  gang : Nat
  /-- Blocks to place again, or the linear indices of new ones. -/
  items : List Nat
  deriving DecidableEq, Repr

/-- The saved units of a partition: each gang whole. A block the debugger holds keeps its gang unplaced (R290). -/
def State.savedUnits (s : State) (p : Nat) : List WorkUnit :=
  let sv := s.blocks.filter fun e => e.2.st == .saved && s.partOf e.2.vf == some p && !e.2.isCheck
  let mates (e : Nat × Block) : List (Nat × Block) := s.blocks.filter fun x => !x.2.isCheck && s.gangKey x.2 == s.gangKey e.2 && x.2.st != .held && x.2.st != .voting
  (sv.filter fun e => (mates e).head?.map (·.1) == some e.1 && (mates e).all fun x => x.2.st == .saved && !x.2.debugHold && !x.2.ctxWait.any fun w => s.mergeLive w.1 w.2).map fun e =>
    ⟨true, e.2.vf, e.2.task, s.gangKey e.2 % 2 ^ 32, (mates e).map (·.1)⟩

/-- A task with Pending blocks that the distributor may place: not one that a jig hit retires. -/
def Task.pending (t : Task) : Bool := (t.st == .ready || t.st == .running) && t.placed < t.nblocks && t.hitCopies.isNone

/-- The next unit of a task. -/
def Task.unit (t : Task) : WorkUnit :=
  let g := max 1 t.gang
  ⟨false, t.vf, t.name, t.placed / g, (List.range g).map fun i => t.placed + i⟩

/-- R50's order between units of the same kind: class, then the cycle of becoming Ready, then VF and name. -/
def State.unitKey (s : State) (u : WorkUnit) : List Nat :=
  let t := s.taskOf u.vf u.name
  [if u.saved then 0 else 1, t.prio, t.readyAt, u.vf, u.name, u.gang]

/-- Lexicographic order of two lists of numbers. -/
def listLt : List Nat → List Nat → Bool
  | [], [] => false
  | [], _ => true
  | _, [] => false
  | a :: x, b :: y => a < b || (a == b && listLt x y)

/-- Put a unit into a ranked list. -/
def State.insUnit (s : State) (u : WorkUnit) : List WorkUnit → List WorkUnit
  | [] => [u]
  | v :: r => if listLt (s.unitKey u) (s.unitKey v) then u :: v :: r else v :: s.insUnit u r

/-- The work of a partition in R50's order. -/
def State.ranked (s : State) (p : Nat) : List WorkUnit :=
  let new := (s.tasks.filter fun t => t.2.pending && s.partOf t.2.vf == some p).map fun t => t.2.unit
  (s.savedUnits p ++ new).foldl (fun l u => s.insUnit u l) []

/-! Placing a unit (R50 to R53) -/

/-- Cores of the target window that only the gang at the head may take (R53). -/
def Placer.reserved (q : Placer) : List Nat :=
  match q.target with
  | some (c, g) => (List.range g).map fun i => c + i
  | none => []

/-- The unit at the head is the gang the placer waits for. -/
def Placer.isHead (q : Placer) (u : WorkUnit) : Bool :=
  match q.head with
  | some (vf, name, g, _) => vf == u.vf && name == u.name && g == u.gang
  | none => false

/-- The cores a unit can be placed on now, one for each item: a saved one only where its level-2 tiles have room (R132). -/
def State.placesFor (s : State) (p : Nat) (barred : List Nat) (u : WorkUnit) : Option (List Nat) :=
  let t := s.taskOf u.vf u.name
  let open_ (c : Nat) : Bool := s.clusterFree c && !barred.contains c
  let pins (c : Nat) : Bool := !u.saved || s.repinFits u.items (dieOf c)
  if t.gang ≤ 1 then (s.bestCore t ((s.partCores p).filter fun c => open_ c && pins c)).map fun c => [c]
  else
    let pos (i : Nat) : Nat := (if u.saved then (s.blockOf i).lin else i) % t.gang
    let win := (s.windows p t.gang).find? fun w => u.items.all fun i =>
      let c := w.getD (pos i) 0
      s.eligible t c && open_ c && pins c
    win.map fun w => u.items.map fun i => w.getD (pos i) 0

/-- A unit ranks behind a STRICT task of its VF and class that has a Pending block (R50). -/
def State.behindStrict (s : State) (before : List WorkUnit) (u : WorkUnit) : Bool :=
  before.any fun v => !v.saved && v.vf == u.vf && (s.taskOf v.vf v.name).prio == (s.taskOf u.vf u.name).prio && (s.taskOf v.vf v.name).strict && v.name != u.name

/-- The first unit of a ranked list that fits somewhere, with its cores. -/
def State.firstPlace (s : State) (p : Nat) (q : Placer) (before : List WorkUnit) : List WorkUnit → Option (WorkUnit × List Nat)
  | [] => none
  | u :: r =>
    let barred := if q.isHead u && before.isEmpty then [] else q.reserved
    match (if s.behindStrict before u then none else s.placesFor p barred u) with
    | some cs => some (u, cs)
    | none => s.firstPlace p q (before ++ [u]) r

/-- A partition's distributor. -/
def State.placer (s : State) (p : Nat) : Placer := AL.getD s.placers p ⟨none, none⟩

/-- Keep the gang that heads the partition, and since when, and cancel the target window when it no longer does (R53). -/
def State.trackHead (s : State) (p : Nat) : State :=
  let q := s.placer p
  match s.ranked p with
  | u :: _ =>
    if (s.taskOf u.vf u.name).gang ≤ 1 then { s with placers := AL.del s.placers p }
    else if q.isHead u then s
    else { s with placers := AL.put s.placers p ⟨some (u.vf, u.name, u.gang, s.now), none⟩ }
  | [] => { s with placers := AL.del s.placers p }

/-- A gang that no longer heads its partition, because it has been placed, keeps no target window (R53). -/
def State.dropHead (s : State) (p : Nat) : State :=
  match (s.ranked p).head? with
  | some u => if (s.placer p).isHead u then s else { s with placers := AL.del s.placers p }
  | none => { s with placers := AL.del s.placers p }

/-! Work that can never be placed (R54, R313) -/

/-- No window, or no core, of the partition could ever take the next block of a task. -/
def State.unplaceable (s : State) (t : Task) : Bool :=
  match s.partOf t.vf with
  | none => true
  | some p => !((s.windows p (max 1 t.gang)).any fun w => w.all (s.coreUsable t))

/-- PLACEBLK notices of tasks that have entered the condition of R54, once for each task. -/
def State.placeBlocked (s : State) : State :=
  s.tasks.foldl (fun (s : State) (e : Nat × Task) =>
    let t := e.2
    if t.pending && !t.blockedSent && s.unplaceable t then
      (s.updTask t.vf t.name fun x => { x with blockedSent := true }).notice 5 0 s.pkgid (s.partD t.vf) t.vf t.name 0
    else s) s

/-- TASK_POST_VALIDATED (R42, R49). -/
def execTaskPostValidated (vf : Nat) (s : State) : Host.Outcome State Fault Refusal :=
  .next (match AL.get? s.posts vf with
    | none => s
    | some r =>
      let (code, s1) := { s with posts := AL.del s.posts vf }.htsPost vf r
      (s1.setReg vf blkPostwin 0x108 (BitVec.ofNat 64 (code + (s.regBits vf blkPostwin 0x108 23 8 + 1) % 2 ^ 16 * 2 ^ 8))).placeBlocked)

/-- Blocks of gangs of a partition that hold their slots, and the last of which has been placed, one to a cycle (R51, R52). -/
def State.gangsDue (s : State) (part : Nat) : List Nat :=
  (s.blocks.filter fun e => e.2.st == .starting && s.partOf e.2.vf == some part && AL.getD s.clusterNext (clusterOf e.2.core) 0 ≤ s.now + 1).map (·.1)

/-- GANG_START (R52): the gangs of a partition that hold their slots start. -/
def execGangStart (part : Nat) (s : State) : Host.Outcome State Fault Refusal :=
  .next (
    let bids := s.gangsDue part
    { bids.foldl (fun (s : State) b => s.updBlock b fun x => { x with st := .resident, started := s.now }) s with
      warps := s.warps.map fun w => if bids.contains w.2.bid then (w.1, { w.2 with
        pathA := { w.2.pathA with since := s.now }, pathB := { w.2.pathB with since := s.now } }) else w })

/-- The gang at the head has waited 4,096 cycles without a window (R53). -/
def State.targetDue (s : State) (p : Nat) : Option (Nat × Nat) :=
  match ((s.dropHead p).placer p).head, ((s.dropHead p).placer p).target with
  | some (vf, name, _, t0), none => if t0 + 4096 ≤ s.now then some (vf, name) else none
  | _, _ => none

/-- GANG_TARGET_WINDOW (R53): the window with the most cores eligible now. -/
def execGangTargetWindow (part : Nat) (s : State) : Host.Outcome State Fault Refusal :=
  .next (match s.targetDue part with
    | none => s
    | some (vf, name) =>
      let t := s.taskOf vf name
      let ws := (s.windows part t.gang).filter fun w => w.all fun c => !s.coreFenced c
      match minBy (fun w => 64 - (w.filter (s.eligible t)).length) ws with
      | some (c :: _) => { s with placers := AL.upd s.placers part fun q => { q with target := some (c, t.gang) } }
      | _ => s)

/-! The end of tasks and blocks (R41, R45, R364) -/

/-- Blocks of the grid of a task that have not left the machine. -/
def State.gridBlocks (s : State) (vf name : Nat) : List (Nat × Block) := s.blocks.filter fun e => e.2.vf == vf && e.2.task == name && !e.2.isCheck

/-- A task's state after one of its blocks has left Resident or was released (R41). -/
def State.taskProgress (s : State) (vf name : Nat) : State :=
  let t := s.taskOf vf name
  let bs := s.gridBlocks vf name
  if !s.taskLive vf name then s
  else if t.retired = t.nblocks then s.retireTask vf name
  else if t.placed = t.nblocks ∧ t.st ≠ .held ∧ bs.all (fun e => e.2.st == .held || e.2.st == .voting) then s.updTask vf name fun t => { t with st := .held }
  else s

/-- A block of the grid is Retired (R28, R246): it leaves the machine and counts towards its task; `checked` tells that its vote was decided. -/
def State.blockRetired (s : State) (bid : Nat) (checked : Bool) : State :=
  let b := s.blockOf bid
  let l := (s.taskOf b.vf b.task).rlvl
  let s1 := s.dropBlocks [bid]
  let s2 := if 1 ≤ l ∧ l ≤ 6 then s1.health (0x400 + 16 * (l - 1)) else s1
  let s3 := if checked ∧ 1 ≤ l ∧ l ≤ 6 then s2.health (0x400 + 16 * (l - 1) + 8) else s2
  (s3.updTask b.vf b.task fun t => { t with retired := t.retired + 1 }).taskProgress b.vf b.task

/-- A task ends at its first block that leaves Resident with a faulted queue, with that queue's record (R212). -/
def State.killFaulted (s : State) (bid : Nat) : State :=
  let b := s.blockOf bid
  let (vf, name) := (b.vf, b.task)
  let s1 := (match b.queues.findSome? fun (q : Nat × CopyQueue) => q.2.faulted with
    | some f => s.sendFault b f
    | none => s).killTask vf name
  if s1.rep.term.any fun r => r.task == some (vf, name) then s1 else { s1 with tasks := AL.del s1.tasks (taskKey vf name) }

/-- Every warp has exited, and nothing of the block is open (R364). -/
def State.blockDone (s : State) (bid : Nat) : Bool :=
  let b := s.blockOf bid
  AL.has s.blocks bid && (b.st == .resident || b.st == .saving) && (s.liveWarps bid).isEmpty &&
  s.mm.reqs.all (fun r => r.wid / 32 != bid) && b.queues.all (fun q => q.2.entries.isEmpty) &&
  s.eng.matq.all (fun e => e.2.all fun m => m.bid != bid) && s.sends.all fun x => x.bid != bid

/-- The sum of a block's warps' signatures (R225). -/
def State.blockSig (s : State) (bid : Nat) : Sig := (s.warpsOf bid).foldl (fun g k => g.add (s.warpOf k).acc) Sig.zero

/-- A block's slot, tiles, pair and warps are freed; what waits for the vote stays (R28, R133, R203). -/
def State.leaveCore (s : State) (bid : Nat) (st : BlockState) : State :=
  let sg := s.blockSig bid
  let s1 := (s.deliverTiles fun m => m.src == bid).handOverTiles bid
  let gangTiles := ((s1.blockOf bid).tiles.filter fun e => e.2.gangwide && !(s1.blockOf bid).isCheck).map (·.1)
  let s2 := gangTiles.foldl (fun s h => s.gangFreed bid h) (s1.updBlock bid fun b => { b with
    st := st, sig := sg, tiles := [], tdirty := [], bars := [], queues := [], pair := .none, bstage := [], bsaved := [], pre := none, stopBlk := [], image := [] })
  { s2 with
    warps := s2.warps.filter fun e => e.1 / 32 != bid
    eng := { s2.eng with bphys := s2.eng.bphys.filter fun e => e.2.1 != bid } }

/-- BLOCK_COMPLETE (R28, R212, R235, R364). -/
def execBlockComplete (bid : Nat) (s : State) : Host.Outcome State Fault Refusal :=
  .next (
    let b := s.blockOf bid
    if !s.blockDone bid || b.isCheck then s
    else if b.queues.any fun q => q.2.faulted.isSome then s.killFaulted bid
    else if b.holds then
      let s1 := (s.leaveCore bid .held).updBlock bid fun b => { b with heldAt := s.now, waitFrom := s.now, phase := 0 }
      s1.taskProgress b.vf b.task
    else (s.leaveCore bid .held).blockRetired bid false)

/-! Jig hits (R272) -/

/-- A hit task's 640 clocks are over (R272). -/
def State.hitDue (s : State) (vf name : Nat) : Bool :=
  let t := s.taskOf vf name
  s.taskLive vf name && t.st == .ready && t.hitCopies.isSome && t.readyAt + 640 ≤ s.now

/-- JIG_HIT_RETIRE (R272): the 640 clocks of a hit are over and its copies are complete. -/
def execJigHitRetire (vf name : Nat) (s : State) : Host.Outcome State Fault Refusal :=
  .next (if s.hitDue vf name && (s.taskOf vf name).hitCopies == some [] then s.retireTask vf name else s)

end Sys2Proof.Machine
end

