-- ==== Sys2Proof/Machine/Preempt.lean ====
section
/-! DEFINITION. Pre-emption: the signal, what stops each warp, the context area, the save, and resumption (R36, R182, R183, R197, R203, R231, R283 to R288). -/

set_option Elab.async false

namespace Sys2Proof.Machine

/-! The signal (R285, R286) -/

/-- A path waits in one of the states R286 saves at once. -/
def Path.parksWhole (p : Path) : Bool :=
  match p.st with
  | .barrier _ _ _ | .clampWait _ _ | .sleepYield _ | .sleepCopy _ _ | .sleepPage _ _ _ | .queueWait _ | .parked _ _ | .roleWait _ => true
  | _ => false

/-- A path has no instruction to issue of its own. -/
def Path.atRest (p : Path) : Bool := p.st == .ended || p.parksWhole

/-- How a warp stops for pre-emption (R286): saved full at once, saved reduced, or not yet. -/
def Warp.stopFor (w : Warp) (full : Bool) : Option Bool :=
  if w.exited then none
  else if w.dbg || w.inHandler then some false
  else if w.point.isSome then some (!full)
  else if w.pathA.atRest && (!w.split || w.pathB.atRest) then some false
  else none

/-- Stop the warps of a block in Saving that a row of R286 now applies to. -/
def State.stopWarps (s : State) (bid : Nat) : State :=
  let full := match (s.blockOf bid).pre with
    | some (_, f) => f
    | none => false
  (s.warpsOf bid).foldl (fun (s : State) k => s.updWarp k fun w => if w.saved.isNone then { w with saved := w.stopFor full } else w) s

/-- Stop the warps, and withdraw the token requests of those that have stopped (R61). -/
def State.stopAll (s : State) (bid : Nat) : State :=
  ((s.warpsOf bid).filter fun k => ((s.stopWarps bid).warpOf k).saved.isSome).foldl (fun s k => s.withdrawTokens k) (s.stopWarps bid)

/-- Start the pre-emption of one block. -/
def State.preemptOne (s : State) (full : Bool) (bid : Nat) : State :=
  let b := s.blockOf bid
  if b.st == .resident || b.st == .starting then
    (s.updBlock bid fun b => { b with st := .saving, pre := some (s.now, full) }).stopAll bid
  else s

/-- The blocks pre-empted with a block: its gang, or itself for a check run (R29, R285). -/
def State.preemptSet (s : State) (bid : Nat) : List Nat :=
  let b := s.blockOf bid
  if b.isCheck then [bid] else (s.blocks.filter fun e => !e.2.isCheck && s.gangKey e.2 == s.gangKey b).map (·.1)

/-- Pre-empt a block, with its gang. -/
def State.preempt (s : State) (full : Bool) (bid : Nat) : State := (s.preemptSet bid).foldl (fun s k => s.preemptOne full k) s

/-- Pre-empt every block on the machine with a property. -/
def State.preemptAll (s : State) (p : Nat → Block → Bool) : State :=
  ((s.blocks.filter fun e => e.2.onCore && p e.1 e.2).map (·.1)).foldl (fun s b => s.preempt false b) s

/-- Signal the pre-emption of every block on the machine with a property: it starts once the clock's issue slots and debug stops are over (R37). -/
def State.signalPreempt (s : State) (p : Nat → Block → Bool) : State :=
  { s with signals := sortNub (s.signals ++ (s.blocks.filter fun e => e.2.onCore && p e.1 e.2).map (·.1)) }

/-- The pre-emptions signalled in this clock start. -/
def State.preemptSignalled (s : State) : State := s.signals.foldl (fun s b => s.preempt false b) { s with signals := [] }

/-- SLICE_END (R285, R295). -/
def execSliceEnd (part vf : Nat) (s : State) : Host.Outcome State Fault Refusal :=
  .next (if !s.blkActive Config.pf blkPart || Config.partitions ≤ part then s else s.preemptAll fun _ b => b.vf == vf)

/-- A warp that ran on has reached T + 2,048 (R286). -/
def State.runonOver (s : State) (wid : Nat) : Bool :=
  let w := s.warpOf wid
  match (s.blockOf w.bid).pre with
  | some (t, _) => (s.blockOf w.bid).st == .saving && AL.has s.warps wid && !w.exited && w.saved.isNone && t + 2048 ≤ s.now
  | none => false

/-- PREEMPT_RUNON_TIMEOUT (R286): the warp is saved full. -/
def execPreemptRunonTimeout (wid : Nat) (s : State) : Host.Outcome State Fault Refusal :=
  .next (if s.runonOver wid then (s.updWarp wid fun w => { w with saved := some false }).withdrawTokens wid else s)

/-! A reduced warp (R231, R283, R284) -/

/-- The recipe's address (R281). -/
def RewindPoint.recipe (r : RewindPoint) : VAddr := BitVec.ofInt 57 ((r.pc.toNat : Int) + 4 * sext 12 (bits r.word.toNat 11 0))

/-- The warp as it restarts from its point: what R283 keeps, in recipe mode. -/
def Warp.reduce (w : Warp) (r : RewindPoint) (now : Nat) : Warp :=
  { w with
    v := w.v.filter fun e => r.names (.v (e.1 / 32))
    s := w.s.filter fun e => r.names (.s e.1)
    p := []
    q := w.q.map fun e => (e.1, { e.2 with pops := AL.getD r.pops e.1 0, bufs := [], coming := none })
    split := false
    top := StackEntry.zero
    recipe := true
    acc := r.acc
    pend := []
    slow := []
    pathA := { Path.idle with pc := r.recipe, mask := r.live, mode := w.pathA.mode, fmt := w.pathA.fmt, st := .ready, since := now, sig := r.sig, logSeq := r.seqA, accs := r.accsA }
    pathB := { Path.idle with logSeq := r.seqB, accs := r.accsB } }

/-- Entries a warp logged after its point are void (R231). -/
def voidAfter (idx : Nat) (r : RewindPoint) (l : List LogEntry) : List LogEntry :=
  l.map fun e => if e.warp = idx ∧ (if e.strm then r.seqB else r.seqA) ≤ e.seq then { e with void := true } else e

/-- Give up what a warp issued after its point (R283): those are loads alone (R282). Stores and atomics that still wait in Clamp-wait were issued before it and are performed (R286); their returned values are kept nowhere. -/
def State.reduceWarp (s : State) (wid : Nat) : State :=
  let w := s.warpOf wid
  match w.point with
  | none => s
  | some r =>
    let s1 := s.putWarp wid (w.reduce r s.now)
    let s2 := s1.modM fun m => { m with reqs := (m.reqs.filter fun q => q.wid != wid || q.kind != 0).map fun q => if q.wid = wid then { q with pend := none } else q }
    if (s.blockOf w.bid).isCheck then s2 else s2.updBlock w.bid fun b => { b with log := voidAfter w.idx r b.log }

/-! The context area (R287, R288): words by byte offset -/

/-- Bytes as numbered 8-byte words from an offset on. -/
def wordsAt (off : Nat) (l : List Nat) : List (Nat × DWord) :=
  (List.range (l.length / 8)).map fun i => (off + 8 * i, BitVec.ofNat 64 (leNat ((l.drop (8 * i)).take 8)))

/-- WAIT code of a path. -/
def Warp.waitCode (w : Warp) (p : Path) : Nat :=
  match p.st with
  | .ended => 9
  | st =>
    if w.dbg || p.held then 8
    else match st with
      | .ready => 0 | .operandWait _ => 1 | .queueWait _ => 2 | .sleepYield _ => 3 | .sleepCopy _ _ => 3 | .sleepPage _ _ _ => 3
      | .parked _ _ => 4 | .clampWait _ _ => 5 | .barrier _ _ _ => 6 | .roleWait _ => 7 | .ended => 9

/-- The flag word at 0x0468. -/
def Warp.flagWord (w : Warp) : Nat :=
  let one (b : Bool) (i : Nat) : Nat := if b then 2 ^ i else 0
  one w.split 0 + one w.helper 1 + one (w.saved == some true) 2 + one w.inHandler 3 + one w.point.isSome 4 + w.fpflags.toNat * 2 ^ 5
    + w.pathA.depth * 2 ^ 11 + w.pathB.depth * 2 ^ 18 + w.waitCode w.pathA * 2 ^ 25 + w.waitCode w.pathB * 2 ^ 29
    + w.role % 4 * 2 ^ 33 + w.prio % 4 * 2 ^ 35 + (w.allot / 8 - 1) % 32 * 2 ^ 37

/-- The on-chip stack entries of a path in their 16 places, innermost last. -/
def Path.stackBytes (p : Path) : List Nat :=
  let l := p.stack.reverse
  (List.range 16).flatMap fun i => (l.getD i StackEntry.zero).bytes

/-- A warp's own part of its area, up to the v registers. -/
def Warp.areaBytes (w : Warp) : List Nat :=
  let sg := match w.point with
    | some r => r.sig
    | none => w.pathA.sig
  let pops (i : Nat) : Nat := match w.point with
    | some r => AL.getD r.pops i 0
    | none => match AL.get? w.q i with
      | some q => q.pops
      | none => 0
  let log (b : Bool) : Nat := match w.point with
    | some r => if b then r.seqB else r.seqA
    | none => (w.path b).logSeq
  (List.range 64).flatMap (fun k => leBytes 8 (w.rS k).toNat) ++
  (List.range 32).flatMap (fun k => leBytes 16 (w.rB k).toNat) ++
  (List.range 16).flatMap (fun k => leBytes 4 (w.rP k).toNat) ++
  [w.pathA, w.pathB].flatMap (fun p => leBytes 4 p.mode.toNat ++ leBytes 4 p.fmt.toNat) ++
  leBytes 8 w.pathA.pc.toNat ++ leBytes 8 w.pathB.pc.toNat ++ leBytes 4 w.pathA.mask.toNat ++ leBytes 4 w.pathB.mask.toNat ++
  leBytes 8 w.flagWord ++ w.top.bytes ++ w.pathA.stackBytes ++ w.pathB.stackBytes ++
  (List.range 4).flatMap (fun d => leBytes 8 (Tbl.get w.pts d).toNat) ++
  leBytes 4 w.xmode.toNat ++ leBytes 4 w.xfmt.toNat ++
  (match w.point with
   | some r => leBytes 8 r.pc.toNat ++ leBytes 4 r.word.toNat ++ leBytes 4 r.lit.toNat
   | none => List.replicate 16 0) ++
  leBytes 4 (log false) ++ leBytes 4 (log true) ++
  leBytes 8 sg.ss.toNat ++ leBytes 8 sg.vs.toNat ++ leBytes 8 sg.ms.toNat ++ leBytes 8 sg.asig.toNat ++
  (List.range 8).flatMap fun i => leBytes 4 (pops i)

/-- The v registers of a warp. -/
def Warp.vBytes (w : Warp) : List Nat := (List.range w.allot).flatMap fun k => (List.range 32).flatMap fun l => leBytes 4 (w.rV k l).toNat

/-- A warp's area (R288). -/
def Warp.areaWords (w : Warp) : List (Nat × DWord) := wordsAt 0 w.areaBytes ++ wordsAt 0x1000 w.vBytes

/-- Words of the area that a reduced save keeps (R283). -/
def RewindPoint.keeps (r : RewindPoint) (off : Nat) : Bool :=
  if off < 0x200 then r.names (.s (off / 8))
  else if off < 0x400 then true
  else if off < 0x1000 then off == 0x440 || off == 0x460 || off == 0x468 || (0x890 ≤ off && off < 0x8B0) || 0x8B8 ≤ off
  else r.names (.v ((off - 0x1000) / 128))

/-- The bits of the flag word that a reduced save keeps: all but SPLIT, INH, DEPTH and WAIT, which it writes as 0 (R481). -/
def redFlags : Nat := 2 ^ 42 - 1 - (1 + 2 ^ 3 + (2 ^ 33 - 2 ^ 11))

/-- The words a reduced save writes: what it keeps, and free values elsewhere (R288, log entry 9). -/
def Warp.redWords (w : Warp) (r : RewindPoint) (free : Nat) : List (Nat × DWord) :=
  let l := w.areaWords
  (l.zip (List.range l.length)).map fun e =>
    let x := Config.freeWord (free + e.2)
    (e.1.1, if e.1.1 = 0x468 then BitVec.ofNat 64 (e.1.2.toNat &&& redFlags)
      else if r.keeps e.1.1 then e.1.2 else x)

/-- A barrier of a block as its 8 bytes. -/
def Barrier.word (u : Barrier) : Nat := u.arrived.toNat + u.expected % 64 * 2 ^ 32 + (if u.count.isNone then 2 ^ 38 else 0)

/-- Pair-state code. -/
def PairState.code : PairState → Nat
  | .none => 0
  | .paired => 1
  | .solo => 2

/-- The block's own words: tile table, barriers, gang barrier, block state. -/
def State.blockWords (s : State) (bid : Nat) : List (Nat × DWord) :=
  let b := s.blockOf bid
  let g := s.gangOf bid
  let faulted := sumNat ((List.range 8).map fun q => if (b.queue q).faulted.isSome then 2 ^ q else 0)
  (List.range 64).map (fun h => (8 * h, match AL.get? b.tiles h with
    | some t => tileInfo t
    | none => 0)) ++
  (List.range 16).map (fun n => (0x200 + 8 * n, match AL.get? b.bars n with
    | some u => BitVec.ofNat 64 u.word
    | none => 0)) ++
  [(0x280, BitVec.ofNat 64 (g.arrived.length % 4096 + b.gwCount % 4096 * 4096)),
   (0x288, BitVec.ofNat 64 (b.pair.code + faulted * 4 + s.epoch.toNat * 2 ^ 10))]

/-- The tiles whose bytes lie in a block's banks. -/
def Block.bankTiles (b : Block) (bid : Nat) : List (Nat × Tile) :=
  b.tiles.filter fun e => (tileLevel e.2.desc == 0 || (tileLevel e.2.desc == 1 && e.2.owner == bid)) && !(e.2.gangwide && b.isCheck)

/-- TIMAGE (R287). -/
def Block.tileWords (b : Block) (bid : Nat) : List (Nat × DWord) :=
  (b.bankTiles bid).flatMap fun e =>
    wordsAt (0x161000 + 256 * e.2.base) ((List.range (256 * tileGran e.2.desc)).map fun i => if i < tileBytes e.2.desc then (e.2.byte i).toNat else 0)

/-! Taking changed words back (R290) -/

/-- Replace word j of an entry. -/
def StackEntry.putWord (e : StackEntry) (j : Nat) (x : DWord) : StackEntry :=
  StackEntry.ofBytes (e.bytes.take (8 * j) ++ leBytes 8 x.toNat ++ e.bytes.drop (8 * j + 8))

/-- Replace word j of on-chip entry i, counted from the outermost. -/
def Path.putStack (p : Path) (i j : Nat) (x : DWord) : Path :=
  { p with stack := (p.stack.reverse.set i ((p.stack.reverse.getD i StackEntry.zero).putWord j x)).reverse }

/-- A path's WAIT code was changed: Ended, Stopped by a trap of the other path, or else the path issues the instruction at its PC again, which is the one that enters any wait whose code was written (log entry 52). -/
def Path.putWait (p : Path) (inh : Bool) (old new now : Nat) : Path :=
  if new = old then p
  else if new = 9 then { p with st := .ended, mask := 0 }
  else if new = 8 then { p with held := inh }
  else { p.wake now false with held := false }

/-- A path's DEPTH was changed: entries leave or join at the inner end, and those beyond the 16 on-chip places stand in the spill region (R83, R288). -/
def Path.putDepth (p : Path) (old new : Nat) : Path :=
  if new = old then p
  else
    let sp := if new < p.spilled then new else max p.spilled (new - 16)
    { p with spilled := sp, stack := ((List.range (new - sp)).map fun i => p.stack.reverse.getD i StackEntry.zero).reverse }

/-- A path's bits of the flag word. -/
def Path.putFlags (p : Path) (inh : Bool) (old x d w now : Nat) : Path :=
  (p.putDepth (bits old (d + 6) d) (bits x (d + 6) d)).putWait inh (bits old (w + 3) w) (bits x (w + 3) w) now

/-- The point that a flag word with PTV or RED set gives a warp that had none: the words of its area that describe it as a save without a point writes them (R288, R290; log entry 97). -/
def Warp.newPoint (w : Warp) : RewindPoint :=
  ⟨0, 0, 0, w.pathA.mask, w.q.map fun e => (e.1, e.2.pops), w.pathA.sig, w.acc, w.pathA.logSeq, w.pathB.logSeq, w.pathA.accs, w.pathB.accs⟩

/-- Take a changed flag word. A reduced save needs a point to restart from. -/
def Warp.putFlags (w : Warp) (old x now : Nat) : Warp :=
  { w with
    split := bitOf x 0
    helper := bitOf x 1
    inHandler := bitOf x 3
    point := if bitOf x 4 || bitOf x 2 then some (w.point.getD w.newPoint) else none
    fpflags := BitVec.ofNat 6 (bits x 10 5)
    pathA := w.pathA.putFlags (bitOf x 3) old x 11 25 now
    pathB := w.pathB.putFlags (bitOf x 3) old x 18 29 now
    dbg := if bits old 28 25 = bits x 28 25 then w.dbg else bits x 28 25 == 8 && !bitOf x 3
    saved := w.saved.map fun _ => bitOf x 2
    role := bits x 34 33
    prio := bits x 36 35
    allot := 8 * (bits x 41 37 + 1) }

/-- Take one changed word of a warp's area; `red` tells a reduced save. -/
def Warp.putWord (w : Warp) (red : Bool) (now off : Nat) (old x : DWord) : Warp :=
  let lo := BitVec.ofNat 32 x.toNat
  let hi := BitVec.ofNat 32 (x.toNat / 2 ^ 32)
  let pc := BitVec.ofNat 57 x.toNat
  let pt (f : RewindPoint → RewindPoint) : Warp := { w with point := w.point.map f }
  if off < 0x200 then w.wS (off / 8) x
  else if off < 0x400 then
    let k := (off - 0x200) / 16
    w.wB k (BitVec.ofNat 128 (if off % 16 = 0 then (w.rB k).toNat / 2 ^ 64 * 2 ^ 64 + x.toNat else (w.rB k).toNat % 2 ^ 64 + x.toNat * 2 ^ 64))
  else if off < 0x440 then (w.wP ((off - 0x400) / 4) lo).wP ((off - 0x400) / 4 + 1) hi
  else if off = 0x440 then { w with pathA := { w.pathA with mode := lo, fmt := hi } }
  else if off = 0x448 then { w with pathB := { w.pathB with mode := lo, fmt := hi } }
  else if off = 0x450 then { w with pathA := { w.pathA with pc := pc } }
  else if off = 0x458 then { w with pathB := { w.pathB with pc := pc } }
  else if off = 0x460 then
    (if red then { w with pathA := { w.pathA with mask := lo } } else { w with pathA := { w.pathA with mask := lo }, pathB := { w.pathB with mask := hi } })
  else if off = 0x468 then
    (if red then w.putFlags (w.flagWord) ((x.toNat &&& redFlags) + (w.flagWord &&& (2 ^ 42 - 1 - redFlags))) now else w.putFlags old.toNat x.toNat now)
  else if off < 0x490 then { w with top := w.top.putWord ((off - 0x470) / 8) x }
  else if off < 0x690 then { w with pathA := w.pathA.putStack ((off - 0x490) / 32) ((off - 0x490) % 32 / 8) x }
  else if off < 0x890 then { w with pathB := w.pathB.putStack ((off - 0x690) / 32) ((off - 0x690) % 32 / 8) x }
  else if off < 0x8B0 then { w with pts := Tbl.set w.pts ((off - 0x890) / 8) (BitVec.ofNat 40 x.toNat) }
  else if off = 0x8B0 then { w with xmode := lo, xfmt := hi }
  else if off = 0x8B8 then pt fun r => { r with pc := pc }
  else if off = 0x8C0 then pt fun r => { r with word := lo, lit := hi }
  else if off = 0x8C8 then
    (match w.point with
     | some r => { w with point := some { r with seqA := lo.toNat, seqB := hi.toNat } }
     | none => { w with pathA := { w.pathA with logSeq := lo.toNat }, pathB := { w.pathB with logSeq := hi.toNat } })
  else if off < 0x8F0 then
    let upd (g : Sig) : Sig := if off = 0x8D0 then { g with ss := x } else if off = 0x8D8 then { g with vs := x } else if off = 0x8E0 then { g with ms := x } else { g with asig := x }
    (match w.point with
     | some r => { w with point := some { r with sig := upd r.sig } }
     | none => { w with pathA := { w.pathA with sig := upd w.pathA.sig } })
  else if off < 0x910 then
    let i := (off - 0x8F0) / 4
    (match w.point with
     | some r => { w with point := some { r with pops := AL.put (AL.put r.pops i lo.toNat) (i + 1) hi.toNat } }
     | none => { w with q := AL.upd (AL.upd w.q i fun q => { q with pops := lo.toNat }) (i + 1) fun q => { q with pops := hi.toNat } })
  else if 0x1000 ≤ off then
    let k := (off - 0x1000) / 128
    let l := (off - 0x1000) % 128 / 4
    (w.wV k l lo).wV k (l + 1) hi
  else w

/-- The count of arrivals at a block's gang barrier was changed (log entry 52): the last arrivals are taken back, or arrivals of no warp are added. -/
def State.putArrivals (s : State) (bid n : Nat) : State :=
  let key := s.gangKey (s.blockOf bid)
  { s with gangs := AL.upd s.gangs key fun g =>
      let k := g.arrived.length
      if n = k % 4096 then g
      else if n < k then { g with arrived := g.arrived.take n }
      else { g with
        expected := if k = 0 then (g.bids.flatMap s.liveWarps).length else g.expected
        arrived := g.arrived ++ (List.range (n - k)).map fun i => 2 ^ 64 + i } }

/-- The trap codes with which a copy queue faults of itself: ACCESS, UNCORR and INTEG (R211, R212, R276). -/
def faultCodes : List Nat := [tcAccess, tcUncorr, tcInteg]

/-- A queue's bit among the faulted ones was changed: what its fault was is stated nowhere when it is set (log entry 52). -/
def State.putFaulted (s : State) (bid q : Nat) (x : Bool) : State :=
  if x = ((s.blockOf bid).queue q).faulted.isSome then s
  else if x then
    let (i, s1) := s.choose faultCodes.length
    let v := (Config.freeWord s1.free).toNat
    ({ s1 with free := s1.free + 1 }).updBlock bid fun b =>
      { b with queues := AL.put b.queues q { b.queue q with entries := [], faulted := some (faultCodes.getD i tcAccess, BitVec.ofNat 57 v) } }
  else s.updBlock bid fun b => { b with queues := AL.put b.queues q { b.queue q with faulted := none, faultRec := none } }

/-- A descriptor of TTAB was changed (R287, R290): its handle is freed, takes another descriptor, or names a new tile whose contents nothing gives (log entry 97). -/
def State.putTtab (s : State) (bid h n : Nat) : State :=
  let d := BitVec.ofNat 64 (bits n 32 0)
  let put (t : Tile) : Tile := { t with desc := d, gangwide := bitOf n 34 }
  if !bitOf n 33 then s.updBlock bid fun b => { b with tiles := AL.del b.tiles h }
  else if AL.has (s.blockOf bid).tiles h then s.updTile bid h put
  else (s.newTile bid h ((s.fit bid d).getD 0) bid (s.tileSliceOf bid h) d true).updTile bid h put

/-- Take one changed word of the block's own part. -/
def State.putBlockWord (s : State) (bid off : Nat) (x : DWord) : State :=
  let n := x.toNat
  if off < 0x200 then s.putTtab bid (off / 8) n
  else if off < 0x280 then
    let k := (off - 0x200) / 8
    let m := BitVec.ofNat 32 n
    s.updBlock bid fun b =>
      let u : Barrier := ⟨if bitOf n 38 then none else some (bits n 37 32), bits n 37 32, m, popc 32 m.toNat⟩
      { b with bars := if n = 0 then AL.del b.bars k else AL.put b.bars k u }
  else if off = 0x280 then (s.putArrivals bid (bits n 11 0)).updBlock bid fun b => { b with gwCount := bits n 23 12 }
  else if off = 0x288 then
    ((List.range 8).foldl (fun s q => s.putFaulted bid q (bitOf n (2 + q))) s).updBlock bid fun b =>
      { b with epoch := bits n 17 10, pair := if bits n 1 0 = 0 then .none else if bits n 1 0 = 1 then .paired else .solo }
  else s

/-- Take one changed word of the tile image. -/
def State.putTileWord (s : State) (bid off : Nat) (x : DWord) : State :=
  let a := off - 0x161000
  match ((s.blockOf bid).bankTiles bid).find? fun e => 256 * e.2.base ≤ a && a < 256 * (e.2.base + tileGran e.2.desc) with
  | some (h, t) =>
    let i := a - 256 * t.base
    s.updTile bid h fun t => t.put i ((leBytes 8 x.toNat).take (tileBytes t.desc - i))
  | none => s

/-- Take one changed word of a block's context area. -/
def State.putCtxWord (s : State) (bid off : Nat) (old x : DWord) : State :=
  if off < 0x1000 then s.putBlockWord bid off x
  else if off < 0x141000 then
    s.updWarp (bid * 32 + (off - 0x1000) / 0xA000) fun w => w.putWord (w.saved == some true) s.now ((off - 0x1000) % 0xA000) old x
  else s.putTileWord bid off x

/-! Context pages (R287) -/

/-- How a save or a restoration finds the pages of a context area. -/
inductive CtxMeets where
  | ok (pages : AL Nat)
  | hold (va : Nat) (w : Walk)
  | dead (va : Nat) (w : Walk)
  deriving DecidableEq, Repr

/-- Translate context pages. -/
def State.ctxPages (s : State) (core vf : Nat) (write : Bool) : List Nat → AL Nat → CtxMeets × State
  | [], t => (.ok t, s)
  | pg :: r, t =>
    let (w, s1) := s.translate core vf (pg * 4096)
    match w with
    | .ok spa wr _ _ _ _ => if write && !wr then (.dead (pg * 4096) w, s1) else s1.ctxPages core vf write r (AL.put t pg spa)
    | .nonres .. => (.hold (pg * 4096) w, s1)
    | _ => (.dead (pg * 4096) w, s1)

/-- The pages of words of a context area. -/
def ctxPageList (base : Nat) (l : List (Nat × DWord)) : List Nat := sortNub (l.map fun e => (base + e.1) % 2 ^ 57 / 4096)

/-- The SPA of a word of a context area. -/
def ctxWordSpa (pages : AL Nat) (base off : Nat) : Nat :=
  let va := (base + off) % 2 ^ 57
  AL.getD pages (va / 4096) 0 + va % 4096

/-- A save or a restoration waits for its page's merge entry. -/
def State.ctxBusy (s : State) (bid : Nat) : Bool := (s.blockOf bid).ctxWait.any fun e => s.mergeLive e.1 e.2

/-! The save (R286, R287) -/

/-- A line request whose access waits in Clamp-wait, which the save keeps (R286). -/
def State.keptReq (s : State) (r : LineReq) : Bool :=
  r.stage == 1 || match ((s.warpOf r.wid).path r.pathB).st with
    | .clampWait ids _ => ids.contains r.id
    | _ => false

/-- Every live warp of a block has stopped. -/
def State.allStopped (s : State) (bid : Nat) : Bool := (s.liveWarps bid).all fun k => (s.warpOf k).saved.isSome

/-- Issued tile accesses of a block that stand behind an operation whose token request was withdrawn, and so are not performed before the block resumes (R61, R198). -/
def State.stuckSlows (s : State) (bid : Nat) : List Nat :=
  let aside := (s.matQueue (heldQueue bid)).map (·.id)
  let all := (s.warpsOf bid).flatMap fun k => (s.warpOf k).slow
  (sortNub (all.map (·.id))).foldl (fun l i =>
    if all.any fun x => x.id == i && (match x.wait with
      | .tile ms sl _ => ms.any aside.contains || sl.any l.contains
      | _ => false) then i :: l else l) []

/-- The issued tile accesses of a block are performed, but for those that cannot be. -/
def State.tilesDone (s : State) (bid : Nat) : Bool :=
  (s.warpsOf bid).all fun k => (s.warpOf k).slow.all fun x => !x.onTile || x.op == .look || (s.stuckSlows bid).contains x.id

/-- The scheduler operations of a block are performed, but for those that come after an access in Clamp-wait (R46, R286). -/
def State.sendsDone (s : State) (bid : Nat) : Bool :=
  let behind (x : HtsSend) : Bool := s.mm.reqs.any fun r => s.keptReq r && (x.op.after.contains r.id || r.mat.any x.op.after.contains)
  let lines := (s.sends.filter behind).map HtsSend.line
  s.sends.all fun x => x.bid != bid || lines.contains x.line

/-- Every warp of a block, and of the gang's blocks that save with it, has stopped, and what the block had issued has completed (R29, R286). -/
def State.canSave (s : State) (bid : Nat) : Bool :=
  (s.blockOf bid).st == .saving && !(s.liveWarps bid).isEmpty && s.allStopped bid &&
  (s.preemptSet bid).all (fun b => (s.blockOf b).st != .saving || s.allStopped b) &&
  s.mm.reqs.all (fun r => r.wid / 32 != bid || s.keptReq r) && s.matsOut bid && s.tilesDone bid && s.sendsDone bid && !s.ctxBusy bid

/-- A path is put back before an ordering instruction it has issued last and still waits for: it is saved in Operand-wait there, and issues it again (R365, R402, R460). -/
def Path.unissue (p : Path) (x : Slow) : Path :=
  { p with
    pc := x.xpc, st := .operandWait (.window []), waited := false
    windows := (p.windows.filter fun e => e.1 != x.id).map fun e => (e.1, e.2 + 1) }

/-- The path stands right behind an ordering instruction that waits, ready or in Operand-wait, and no ticket has been asked for. -/
def Warp.canUnissue (w : Warp) (x : Slow) : Bool :=
  let p := w.path x.pathB
  x.orders && p.pc == x.xpc + 4 && (match x.wait with
    | .ticket _ => false
    | _ => true) && (match p.st with
    | .ready | .operandWait (.window _) | .operandWait (.regs _) => true
    | _ => false)

/-- A path as a full save writes it: a `yield` has completed (R463), and a `pgreq.y` issues again (R148). -/
def Path.forSave (p : Path) : Path :=
  match p.st with
  | .sleepYield _ => { p with st := .ready }
  | .sleepPage es bad _ => { p with st := .sleepPage es bad true }
  | _ => p

/-- A warp as a full save writes it: orderings that can be issued again are, the last first, and entries fetched ahead are given up. -/
def Warp.forSave (w : Warp) : Warp :=
  let w1 := w.slow.foldr (fun x w => if w.canUnissue x then { w.setPath x.pathB ((w.path x.pathB).unissue x) with slow := w.slow.filter fun y => y.id != x.id } else w) w
  { w1 with
    slow := w1.slow.filter fun x => x.op != .look
    pathA := w1.pathA.forSave
    pathB := w1.pathB.forSave
    q := w1.q.map fun e => (e.1, { e.2 with bufs := [], coming := none }) }

/-- Save the B-stage slots a block holds, on its core and its partner. -/
def State.saveSlots (s : State) (bid : Nat) : List (Nat × Nat × Nat) → Option State × State
  | [] => (some s, s)
  | (_, _, slot) :: r =>
    match s.slotSave bid slot with
    | (some s1, _) => s1.saveSlots bid r
    | (none, s1) => (none, s1)

/-- The words of a warp that a save writes, with the free values drawn. -/
def Warp.saveWords (w : Warp) (free : Nat) : List (Nat × DWord) :=
  match w.saved, w.point with
  | some true, some r => w.redWords r free
  | _, _ => w.areaWords

/-- Put an offset before the offsets of words. -/
def shiftWords (n : Nat) (l : List (Nat × DWord)) : List (Nat × DWord) := l.map fun e => (n + e.1, e.2)

/-- The words of every warp of a block, and the free values drawn so far after them. -/
def State.warpWords (s : State) : Nat → List Nat → List (Nat × DWord) × Nat
  | free, [] => ([], free)
  | free, k :: r =>
    let w := s.warpOf k
    let l := w.saveWords free
    let (ls, f) := s.warpWords (free + if w.saved = some true then l.length else 0) r
    (shiftWords (ctxWarp w.idx) l ++ ls, f)

/-- Write a context area. -/
def State.writeArea (s : State) (pages : AL Nat) (base : Nat) (l : List (Nat × DWord)) : State :=
  l.foldl (fun (s : State) e => s.quietWrite (ctxWordSpa pages base e.1) (leBytes 8 e.2.toNat)) s

/-- Put a block's merge entry, or end its task: what a context page that cannot be used does (R287). -/
def State.ctxStop (s : State) (bid va : Nat) (write : Bool) (w : Walk) : State :=
  let b := s.blockOf bid
  match w with
  | .nonres .. =>
    match s.raise (dieOf b.core) b.core b.vf b.task va 4 write w with
    | (some e, s1) => s1.updBlock bid fun b => { b with ctxWait := [e] }
    | (none, s1) => s1
  | _ => s.slotDead bid va w

/-- PREEMPT_SAVE_DONE (R286, R287): the block's state is written and its core slot is free. A block with a faulted queue ends its task instead (R212); the upper slots of one whose pair has ended are gone (R203). -/
def execPreemptSaveDone (bid : Nat) (s : State) : Host.Outcome State Fault Refusal :=
  .next (
    if !s.canSave bid then s
    else if (s.blockOf bid).queues.any fun q => q.2.faulted.isSome then s.killFaulted bid
    else
      let sd := s.deliverTiles fun m => m.src == bid
      let s0 := if (s.blockOf bid).pair = .none then sd.dropUpper bid else sd
      let s1 := (s0.liveWarps bid).foldl (fun (s : State) k => if (s.warpOf k).saved = some true then s.reduceWarp k else s.updWarp k Warp.forSave) s0
      let slots := (s1.eng.bphys.filter fun e => e.2.1 == bid).map fun e => (e.1, e.2)
      match s1.saveSlots bid slots with
      | (none, _) => (s.saveSlots bid slots).2
      | (some s2, _) =>
        let pair := if (s2.blockOf bid).pair = .paired then .solo else (s2.blockOf bid).pair
        let s3 := s2.updBlock bid fun b => { b with pair := pair, epoch := s2.epoch.toNat }
        let b := s3.blockOf bid
        let base := s3.ctxBase b
        let (ww, free) := s3.warpWords s3.free (s3.warpsOf bid)
        let l := s3.blockWords bid ++ ww ++ b.tileWords bid
        match s3.ctxPages b.core b.vf true (ctxPageList base l) [] with
        | (.hold va w, _) => s.ctxStop bid va true w
        | (.dead va w, _) => s.ctxStop bid va true w
        | (.ok pages, s4) =>
          let s5 := ({ s4 with free := free }).writeArea pages base l
          s5.updBlock bid fun b => { b with st := .saved, pre := none, stopBlk := [], image := l, ctxWait := [], waitFrom := s.now })

/-! Resumption (R28, R182, R284, R290) -/

/-- Read the words of an image back, or stop at an error. Another package's give free values (log entry 39). -/
def State.readArea (s : State) (bid : Nat) (pages : AL Nat) (base : Nat) : AL DWord → Except State (AL DWord × State)
  | [] => .ok ([], s)
  | (off, _) :: r =>
    let b := s.blockOf bid
    let a := ctxWordSpa pages base off
    let va := (base + off) % 2 ^ 57
    let (x, c, s1) := if spaRemote a then (Config.freeWord s.free, none, { s with free := s.free + 1 })
      else
        let (c, s1) := s.readVa b.core b.vf (s.fotOf (a / 4096)).owner va a 8
        (BitVec.ofNat 64 (leNat (s1.memBytes a 8)), c, s1)
    match c with
    | some c => .error (s1.slotDead bid va (.failed c))
    | none =>
      match s1.readArea bid pages base r with
      | .error s2 => .error s2
      | .ok (l, s2) => .ok ((off, x) :: l, s2)

/-- The warps of a block that were saved reduced and whose RED bit has been cleared in the area: they take every word of it. -/
def State.unreduced (s : State) (bid : Nat) (read : AL DWord) : List Nat :=
  (s.warpsOf bid).filter fun k => (s.warpOf k).saved == some true && !bitOf (AL.getD read (ctxWarp (s.warpOf k).idx + 0x468) 0).toNat 2

/-- Take the words that memory no longer holds as they were saved. -/
def State.takeArea (s : State) (bid : Nat) (image read : AL DWord) : State :=
  let l := s.unreduced bid read
  (image.zip read).foldl (fun (s : State) e =>
    let k := bid * 32 + (e.1.1 - 0x1000) / 0xA000
    let whole := 0x1000 ≤ e.1.1 && e.1.1 < 0x141000 && l.contains k
    if e.1.2 = e.2.2 && !whole then s
    else s.putCtxWord bid e.1.1 (if whole then BitVec.ofNat 64 (s.warpOf k).flagWord else e.1.2) e.2.2) (l.foldl (fun s k => s.updWarp k fun w => { w with saved := some false }) s)

/-- A path on its core again: what it waited for in Operand-wait is evaluated anew, but for a start token and the stream records of a launch. -/
def Path.resume (p : Path) (now : Nat) : Path :=
  let st := match p.st with
    | .operandWait (.token _) | .operandWait (.launch _ _ _) => p.st
    | .operandWait _ => .ready
    | _ => p.st
  { p with st := st, since := now, waited := false }

/-- A warp on its core again. -/
def Warp.resume (w : Warp) (now : Nat) (oldEpoch : Bool) : Warp :=
  let w1 := match w.saved, w.point with
    | some true, some r => w.reduce r now
    | _, _ => w
  { w1 with
    saved := none
    pts := if oldEpoch then [] else w1.pts
    pathA := w1.pathA.resume now
    pathB := w1.pathB.resume now }

/-- What the issued instructions of a resumed warp wait for: a fence is evaluated anew, and a stream queue is bound on the new core (R216, R365). -/
def State.resumeSlows (s : State) (core wid : Nat) : State :=
  (s.warpOf wid).slow.foldl (fun (s : State) x =>
    match x.op, x.wait with
    | .bind _ _, _ => s.updWarp wid fun w => w.updSlow x.id fun y => { y with wait := .buffers core }
    | .fence sc _, .fence _ _ _ =>
      let (a, b, c) := s.fenceNeeds wid sc
      s.updWarp wid fun w => w.updSlow x.id fun y => { y with wait := .fence a b c }
    | _, _ => s) s

/-- Place a saved block on a core again: its context area is read back, and what was changed there is taken (R287, R290). -/
def State.resumeBlock (s : State) (bid core : Nat) (start : BlockState) : State :=
  let slot := s.freeSlot core
  let s0 := s.updBlock bid fun b => { b with core := core }
  let b := s0.blockOf bid
  let base := s0.ctxBase b
  match s0.ctxPages core b.vf false (ctxPageList base b.image) [] with
  | (.hold va w, s1) => s1.ctxStop bid va false w
  | (.dead va w, s1) => s1.ctxStop bid va false w
  | (.ok pages, s1) =>
    match s1.readArea bid pages base b.image with
    | .error s2 => s2
    | .ok (l, s2) =>
      let s3 := (s2.takeArea bid b.image l).freshShares core b.vf
      let old := (s3.blockOf bid).epoch != s3.epoch.toNat
      let s4 := s3.updBlock bid fun b => { b with st := start, core := core, slot := slot, image := [], ctxWait := [], debugHold := false }
      (s4.warpsOf bid).foldl (fun s k => s.resumeSlows core k) (State.repin (bid := bid) { s4 with
        warps := s4.warps.map fun w => if w.2.bid = bid then (w.1, w.2.resume s.now old) else w
        mm := { s4.mm with reqs := s4.mm.reqs.map fun r => if r.wid / 32 = bid then { r with core := core } else r } })

/-! Placement (R50 to R53, R238) -/

/-- A partition's saved check runs, longest waiting first (R238). -/
def State.savedChecks (s : State) (p : Nat) : List (Nat × Block) :=
  s.blocks.filter fun e => e.2.isCheck && e.2.st == .saved && s.partOf e.2.vf == some p && !s.ctxBusy e.1

/-- The core for a check run of a block: eligible, in a cluster that can take a block, other than the cores of its other runs and of the window that the gang at the head waits for (R51, R53), and by the given order of preference (R237). `saved` is the run itself where it comes back with its tiles (R132). -/
def State.checkCore (s : State) (p : Nat) (t : Task) (saved barred : List Nat) (pref : List (Nat → Bool)) : Option Nat :=
  let l := (s.partCores p).filter fun c => s.eligible t c && s.repinFits saved (dieOf c) && s.clusterFree c && !barred.contains c && !((s.dropHead p).placer p).reserved.contains c
  match pref.find? fun f => l.any f with
  | some f => minBy s.warpsOn (l.filter f)
  | none => minBy s.warpsOn l

/-- Preferences for a tenon core: another die, then another cluster (R237). -/
def tenonPref (mortise : Nat) : List (Nat → Bool) := [fun c => dieOf c != dieOf mortise, fun c => clusterOf c != clusterOf mortise]

/-- Preference for a dowel core: a cluster that neither of the others used (R237). -/
def dowelPref (mortise tenon : Nat) : List (Nat → Bool) := [fun c => clusterOf c != clusterOf mortise && clusterOf c != clusterOf tenon]

/-- The core a check run can take now. A run that starts again after it was void goes to another core than that one (R234). -/
def State.coreForCheck (s : State) (p mortise : Nat) (dowel : Bool) (saved : List Nat) : Option Nat :=
  let m := s.blockOf mortise
  let t := s.taskOf m.vf m.task
  if dowel then s.checkCore p t saved (m.core :: m.tenonCore :: m.voidCore.toList) (dowelPref m.core m.tenonCore)
  else s.checkCore p t saved (m.core :: m.voidCore.toList) (tenonPref m.core)

end Sys2Proof.Machine
end

