-- ==== Sys2Proof/Machine/Vote.lean ====
section
/-! DEFINITION. Check runs, the vote, demerits and fencing, the age limit, and the health record (R222 to R224, R234 to R247, R407). -/

set_option Elab.async false

namespace Sys2Proof.Machine

/-! The health record (R246, R247) -/

/-- A byte array of a record as a number: n bytes from a function. -/
def packBytes (n : Nat) (f : Nat → Nat) : Nat := leNat ((List.range n).map f)

/-- A bit array of a record as a number: 384 bits from a property. -/
def packBits (f : Nat → Bool) : Nat := sumNat ((List.range 384).map fun c => if f c then 2 ^ c else 0)

/-- A field of the record at a byte offset. -/
def recField (off x : Nat) : Nat := x * 2 ^ (8 * off)

/-- The health record as it stands: bytes 0x000 to 0x4CF, and the signature over them (R246). FENCEM shows the arrays that were fenced by themselves, and not those of fenced cores, which R242 counts as fenced too: R246 does not say (DESIGN CHOICE, log entry 93). -/
def State.healthBytes (s : State) : BitVec 10624 :=
  let c := s.chk
  let seq := (Tbl.get c.health 8).toNat
  let cnt (off : Nat) : Nat := recField off (Tbl.get c.health off).toNat
  let counters := sumNat (((List.range 4).map fun i => cnt (0x3E0 + 8 * i)) ++ ((List.range 12).map fun i => cnt (0x400 + 8 * i)) ++ (List.range 7).map fun i => cnt (0x460 + 8 * i))
  let dem (k : Nat) (i : Nat) : Nat := (Tbl.get c.demerit (k + i)).toNat
  let has (l : List Nat) (k i : Nat) : Bool := l.contains (k + i)
  let bytes := (1 + recField 8 seq + recField 0x10 s.now + recField 0x18 Config.packageId.toNat
    + recField 0x20 (packBytes 384 (dem 0)) + recField 0x1A0 (packBytes 384 (dem 384))
    + recField 0x320 (packBits (has c.fenced 0)) + recField 0x350 (packBits (has c.fenced 384))
    + recField 0x380 (packBits (has c.suspect 0)) + recField 0x3B0 (packBits (has c.suspect 384))
    + counters)
  BitVec.ofNat 10624 (bytes + recField 0x4D0 (Config.healthSignature (BitVec.ofNat 9856 bytes)).toNat)

/-- Produce a record: SEQ goes on, and the suspects start afresh. -/
def State.produceRecord (s : State) : State :=
  { s with chk := { s.chk with
    record := some s.healthBytes, suspect := []
    health := Tbl.set s.chk.health 8 (Tbl.get s.chk.health 8 + 1) } }

/-- HEALTH_RECORD_REQUEST (R246). -/
def execHealthRecordRequest (s : State) : Host.Outcome State Fault Refusal := .next s.produceRecord

/-! Fencing (R203, R241, R242) -/

/-- A pair ends: the block goes on in Solo, with its upper slots in the save area (R203). -/
def State.endPair (s : State) (bid : Nat) : State :=
  let b := s.blockOf bid
  if b.pair != .paired then s
  else
    let s1 := s.updBlock bid fun b => { b with pair := .solo }
    let alone (m : MatEntry) : MatEntry := if m.bid = bid then { m with paired := false } else m
    let s2 := { s1 with eng := { s1.eng with matq := s1.eng.matq.map fun (e : Nat × List MatEntry) => (e.1, (e.2.filter fun (m : MatEntry) => !(m.bid == bid && m.follower)).map alone) } }
    let slots := s2.eng.bphys.filter fun (e : Nat × Nat × Nat) => e.2.1 == bid && e.1 / 8 == partner b.core
    match s2.saveSlots bid slots with
    | (some s3, _) => s3
    | (none, s3) => s3

/-- Every pair that a core takes part in ends. -/
def State.endPairsOn (s : State) (core : Nat) : State :=
  ((s.blocks.filter fun e => e.2.onCore && e.2.pair == .paired && (e.2.core == core || partner e.2.core == core)).map (·.1)).foldl (fun s b => s.endPair b) s

/-- Check runs with a property are void. -/
def State.voidRuns (s : State) (p : Block → Bool) : State :=
  ((s.blocks.filter fun e => e.2.isCheck && e.2.onCore && p e.2).map (·.1)).foldl (fun s b => s.voidRun b) s

/-- A unit is fenced, core or core + 384 for its matrix array (R242): the blocks that may no longer stay on the core are pre-empted in this clock, after its issue slots (R37). -/
def State.fence (s : State) (unit : Nat) : State :=
  let core := unit % 384
  let hit (s : State) (b : Block) : Bool := b.core == core && (unit < 384 || !(s.taskOf b.vf b.task).nomatrix)
  let s1 := { s with chk := { s.chk with fenced := insSorted unit s.chk.fenced } }
  let s2 := s1.endPairsOn core
  let s3 := s2.voidRuns (hit s2)
  (s3.signalPreempt fun _ b => hit s3 b).placeBlocked

/-- Fence a unit whose count has reached a threshold, unless it is fenced. -/
def State.fenceIf (s : State) (unit thresh : Nat) : State :=
  if thresh ≤ (Tbl.get s.chk.demerit unit).toNat && !s.chk.fenced.contains unit then s.fence unit else s

/-- Charge points to a unit against a threshold (R241). -/
def State.chargeUnit (s : State) (thresh points unit : Nat) : State :=
  let n := min 255 ((Tbl.get s.chk.demerit unit).toNat + points)
  ({ s with chk := { s.chk with demerit := Tbl.set s.chk.demerit unit (BitVec.ofNat 8 n), suspect := insSorted unit s.chk.suspect } }).fenceIf unit thresh

/-- Charge several units, and produce a record when one of them is fenced by it (R246, R247). -/
def State.chargeAll (s : State) (thresh points : Nat) (units : List Nat) : State :=
  let s1 := units.foldl (fun s u => s.chargeUnit thresh points u) s
  if s1.chk.fenced.length = s.chk.fenced.length then s1 else s1.produceRecord

/-- DEMERIT_DECAY (R241): every non-zero count falls by one; a count that decays never fences. -/
def execDemeritDecay (s : State) : Host.Outcome State Fault Refusal :=
  .next (if s.now % 2 ^ 36 ≠ 0 then s
    else { s with chk := { s.chk with demerit := (s.chk.demerit.map fun e => (e.1, if e.2 = 0 then e.2 else e.2 - 1)).filter fun e => e.2 != 0 } })

/-- A CHKCMD is taken: its block is active and the core is in the partition (R223). -/
def State.chkcmdOk (s : State) (part core : Nat) : Bool :=
  s.blkActive Config.pf blkPart && part < Config.partitions && core < Config.cores && bitOf (s.clustersOf part) (clusterOf core)

/-- The unit a CHKCMD names. -/
def unitOf (core : Nat) (matrix : Bool) : Nat := if matrix then core + 384 else core

/-- CHKCMD_UNFENCE (R241). -/
def execChkcmdUnfence (part core : Nat) (matrix : Bool) (s : State) : Host.Outcome State Fault Refusal :=
  .next (if !s.chkcmdOk part core then s
    else
      let u := unitOf core matrix
      { s with chk := { s.chk with demerit := Tbl.set s.chk.demerit u 0, fenced := s.chk.fenced.filter (· != u) } })

/-- CHKCMD_SET_DEMERITS (R241): the count is set, and a value at the partition's threshold fences. -/
def execChkcmdSetDemerits (part core : Nat) (matrix : Bool) (val : Nat) (s : State) : Host.Outcome State Fault Refusal :=
  .next (if !s.chkcmdOk part core then s
    else
      let u := unitOf core matrix
      let s1 := { s with chk := { s.chk with demerit := Tbl.set s.chk.demerit u (BitVec.ofNat 8 val) } }
      let s2 := s1.fenceIf u (s.thresh part)
      if s2.chk.fenced.length = s1.chk.fenced.length then s2 else s2.produceRecord)

/-! Check runs (R233 to R238) -/

/-- The clock from which a held block's next check run may start: the tenon's also waits for 4,096 clocks after the mortise run began (R237). -/
def Block.checkFrom (b : Block) : Nat := if b.phase = 0 then max b.waitFrom (b.started + 4096) else b.waitFrom

/-- The core on which a held block's next check run can start now: its tenon run (phase 0) or its dowel run (phase 2). -/
def State.checkStart (s : State) (bid : Nat) (dowel : Bool) : Option Nat :=
  let b := s.blockOf bid
  match s.partOf b.vf with
  | some p =>
    if b.st == (if dowel then .voting else .held) && b.phase == (if dowel then 2 else 0) && b.checkFrom ≤ s.now && s.partEn p then s.coreForCheck p bid dowel [] else none
  | none => none

/-- Start a check run of a held block: it runs as a single block (R224). -/
def State.startCheck (s : State) (bid core : Nat) (dowel : Bool) : State :=
  let m := s.blockOf bid
  let t := s.taskOf m.vf m.task
  let (id, s1) := s.fresh
  let b := { newBlock t m.lin core (s.freeSlot core) s.now with kind := if dowel then .dowel else .tenon, origin := bid }
  ((s1.addBlock t id b).takeCluster core 1).updBlock bid fun m =>
    if dowel then { m with phase := 3, dowelCore := core, voidCore := none } else { m with phase := 1, tenonCore := core, voidCore := none }

/-- TENON_START (R237). -/
def execTenonStart (bid : Nat) (s : State) : Host.Outcome State Fault Refusal :=
  .next (match s.checkStart bid false with
    | some c => s.startCheck bid c false
    | none => s)

/-- DOWEL_START (R237). -/
def execDowelStart (bid : Nat) (s : State) : Host.Outcome State Fault Refusal :=
  .next (match s.checkStart bid true with
    | some c => s.startCheck bid c true
    | none => s)

/-! Placement (R50 to R53, R238) -/

/-- Note the core a check run has come to. -/
def State.noteCheckCore (s : State) (mortise core : Nat) (dowel : Bool) : State :=
  s.updBlock mortise fun m => if dowel then { m with dowelCore := core } else { m with tenonCore := core }

/-- Place a unit on its cores. A saved gang comes back whole, or only the block that cannot yet be restored acts (R29, R287). A gang takes its cluster for as many cycles as it has blocks (R51). -/
def State.placeUnit (s : State) (p : Nat) (u : WorkUnit) (cores : List Nat) : State :=
  let t := s.taskOf u.vf u.name
  let st : BlockState := if 1 < t.gang then .starting else .resident
  let l := u.items.zip cores
  let done (s : State) : State := s.takeCluster (cores.headD 0) l.length
  if u.saved then
    match l.find? fun e => ((s.resumeBlock e.1 e.2 st).blockOf e.1).st != st with
    | some e => s.resumeBlock e.1 e.2 st
    | none => done (l.foldl (fun s e => s.resumeBlock e.1 e.2 st) s)
  else done (l.foldl (fun s e => s.placeNew p (s.taskOf u.vf u.name) e.1 e.2) s)

/-- A check run that waits for a core: the run itself where it is saved, or the held block it starts for, and since when. -/
structure CheckWait where
  bid : Nat
  start : Bool
  dowel : Bool
  since : Nat
  deriving DecidableEq, Repr

/-- The check runs of a partition that wait for a core and can have one now (R237, R238). -/
def State.checksFit (s : State) (p : Nat) : List CheckWait :=
  ((s.savedChecks p).filter fun e => (s.coreForCheck p e.2.origin (e.2.kind == .dowel) [e.1]).isSome).map (fun e => ⟨e.1, false, e.2.kind == .dowel, e.2.waitFrom⟩) ++
  (s.blocks.filter fun e => s.partOf e.2.vf == some p).flatMap fun e => List.flatten [
    (if (s.checkStart e.1 false).isSome then [⟨e.1, true, false, e.2.checkFrom⟩] else []),
    (if (s.checkStart e.1 true).isSome then [⟨e.1, true, true, e.2.checkFrom⟩] else [])]

/-- The check run that the distributor places now: the one that has waited longest (the choice among several is the model's, log entry 84). -/
def State.nextCheck (s : State) (p : Nat) : Option CheckWait := minBy (·.since) (s.checksFit p)

/-- Place a check run. -/
def State.placeCheck (s : State) (p : Nat) (w : CheckWait) : State :=
  let mortise := if w.start then w.bid else (s.blockOf w.bid).origin
  match s.coreForCheck p mortise w.dowel (if w.start then [] else [w.bid]) with
  | some core =>
    if w.start then s.startCheck w.bid core w.dowel
    else ((s.resumeBlock w.bid core .resident).noteCheckCore mortise core w.dowel).takeCluster core 1
  | none => s

/-- BLOCK_PLACE (R50 to R53, R238): one unit of a partition in service, check runs first. -/
def execBlockPlace (part : Nat) (s : State) : Host.Outcome State Fault Refusal :=
  .next (
    let s1 := s.placeBlocked
    if !s1.partEn part then s1
    else match s1.nextCheck part with
      | some w => s1.placeCheck part w
      | none =>
        let s2 := s1.trackHead part
        match s2.firstPlace part (s2.placer part) [] (s2.ranked part) with
        | some (u, cores) => (s2.placeUnit part u cores).dropHead part
        | none => s2)

/-- A check run of a kind has ended: it diverged, or it is complete (R234, R364). -/
def State.checkEnded (s : State) (bid : Nat) (kind : RunKind) : Bool :=
  let b := s.blockOf bid
  AL.has s.blocks bid && b.kind == kind && (b.diverged || s.blockDone bid)

/-- A check run leaves the machine. -/
def State.endCheck (s : State) (bid : Nat) : State := (s.leaveCore bid .held).dropBlocks [bid]

/-- The signature of a check run that has ended; a diverged run agrees with no other (R234). -/
def State.checkSig (s : State) (bid : Nat) : Option Sig := if (s.blockOf bid).diverged then none else some (s.blockSig bid)

/-- Two runs agree in SS and VS. -/
def Sig.sameSV (a b : Sig) : Bool := a.ss == b.ss && a.vs == b.vs

/-- Two runs agree (R239). -/
def Sig.agrees (a b : Sig) : Bool := a.sameSV b && a.ms == b.ms

/-- Two outcomes agree; a run that diverged differs from every other. -/
def sigsAgree : Option Sig → Option Sig → Bool
  | some a, some b => a.agrees b
  | _, _ => false

/-- A held block's set M is released and the block is Retired (R240). -/
def State.releaseHeld (s : State) (bid : Nat) (set : VersionSet) (checked : Bool) : State :=
  let b := s.blockOf bid
  let s1 := s.updBlock bid fun b => { b with set := ⟨[], [], []⟩ }
  (s1.release b.vf set).blockRetired bid checked

/-- TENON_END (R239): the signatures agree and set M is released, or the vote goes on to a dowel run. -/
def execTenonEnd (bid : Nat) (s : State) : Host.Outcome State Fault Refusal :=
  .next (if !s.checkEnded bid .tenon then s
    else
      let m := (s.blockOf bid).origin
      let g := s.checkSig bid
      let s1 := s.endCheck bid
      if sigsAgree (some (s.blockOf m).sig) g then (s1.health 0x460).releaseHeld m (s.blockOf m).set true
      else s1.updBlock m fun b => { b with st := .voting, phase := 2, tenonSig := g, waitFrom := s.now })

/-- The unit a loser's points go to: its matrix array where only MS differs (R241). -/
def loserUnit (core : Nat) (winner : Sig) : Option Sig → Nat
  | some g => if g.sameSV winner then core + 384 else core
  | none => core

/-- A vote ends in CHECK: the block counts as checked and the task dies (R239, R246). -/
def State.checkKill (s : State) (m : Nat) (ap allDiffer counted : Bool) : State :=
  let b := s.blockOf m
  let l := (s.taskOf b.vf b.task).rlvl
  let s1 := if counted ∧ 1 ≤ l ∧ l ≤ 6 then s.health (0x400 + 16 * (l - 1) + 8) else s
  let s2 := if ap then s1.health 0x480 else s1
  let aux := (if ap then 1 else 0) + (if allDiffer then 2 else 0) + b.lin % 2 ^ 24 * 2 ^ 8
  s2.killWith b.vf b.task (termRecord b.vf (s.partD b.vf) tcCheck 0 false 0 0 0 0 aux b.task b.core)

/-- DOWEL_END (R239, R241). -/
def execDowelEnd (bid : Nat) (s : State) : Host.Outcome State Fault Refusal :=
  .next (if !s.checkEnded bid .dowel then s
    else
      let d := s.blockOf bid
      let m := s.blockOf d.origin
      let th := s.thresh (s.partD m.vf)
      let g := s.checkSig bid
      let s1 := s.endCheck bid
      if d.unver then s1.checkKill d.origin m.atoms false false
      else if sigsAgree (some m.sig) g then
        ((s1.health 0x468).releaseHeld d.origin m.set true).chargeAll th 4 [loserUnit m.tenonCore m.sig m.tenonSig]
      else match g with
        | some dg =>
          if sigsAgree m.tenonSig g then
            if m.sig.asig = dg.asig then
              ((s1.health 0x470).releaseHeld d.origin d.set true).chargeAll th 4 [loserUnit m.core dg (some m.sig)]
            else (s1.checkKill d.origin true false true).chargeAll th 4 [loserUnit m.core dg (some m.sig)]
          else
            let sameSV := dg.sameSV m.sig && (match m.tenonSig with
              | some t => t.sameSV m.sig
              | none => false)
            ((s1.health 0x478).checkKill d.origin m.atoms true true).chargeAll th 2
              ([m.core, m.tenonCore, m.dowelCore].map fun c => if sameSV then c + 384 else c)
        | none => ((s1.health 0x478).checkKill d.origin m.atoms true true).chargeAll th 2 [m.core, m.tenonCore, m.dowelCore])

/-! Room for check runs (R238, R407) -/

/-- Waiters of a partition for a check run's core: the block whose `waitFrom` counts, and since when. -/
def State.checkWaiters (s : State) (p : Nat) : List (Nat × Nat) :=
  (s.blocks.filter fun e => s.partOf e.2.vf == some p &&
    (((e.2.st == .held || e.2.st == .voting) && (e.2.phase == 0 || e.2.phase == 2)) || (e.2.isCheck && e.2.st == .saved))).map fun e =>
      (e.1, if e.2.isCheck then e.2.waitFrom else e.2.checkFrom)

/-- The waiter of a partition that has waited 16,384 clocks without a core. -/
def State.roomDue (s : State) (p : Nat) : Option Nat := ((s.checkWaiters p).find? fun e => e.2 + 16384 ≤ s.now).map (·.1)

/-- A resident block all of whose warps are in Clamp-wait (R238). -/
def State.allClamped (s : State) (bid : Nat) : Bool :=
  let l := s.liveWarps bid
  let at_ (p : Path) : Bool := match p.st with
    | .clampWait _ _ => true
    | .ended => true
    | _ => false
  !l.isEmpty && l.all fun k => at_ (s.warpOf k).pathA && at_ (s.warpOf k).pathB

/-- Resident blocks of a partition. -/
def State.residents (s : State) (p : Nat) : List (Nat × Block) := s.blocks.filter fun e => e.2.st == .resident && s.partOf e.2.vf == some p

/-- CHECKROOM_PREEMPT (R238): one block makes room; the waiter's time starts afresh. -/
def execCheckRoomPreempt (part : Nat) (s : State) : Host.Outcome State Fault Refusal :=
  .next (match s.roomDue part with
    | none => s
    | some w =>
      let s1 := s.updBlock w fun b => { b with waitFrom := s.now }
      let rs := s1.residents part
      match (rs.filter fun e => s1.allClamped e.1).map (·.1) with
      | b :: l =>
        let (i, s2) := s1.choose (l.length + 1)
        s2.preempt false ((b :: l).getD i b)
      | [] =>
        match minBy (fun e => 2 ^ 64 - e.2.started) (rs.filter fun e => !e.2.isCheck && (s1.taskOf e.2.vf e.2.task).gang ≤ 1) with
        | some e => s1.preempt false e.1
        | none => s1)

/-- A check run's warp has waited for its role for 2^20 clocks (R407). -/
def State.roleOverdue (s : State) (wid : Nat) : Bool :=
  let w := s.warpOf wid
  (s.blockOf w.bid).isCheck && AL.has s.warps wid && !w.exited && w.roleWaits.isSome && w.roleSince + 2 ^ 20 ≤ s.now

/-- CHECKROLE_TIMEOUT (R407): the run diverges. -/
def execCheckRoleTimeout (wid : Nat) (s : State) : Host.Outcome State Fault Refusal :=
  .next (if s.roleOverdue wid then s.diverge (s.warpOf wid).bid else s)

/-! The age limit (R243) -/

/-- A set has been Held or Voting for its partition's age limit. -/
def State.ageDue (s : State) (bid : Nat) : Bool :=
  let b := s.blockOf bid
  let n := s.ageLimit (s.partD b.vf)
  (b.st == .held || b.st == .voting) && n != 0 && b.heldAt + n ≤ s.now

/-- CLAMPAGE_LIMIT (R243): set M is released unverified, and the check runs go. -/
def execClampAgeLimit (bid : Nat) (s : State) : Host.Outcome State Fault Refusal :=
  .next (if !s.ageDue bid then s
    else
      let b := s.blockOf bid
      let runs := (s.blocks.filter fun e => e.2.isCheck && e.2.origin == bid).map (·.1)
      let s1 := runs.foldl (fun s r => s.endCheck r) s
      let s2 := s1.updTask b.vf b.task fun t => { t with voted := false }
      (s2.health 0x3E0).releaseHeld bid b.set false)

end Sys2Proof.Machine
end

