-- ==== Sys2Proof/Machine/Keys.lean ====
section
/-! DEFINITION. Key domains, frame ownership and the key commands (R248, R249, R256 to R259, R295). -/

set_option Elab.async false

namespace Sys2Proof.Machine

/-- A key domain exists (R248): the PF's and the management controller's always do. -/
def State.domExists (s : State) (d : Nat) : Bool := d == Config.pfDomain || d == Config.mgmtDomain || AL.has s.keys.doms d

/-- Create a domain with a new key (R249). -/
def State.createDom (s : State) (d : Nat) : State :=
  { s with keys := { s.keys with doms := AL.put s.keys.doms d s.keys.draws, draws := s.keys.draws + 1 } }

/-- Destroy a domain: its key is discarded, and its tree with it. -/
def State.destroyDom (s0 : State) (d : Nat) : State :=
  let s := s0.ctrDrop fun c => c.dom == d
  { s with keys := { s.keys with doms := AL.del s.keys.doms d, trees := AL.del s.keys.trees d } }

/-- A domain owns a frame with ADOPTED = 1. -/
def State.ownsFrames (s : State) (d : Nat) : Bool :=
  s.keys.fot.any (fun e => e.2.owner == d && e.2.adopted) || (d == Config.mgmtDomain && s.keys.booted)

/-! Command status (R258) -/

/-- Bytes of a tree region of depth D (R252). -/
def treeBytes (d : Nat) : Nat := 64 * sumNat ((List.range d).map fun i => 8 ^ (i + 1))

/-- Every frame of a tree region belongs to the management domain, adopted, and lies outside its carve-out (R258). -/
def State.treeFits (s : State) (base d : Nat) : Bool :=
  let first := base / 4096
  (List.range ((base + treeBytes d - 1) / 4096 + 1 - first)).all fun i =>
    let e := s.fotOf (first + i)
    spaHere ((first + i) * 4096) && e.owner == Config.mgmtDomain && e.adopted && !inCarve (first + i)

/-- A frame that ADOPT may not name: outside memory, in the carve-out, or second-tier memory outside a VF's ranges (R258, R295). -/
def State.badFrame (s : State) (dom frame : Nat) : Bool :=
  let spa := frame * 4096
  !spaHere spa || (s.keys.booted && inCarve frame) ||
  (inTier spa && dom < Config.vfs && !(match s.partOf dom with
    | some p => s.cxlCovers p spa
    | none => false))

/-- A leaf slot of a domain is held by another frame. -/
def State.slotTaken (s : State) (dom frame slot : Nat) : Bool :=
  s.keys.fot.any (fun e => e.1 != frame && e.2.owner == dom && e.2.cslot == some slot) ||
  (dom == Config.mgmtDomain && s.keys.booted && slot < 4 * carve)

/-- Depth of a domain's tree. -/
def State.treeDepth (s : State) (dom : Nat) : Option Nat := (AL.get? s.keys.trees dom).map (·.1)

/-- The status code a command will end with: the first that applies (R258). -/
def State.keyCode (s : State) (op dom rsvd frame slot depth : Nat) : Nat :=
  if op = 0 ∨ 4 < op ∨ rsvd ≠ 0 ∨ (op = 4 ∧ (depth = 0 ∨ 10 < depth)) then 2
  else if (op = 2 ∨ op = 3) ∧ (dom < 1024 ∨ 1279 < dom) then 3
  else if op = 2 then (if s.domExists dom then 3 else 0)
  else if !s.domExists dom then 3
  else if op = 3 then (if s.ownsFrames dom then 4 else 0)
  else if op = 4 then (if s.ownsFrames dom then 4 else if s.treeFits (frame * 4096) depth then 0 else 6)
  else
    match s.treeDepth dom with
    | none => 5
    | some d =>
      let c := s.ctrOf dom slot
      if 8 ^ d ≤ slot then 5
      else if s.badFrame dom frame then 6
      else if s.slotTaken dom frame slot then 7
      else if c.exhausted || c.major.toNat = 2 ^ 64 - 1 then 8
      else 0

/-! Starting a command -/

/-- ADOPT steps 1 and 2 (R257): the frame is locked and unmapped; the accesses already translated are noted. -/
def State.adoptLock (s : State) (frame : Nat) : List Nat × List Nat × State :=
  let e := s.fotOf frame
  let reqs := (s.mm.reqs.filter fun r => r.line / 16 == frame).map (·.id)
  let mats := s.eng.matq.flatMap fun q => (q.2.filter fun m => m.op == 5 && m.elems.any fun x => x.2.1 / 4096 == frame).map (·.id)
  let clear (t : TlbEntry) : Bool := !(t.spa ≤ frame * 4096 && frame * 4096 < t.spa + t.size)
  (reqs, mats, { s with
    keys := { s.keys with fot := AL.put s.keys.fot frame { e with adopted := false } }
    mm := { s.mm with tlb1 := s.mm.tlb1.filter clear, tlb2 := s.mm.tlb2.filter clear, tlbN := s.mm.tlbN.filter clear } })

/-- Set BUSY, CODE and SEQ of the key block (R258). -/
def State.keyStatus (s : State) (busy : Bool) (code seq : Nat) : State :=
  s.setReg Config.pf blkKey 0x18 (BitVec.ofNat 64 (code + seq % 2 ^ 16 * 2 ^ 8 + if busy then 2 ^ 24 else 0))

/-- What a command does at its start when its code is 0. -/
def State.keyPerform (s : State) (op dom frame depth : Nat) : State :=
  match op with
  | 2 => s.createDom dom
  | 3 => s.destroyDom dom
  | 4 =>
    let s1 := s.ctrDrop fun c => c.dom == dom
    { s1 with keys := { s1.keys with
      trees := AL.put s1.keys.trees dom (depth, frame * 4096)
      nodes := s1.keys.nodes.filter fun e => e.1 / 2 ^ 34 / 16 != dom } }
  | _ => s

/-- A write of the OP register starts a command, or is not taken while one is in progress (R258). -/
def State.keyStart (s : State) (op word : Nat) : State :=
  let seq := s.regBits Config.pf blkKey 0x18 23 8
  if !s.blkActive Config.pf blkKey then s
  else if s.regBits Config.pf blkKey 0x18 24 24 = 1 then s.keyStatus true 1 (seq + 1)
  else
    let dom := bits word 18 8
    let frame := s.regBits Config.pf blkKey 8 51 12
    let slot := s.regBits Config.pf blkKey 0x10 29 0
    let depth := s.regBits Config.pf blkKey 0x10 33 30
    let code := s.keyCode op dom (bits word 63 19) frame slot depth
    let s0 := s.keyStatus true (s.regBits Config.pf blkKey 0x18 7 0) seq
    if code = 0 ∧ op = 1 then
      let (reqs, mats, s1) := s0.adoptLock frame
      { s1 with keys := { s1.keys with cmd := some ⟨op, dom, frame, slot, depth, 0, reqs, mats, false⟩ } }
    else
      let s1 := if code = 0 then s0.keyPerform op dom frame depth else s0
      { s1 with keys := { s1.keys with cmd := some ⟨op, dom, frame, slot, depth, code, [], [], true⟩ } }

/-- KEY_ADOPT (R257, R258). -/
def execKeyAdopt (word : Nat) (s : State) : Host.Outcome State Fault Refusal := .next (s.keyStart 1 word)

/-- KEY_WCREATE (R249, R258). -/
def execKeyWcreate (word : Nat) (s : State) : Host.Outcome State Fault Refusal := .next (s.keyStart 2 word)

/-- KEY_WDESTROY (R258). -/
def execKeyWdestroy (word : Nat) (s : State) : Host.Outcome State Fault Refusal := .next (s.keyStart 3 word)

/-- KEY_TREECFG (R252, R258). -/
def execKeyTreecfg (word : Nat) (s : State) : Host.Outcome State Fault Refusal := .next (s.keyStart 4 word)

/-! ADOPT steps 3 to 7 (R257) -/

/-- Held versions on a frame are discarded: the task of a mortise run's set dies, a dowel run alone is void. -/
def State.adoptVersions (s : State) (frame : Nat) : State :=
  let on (b : Block) : Bool := b.set.bytes.any fun e => e.1 / 4096 == frame
  let dead := (s.blocks.filter fun e => e.2.kind == .mortise && on e.2).map (·.1)
  let s1 := dead.foldl (fun (s : State) k =>
    let b := s.blockOf k
    if AL.has s.blocks k then
      s.killWith b.vf b.task (termRecord b.vf (s.partD b.vf) tcAccess 2 false 0 0 0 0 (auxOf b.lin 0 false false false) b.task b.core)
    else s) s
  ((s1.blocks.filter fun e => e.2.kind == .dowel && on e.2).map (·.1)).foldl (fun s k => s.voidRun k) s1

/-- Every cached trace of a frame goes, dirty lines and the counter block's cache entries without write-back (ADOPT_FLUSH). -/
def State.adoptFlush (s : State) (frame : Nat) : State :=
  let e := s.fotOf frame
  let s1 := (s.adoptVersions frame).ctrDrop fun c => c.level == 0 && c.dom == e.owner && e.cslot == some c.index
  (s1.dropCopies fun l => l / 16 == frame).modM fun m => { m with
    dirty := m.dirty.filter fun e => e.1 / 4096 != frame
    l2dom := m.l2dom.filter (fun e => e.1 / 16 != frame)
    l2way := m.l2way.filter fun e => e.1 / 16 != frame }

/-- The frame reads zero with tag 0 under its new owner, and nothing of its errors is left (ADOPT_SCRUB). -/
def State.adoptScrub (s : State) (frame : Nat) : State :=
  s.modM fun m => { m with
    mem := m.mem.filter fun e => e.1 / 4096 != frame
    tags := m.tags.filter fun e => e.1 / 64 != frame
    poison := m.poison.filter fun x => x / 64 != frame
    macBad := m.macBad.filter fun x => x / 64 != frame
    sideTop := m.sideTop.filter fun e => e.1 / 64 != frame
    sealDom := m.sealDom.filter fun e => e.1 / 64 != frame
    treeBad := m.treeBad.filter fun x => x != frame
    upsets := m.upsets.filter fun e => e.1 / 64 != frame }

/-- The accesses an ADOPT waits for have been performed at their homes, or dropped. -/
def State.adoptReady (s : State) : Option KeyCmd :=
  match s.keys.cmd with
  | some c => if !c.ready && s.reqsDone c.reqs && s.matsDone c.mats then some c else none
  | none => none

/-- ADOPT_DRAIN_DONE (R257 steps 3 to 7, R269). -/
def execAdoptDrainDone (s : State) : Host.Outcome State Fault Refusal :=
  .next (match s.adoptReady with
    | none => s
    | some c =>
      let s1 := (s.adoptFlush c.frame).bumpFrame c.frame
      let old := s1.ctrOf c.dom c.slot
      let s2 := ((s1.setCtr c.dom c.slot ⟨old.major + 1, [], false⟩).adoptScrub c.frame).raisePath c.dom c.slot
      { s2 with keys := { s2.keys with
        fot := AL.put s2.keys.fot c.frame ⟨c.dom, true, some c.slot⟩
        cmd := some { c with ready := true } } })

/-- KEY_COMMAND_DONE (R258): CODE and SEQ. -/
def execKeyCommandDone (s : State) : Host.Outcome State Fault Refusal :=
  .next (match s.keys.cmd with
    | some c =>
      if c.ready then ({ s with keys := { s.keys with cmd := none } }).keyStatus false c.code (s.regBits Config.pf blkKey 0x18 23 8 + 1) else s
    | none => s)

end Sys2Proof.Machine
end

