-- ==== Sys2Proof/Machine/Reporting.lean ====
section
/-! DEFINITION. The reporting port, the rings, RESOLVE, and invalidations (R143, R144, R151 to R157). -/

set_option Elab.async false

namespace Sys2Proof.Machine

/-! The reporting port (R157) -/

/-- The function a merge entry reports to (R156). -/
def MergeEntry.fn (e : MergeEntry) : Nat := if e.stage2 then Config.pf else e.vf

/-- The record of a merge entry (R154). -/
def State.mergeRecord (s : State) (k : Nat) (e : MergeEntry) : BitVec 256 :=
  let w0 := e.typ + e.vf % 1024 * 2 ^ 16 + s.partD e.vf % 32 * 2 ^ 26 + (if e.write then 2 ^ 31 else 0) + e.count * 2 ^ 32
              + e.level * 2 ^ 48 + (if e.stage2 then 2 ^ 51 else 0)
  let va := if e.stage2 then e.va / 4096 * 4096 else e.addr
  let token := k % 256 + k / 256 % 4 * 2 ^ 8 + (Tbl.get s.mm.mergeSeq k).toNat * 2 ^ 10
  BitVec.ofNat 256 (w0 + va % 2 ^ 57 * 2 ^ 64 + (if e.stage2 then e.addr % 2 ^ 57 else 0) * 2 ^ 128
    + (token + e.task * 2 ^ 32 + e.core * 2 ^ 52) * 2 ^ 192)

/-- The terminal record a function would write next: it stands in the port's queue of 64, and the ring can take it. -/
def State.nextTerm (s : State) (fn : Nat) : Option TermRec :=
  if s.ringOpen (2 * fn + 1) then (s.rep.term.take 64).find? fun r => r.fn == fn else none

/-- The merge entry a function would report next. -/
def State.nextMerge (s : State) (fn : Nat) : Option (Nat × MergeEntry) :=
  if s.ringOpen (2 * fn) then minBy (fun e => e.2.order) (s.mm.merges.filter fun e => !e.2.posted && e.2.fn == fn) else none

/-- Functions with a record that waits. -/
def State.reporters (s : State) : List Nat :=
  sortNub (s.rep.term.map (·.fn) ++ (s.mm.merges.filter fun e => !e.2.posted).map fun e => e.2.fn)

/-- Functions with a record that can be written now. -/
def State.writers (s : State) : List Nat := s.reporters.filter fun f => (s.nextTerm f).isSome || (s.nextMerge f).isSome

/-- The level a host walk stopped at. -/
def Walk.level : Walk → Nat
  | .invalid _ k _ => k
  | .nonres _ k _ _ _ => k
  | _ => 0

/-- Write a record to a ring (R153). A page that is no valid, resident host mapping stops the ring, which keeps the record, and the PF is told. -/
def State.ringWrite (s : State) (r : Nat) (x : BitVec 256) : State :=
  let fn := (ringPlace r).1
  let slot := bits (s.ringReg r 0) 51 12 * 4096 + 32 * (s.ringReg r 1 % 2 ^ s.ringLog r)
  if fn = Config.pf then (s.writeRecordAt slot x).ringAdvance r
  else
    let (w, s1) := s.hostT 0 fn slot
    match w with
    | .ok spa _ _ _ _ _ => (s1.writeRecordAt spa x).ringAdvance r
    | _ =>
      let s2 := s1.setRingReg r 3 (putBits (s1.ringReg r 3) 17 17 1)
      let s3 := { s2 with rep := { s2.rep with kept := AL.put s2.rep.kept r x } }
      s3.queueTerm Config.pf (termRecord fn (s.partD fn) tcAccess 2 true w.level 1 0 slot (r % 2) 0 0) none

/-- Free the name of a killed task whose record has been written (R41, R157). -/
def State.freeName (s : State) (task : Option (Nat × Nat)) : State :=
  match task with
  | none => s
  | some (vf, name) =>
    match AL.get? s.tasks (taskKey vf name) with
    | some t => if t.st = .killed ∧ !(s.rep.term.any fun r => r.task == some (vf, name)) then { s with tasks := AL.del s.tasks (taskKey vf name) } else s
    | none => s

/-- Take out the first record of a function from the terminal queue. -/
def dropTerm (fn : Nat) : List TermRec → List TermRec
  | [] => []
  | r :: l => if r.fn = fn then l else r :: dropTerm fn l

/-- A retryable record has been written: its entry, named by the record's token, is Posted (R152, R154). An entry that has been freed since is not. -/
def State.postMerge (s : State) (x : BitVec 256) : State :=
  let k := bits x.toNat 201 192
  if (Tbl.get s.mm.mergeSeq k).toNat = bits x.toNat 209 202 then
    s.modM fun m => { m with merges := AL.upd m.merges k fun e => { e with posted := true } }
  else s

/-- A function's next record goes to its ring: terminal before retryable. An entry is Posted only when its record has been written. -/
def State.reportOne (s : State) (fn : Nat) : State :=
  match s.nextTerm fn with
  | some r =>
    let s1 := { s with rep := { s.rep with term := dropTerm fn s.rep.term } }
    let s2 := s1.ringWrite (2 * fn + 1) r.record
    if AL.has s2.rep.kept (2 * fn + 1) then s2 else s2.freeName r.task
  | none =>
    match s.nextMerge fn with
    | some (k, e) =>
      let s1 := s.ringWrite (2 * fn) (s.mergeRecord k e)
      if AL.has s1.rep.kept (2 * fn) then s1 else s1.postMerge (s.mergeRecord k e)
    | none => s

/-- The port has a record to write, or deficits and counts of waiting functions that a slot without one discards (R55, R157). -/
def State.portBusy (s : State) : Bool := !s.writers.isEmpty || !s.rep.deficit.isEmpty || !s.rep.waitSlots.isEmpty || !s.rep.promoted.isEmpty

/-- REPORT_RECORD_WRITE (R157): one record slot, given by the deficits of R55 under RWGT. -/
def execReportRecordWrite (s : State) : Host.Outcome State Fault Refusal :=
  .next (
    let c := s.writers
    let all := s.reporters
    let d := c.foldl (fun (t : AL Int) f => AL.put t f (AL.getD t f 0 + (s.rwgt f : Nat))) (s.rep.deficit.filter fun e => all.contains e.1)
    let pro := s.rep.promoted.filter c.contains
    let waits := c.map fun f => (f, AL.getD s.rep.waitSlots f 0 + 1)
    match (match pro.head? with
      | some f => some f
      | none => topVf d c) with
    | none => { s with rep := { s.rep with deficit := d, waitSlots := waits, promoted := pro } }
    | some f =>
      let w := sumNat (c.map s.rwgt)
      ({ s with rep := { s.rep with deficit := AL.put d f (AL.getD d f 0 - (w : Nat)), waitSlots := AL.put waits f 0, promoted := pro.filter (· != f) } }).reportOne f)

/-- A function's record has waited for 4,096 record slots (R157). -/
def State.reportOverdue (s : State) (fn : Nat) : Bool := 4096 ≤ AL.getD s.rep.waitSlots fn 0 && !s.rep.promoted.contains fn

/-- REPORT_FN_PROMOTE (R157): the function is served next. -/
def execReportFnPromote (fn : Nat) (s : State) : Host.Outcome State Fault Refusal :=
  .next (if s.reportOverdue fn then { s with rep := { s.rep with promoted := insSorted fn s.rep.promoted } } else s)

/-! Ring registers (R153) -/

/-- Write the record a stopped ring kept, now that it takes records (R153). That record needs no test of the resized ring's TAIL: `it is written when STOP clears` is taken literally (DESIGN CHOICE, log entry 82). -/
def State.ringKept (s : State) (r : Nat) : State :=
  match AL.get? s.rep.kept r with
  | some x =>
    let s1 := ({ s with rep := { s.rep with kept := AL.del s.rep.kept r } }).ringWrite r x
    if AL.has s1.rep.kept r then s1
    else if r % 2 = 0 then s1.postMerge x
    else s1.freeName (some (bits x.toNat 25 16, bits x.toNat 243 224))
  | none => s

/-- RING_RBASE_WRITE (R153): a legal size clears STOP; another stops the ring. -/
def execRingRbaseWrite (ring val : Nat) (s : State) : Host.Outcome State Fault Refusal :=
  .next (
    let (fn, blk, _) := ringPlace ring
    if !s.blkActive fn blk then s
    else
      let legal := 6 ≤ bits val 4 0 && bits val 4 0 ≤ 16
      let s1 := s.setRingReg ring 0 (bits val 4 0 + bits val 51 12 * 2 ^ 12)
      let s2 := s1.setRingReg ring 3 (putBits (s1.ringReg ring 3) 17 17 (if legal then 0 else 1))
      if !legal then s2
      else if ring = 2050 then s2.drainNotices s2.rep.notices
      else s2.ringKept ring)

/-! RESOLVE (R155) -/

/-- Note an invalid page in a path's wait; of several, the one of the lowest address stands (R148). -/
def Path.noteBad (p : Path) (k sq : Nat) (a : BadPage) : Path :=
  let low (b : Option BadPage) : Option BadPage := match b with
    | some x => some (if a.addr < x.addr then a else x)
    | none => some a
  match p.st with
  | .operandWait (.launch n es bad) => if es.contains (k, sq) then { p with st := .operandWait (.launch n es (low bad)) } else p
  | .sleepPage es bad again => if es.contains (k, sq) then { p with st := .sleepPage es (low bad) again } else p
  | .parked es bad => if es.contains (k, sq) then { p with st := .parked es (low bad) } else p
  | _ => p

/-- A RESOLVE write that names no Posted entry of the writer's own records (R155). -/
def State.badResolve (s : State) (fn : Nat) : State :=
  if fn = Config.pf then s.regSat fn blkPfxlate 0x50 32 1 else s.regSat fn blkXlate 0x28 32 1

/-- An entry becomes Free. The sequence of its token goes up here, so the first use of an entry after reset has sequence 0: R154 does not say which (DESIGN CHOICE, log entry 82). -/
def State.freeMerge (s : State) (k : Nat) : State :=
  s.modM fun m => { m with merges := AL.del m.merges k, mergeSeq := Tbl.set m.mergeSeq k (Tbl.get m.mergeSeq k + 1) }

/-- What an entry declared invalid tells its waiters. The address is the entry's own (its aligned address, or for stage 2 the VA of its first request), which R148's `the lowest such address` is taken to mean (DESIGN CHOICE, log entry 82). -/
def MergeEntry.badPage (e : MergeEntry) : BadPage :=
  ⟨if e.stage2 then e.va else e.addr, e.level, if e.stage2 then 1 else 0, if e.stage2 then some e.addr else none⟩

/-- A block whose state or slots wait for a page declared invalid: its task ends, as when the page is met (R155, R287). -/
def State.ctxBad (s : State) (bid k sq : Nat) (a : BadPage) : State :=
  let b := s.blockOf bid
  if b.ctxWait.contains (k, sq) then
    s.killWith b.vf b.task (termRecord b.vf (s.partD b.vf) tcAccess 2 true a.level a.stage a.addr (a.gpa.getD 0) 0 b.task b.core)
  else s

/-- The entry is resolved: its waiters go on, or trap ACCESS when the page was declared invalid (R148, R149, R155). -/
def State.resolveEntry (s : State) (k : Nat) (e : MergeEntry) (invalid : Bool) : State :=
  let sq := (Tbl.get s.mm.mergeSeq k).toNat
  let a := e.badPage
  let s1 := if invalid then { s with
      warps := s.warps.map fun w => (w.1, { w.2 with pathA := w.2.pathA.noteBad k sq a, pathB := w.2.pathB.noteBad k sq a })
      blocks := s.blocks.map fun b => (b.1, b.2.noteBad k sq a) } else s
  let s2 := s1.freeMerge k
  let s3 := if invalid && e.stage2 then
      s2.queueTerm e.vf (termRecord e.vf (s.partD e.vf) tcAccess 2 e.write e.level 1 e.va 0 0 e.task e.core) none
    else s2
  let s3 := if invalid then (AL.keys s3.blocks).foldl (fun (s : State) bid => s.ctxBad bid k sq a) s3 else s3
  let s3 := if invalid then (sortNub (s3.tasks.map fun t => t.2.vf)).foldl (fun (s : State) v => s.jigBad v k sq a) s3 else s3
  (pathsOf (AL.keys s3.warps)).foldl (fun (s : State) x =>
    match ((s.warpOf x.1).path x.2).st with
    | .sleepPage es bad again => if es.contains (k, sq) then s.pageOver x.1 x.2 es bad again else s
    | .parked es bad => if es.contains (k, sq) then s.pageOver x.1 x.2 es bad true else s
    | _ => s) s3

/-- RESOLVE (R155). -/
def execResolve (fn word : Nat) (s : State) : Host.Outcome State Fault Refusal :=
  .next (if !s.blkActive fn (if fn = Config.pf then blkPfxlate else blkXlate) then s
    else
      let k := bits word 9 8 * 256 + bits word 7 0
      match AL.get? s.mm.merges k with
      | some e =>
        if e.posted ∧ e.fn = fn ∧ (Tbl.get s.mm.mergeSeq k).toNat = bits word 17 10 then s.resolveEntry k e (bitOf word 18)
        else s.badResolve fn
      | none => s.badResolve fn)

/-! Invalidations (R143, R144) -/

/-- An invalidation word that is taken: scope 0 or 1, a legal size, and an aligned base. The result is the range, or none for every translation. -/
def invalRange (word : Nat) : Option (Option (Nat × Nat)) :=
  let n := bits word 5 0
  let va := bits word 56 12 * 4096
  if n < 12 ∨ 57 < n ∨ 1 < bits word 7 6 then none
  else if bits word 7 6 = 0 then some none
  else if va % 2 ^ n ≠ 0 then none else some (some (va, 2 ^ n))

/-- A cached translation of a VF that a range covers in part. -/
def TlbEntry.covered (vf : Nat) (r : Option (Nat × Nat)) (e : TlbEntry) : Bool :=
  e.vf == vf && match r with
    | some x => overlap x (e.va, e.size)
    | none => true

/-- An address a range covers. -/
def inRange (r : Option (Nat × Nat)) (a : Nat) : Bool :=
  match r with
  | some x => x.1 ≤ a && a < x.1 + x.2
  | none => true

/-- Matrix entries that hold translations made at their issue (R390). -/
def State.matsUsing (s : State) (vf : Nat) (r : Option (Nat × Nat)) : List Nat :=
  s.eng.matq.flatMap fun e => (e.2.filter fun m => (s.blockOf m.bid).vf == vf && m.elems.any fun x => m.op == 5 && inRange r x.1).map (·.id)

/-- Start an invalidation (R144, R159): the caches are cleared, and the accesses that used a covered translation are noted. For a range of GPAs every access of the VF is; log entry 26. -/
def State.startInval (s : State) (vf : Nat) (stage2 : Bool) (r : Option (Nat × Nat)) : State :=
  let va := if stage2 then none else r
  let nested := if stage2 then r else match r with
    | none => none
    | some _ => some (0, 0)
  s.modM fun m => { m with
    tlb1 := m.tlb1.filter (fun e => !e.covered vf va)
    tlb2 := m.tlb2.filter (fun e => !e.covered vf va)
    tlbN := m.tlbN.filter (fun e => !e.covered vf nested)
    invals := m.invals ++ [⟨vf, stage2,
      (m.reqs.filter fun q => q.vf == vf && (inRange va q.va || q.vas.any fun x => inRange va x.2)).map (·.id), [], s.matsUsing vf va⟩] }

/-- INVAL (R143, R144). -/
def execInval (vf word : Nat) (s : State) : Host.Outcome State Fault Refusal :=
  .next (if !s.blkActive vf blkXlate then s
    else match invalRange word with
      | some r => s.startInval vf false r
      | none => s)

/-- INVAL2 (R143, R144). -/
def execInval2 (vf word : Nat) (s : State) : Host.Outcome State Fault Refusal :=
  .next (if !s.blkActive Config.pf blkPfxlate then s
    else match invalRange word with
      | some r => s.startInval vf true r
      | none => s)

/-- The accesses of an invalidation have been performed at their homes, or dropped. -/
def State.invalDrained (s : State) (i : Inval) : Bool := s.reqsDone i.reqs && s.matsDone i.mats

/-- The VF's oldest invalidation, when it can complete: invalidations of a VF complete in the order written (R144). -/
def State.invalReady (s : State) (vf : Nat) (stage2 : Bool) : Option Inval :=
  match s.mm.invals.find? fun i => i.vf == vf with
  | some i => if i.stage2 = stage2 ∧ s.invalDrained i then some i else none
  | none => none

/-- Take the first element with a property out of a list. -/
def dropFirst {α : Type} (p : α → Bool) : List α → List α
  | [] => []
  | x :: l => if p x then l else x :: dropFirst p l

/-- INVALIDATION_COMPLETE (R144). -/
def execInvalidationComplete (vf stage : Nat) (s : State) : Host.Outcome State Fault Refusal :=
  .next (match s.invalReady vf (stage == 2) with
    | none => s
    | some _ =>
      let s1 := s.modM fun m => { m with invals := dropFirst (fun i => i.vf == vf) m.invals }
      if stage = 2 then s1.setReg Config.pf blkPfxlate (0x10010 + 0x20 * vf) ((s1.reg Config.pf blkPfxlate (0x10010 + 0x20 * vf) + 1) % BitVec.ofNat 64 (2 ^ 32))
      else s1.setReg vf blkXlate 0x10 ((s1.reg vf blkXlate 0x10 + 1) % BitVec.ofNat 64 (2 ^ 32)))

end Sys2Proof.Machine
end

