-- ==== Sys2Proof/Machine/Dcopy.lean ====
section
/-! DEFINITION. The driver copy path (R158, R269, R316). -/

set_option Elab.async false

namespace Sys2Proof.Machine

/-- Bytes of host memory. -/
def State.hostBytes (s : State) (a n : Nat) : List Nat := Tbl.bytes s.host a n

/-- The status register of a function's DCOPY block. -/
def State.dcopyStatus (s : State) (fn code seq : Nat) (busy : Bool) (done : Nat) : State :=
  s.setReg fn blkDcopy 0x20 (BitVec.ofNat 64 (code + seq % 2 ^ 16 * 2 ^ 8 + (if busy then 2 ^ 24 else 0) + done % 2 ^ 24 * 2 ^ 32))

/-- DCOPY_GO (R316): a write with GO set starts a transfer; while one is in progress it is not taken. -/
def execDcopyGo (fn word : Nat) (s : State) : Host.Outcome State Fault Refusal :=
  .next (if !s.blkActive fn blkDcopy then s
    else
      let seq := s.regBits fn blkDcopy 0x20 23 8
      let done := s.regBits fn blkDcopy 0x20 55 32
      if s.regBits fn blkDcopy 0x20 24 24 = 1 then s.dcopyStatus fn 1 seq true done
      else
        let x : DcopyXfer := ⟨fn, s.regBits fn blkDcopy 0 63 6 * 64, s.regBits fn blkDcopy 8 51 6 * 64, s.regBits fn blkDcopy 0x10 51 6 * 64,
          bits word 24 0, bits word 26 25, bits word 30 27, 0, [], none, none⟩
        let s1 := (s.setReg fn blkDcopy 0x18 (BitVec.ofNat 64 (bits word 30 0))).dcopyStatus fn (s.regBits fn blkDcopy 0x20 7 0) seq true done
        { s1 with dcopy := s1.dcopy ++ [x] })

/-- Pages a range touches, by page number. -/
def pageSpan (a len : Nat) : List Nat := (List.range ((a + len - 1) / 4096 + 1 - a / 4096)).map fun i => a / 4096 + i

/-- Translate the pages of a VF's device range (R140, R316): page number and SPA, or the code the transfer ends with. -/
def State.dcopyPages (s : State) (vf : Nat) (write : Bool) : List Nat → AL Nat → Except Nat (AL Nat) × State
  | [], t => (.ok t, s)
  | p :: r, t =>
    let (w, s1) := s.hostT 0 vf (p * 4096)
    match w with
    | .ok spa wr _ _ _ _ => if write && !wr then (.error 3, s1) else s1.dcopyPages vf write r (AL.put t p spa)
    | .invalid .. => (.error 3, s1)
    | .nonres .. => (.error 4, s1)
    | .failed c => (.error (if c = tcUncorr then 6 else 7), s1)

/-- The owner of every frame of a PF range, where all have one owner with ADOPTED = 1 and none lies in the carve-out (R316). -/
def State.dcopyOwner (s : State) (a len : Nat) : Option Nat :=
  let fs := pageSpan a len
  let own := (s.fotOf (a / 4096)).owner
  if fs.all fun f => let e := s.fotOf f
                     spaHere (f * 4096) && e.owner == own && e.adopted && !(s.keys.booted && inCarve f)
  then some own else none

/-- Whether the arguments are sound (R316). -/
def DcopyXfer.bad (x : DcopyXfer) : Bool :=
  x.len % 64 != 0 || x.len == 0 || 2 ^ 24 < x.len || x.dir == 3 || (x.dir == 2 && x.fn != Config.pf)

/-- Where the device ranges of a transfer stand: SPAs by page number of DADDR and of DADDR2, or the code it ends with. One that has begun keeps its pages. -/
def State.dcopyPlaces (s : State) (x : DcopyXfer) : Except Nat (AL Nat × AL Nat) × State :=
  let same (a : Nat) : AL Nat := (pageSpan a x.len).map fun p => (p, p * 4096)
  if x.bad then (.error 2, s)
  else if !x.pages.isEmpty then (.ok (x.pages, []), s)
  else if x.fn = Config.pf then
    let a := s.dcopyOwner x.daddr x.len
    let b := s.dcopyOwner x.daddr2 x.len
    (if x.dir = 2 then (if a.isSome && a == b then .ok (same x.daddr, same x.daddr2) else .error 5)
     else if a = some Config.pfDomain then .ok (same x.daddr, []) else .error 5, s)
  else match s.dcopyPages x.fn (x.dir == 0) (pageSpan x.daddr x.len) [] with
    | (.ok t, s1) => (.ok (t, []), s1)
    | (.error c, s1) => (.error c, s1)

/-- The SPA of a device address, by a transfer's pages. -/
def pageSpa (t : AL Nat) (a : Nat) : Nat := AL.getD t (a / 4096) 0 + a % 4096

/-- A line lies in what a transfer still has to move of a device range that starts at an address. -/
def DcopyXfer.covers (x : DcopyXfer) (t : AL Nat) (base line : Nat) : Bool :=
  t.any fun e => e.2 / 4096 == line / 16 && overlap (base + x.pos, x.len - x.pos) (e.1 * 4096 + line % 16 * 256, 256)

/-- A line is one that a transfer still has to reach, in either of its ranges. -/
def DcopyXfer.reaches (x : DcopyXfer) (p : AL Nat × AL Nat) (line : Nat) : Bool := x.covers p.1 x.daddr line || x.covers p.2 x.daddr2 line

/-- Lines on which something may stand in an engine's way: held versions, requests that wait, and other engines' places. -/
def State.busyLines (s : State) : List Nat :=
  sortNub (s.blocks.flatMap (fun b => b.2.set.lines) ++ (s.mm.reqs.filter fun r => r.stage == 1).map (·.line) ++ s.mm.places.map fun p => p.1)

/-- The domain under which a function's copies reach a page: the owner of its frame. -/
def State.xferDom (s : State) (spa : Nat) : Nat := (s.fotOf (spa / 4096)).owner

/-- Nothing is in the way of a transfer: none of its lines holds versions or an access that came before, no die of its pages switches its mode, and the schedule lets it reach its next line (R161, R171, R184, R296; log entry 30). -/
def State.dcopyFree (s : State) (x : DcopyXfer) : Bool :=
  match s.dcopyPlaces x with
  | (.error _, _) => true
  | (.ok p, _) =>
    let next := pageSpa p.1 (x.daddr + x.pos)
    ((s.busyLines.filter (x.reaches p)).all fun l => s.engFree (.dcopy x.fn) l) &&
    !((p.1 ++ p.2).any fun e => spaHere e.2 && s.switchingDie (homeDie e.2)) && s.tdmAllows x.fn (s.xferDom next) (next / 256)

/-- Write up to a line of bytes as one line transfer, at the function's time (R168, R176); an exhausted page refuses it (R253). -/
def State.dcopyPut (s : State) (fn spa : Nat) (l : List Nat) (tag : Option Nat) : Option State :=
  if s.pageExhausted (spa / 4096) then none
  else
    let dom := s.xferDom spa
    let d := homeDie spa
    let (t, s1) := (s.lineDomain (spa / 256) dom).homeTime (spa / 256) (s.dcopyTime fn d)
    some ((s1.applyLine dom (spa / 256) ((l.zip (List.range l.length)).map fun e => (spa % 256 + e.2, e.1)) tag).dcopyRaise fn d t)

/-- A window's domain (R249). -/
def windowDom (dom : Nat) : Bool := 1024 ≤ dom && dom < 1280

/-- The home's answer to a sector read: its time joins the function's (R176). On a window line no lease is taken (R170, R304). -/
def State.dcopyLease (s : State) (fn spa : Nat) : State :=
  let d := homeDie spa
  if windowDom (s.xferDom spa) then s.dcopyRaise fn d (Tbl.get s.mm.wts (spa / 256))
  else
    let (w, s1) := s.engineLease (spa / 256) (s.dcopyTime fn d) (s.lease fn)
    s1.dcopyRaise fn d w

/-- Read a sector at a device address, or the code it fails with. -/
def State.dcopyGet (s : State) (addr spa fn : Nat) : Except Nat (List Nat) × State :=
  let (c, s1) := (s.lineDomain (spa / 256) (s.xferDom spa)).readCheck spa 64 fn
  match c with
  | some c => (.error (if c = tcUncorr then 6 else 7), if s.newError fn s1 then s1.setReg fn blkErr 8 (BitVec.ofNat 64 addr) else s1)
  | none => (.ok (s1.memBytes spa 64), s1.dcopyLease fn spa)

/-- How far a transfer has come: the code it ends with and the bytes done, or a request to another package for its next piece (R250). -/
structure XferStep where
  code : Nat
  pos : Nat
  far : Option Nat
  deriving DecidableEq, Repr

/-- Ask another package for the next 64 bytes of a VF's transfer, at its own time for that die: to read them, or to write them with the transfer's tag. -/
def State.dcopyFar (s : State) (x : DcopyXfer) (spa i : Nat) : XferStep × State :=
  let data (j : Nat) : Nat := if x.dir = 0 then leNat (s.hostBytes (x.haddr + i + 16 * j) 16) else 0
  (⟨0, i, some s.nextId⟩, s.farReq (.dcopy x.fn) (s.dcopyTime x.fn (farDie (spa / 256))) 0 x.fn x.fn spa ((x.daddr + i) / 256 * 256)
    (if x.dir = 0 then 1 else 0) 16 (if x.dir = 0 then some x.tag else none)
    ((List.range 4).map fun j => (j, spa % 256 + 16 * j, BitVec.ofNat 128 (data j), 0)))

/-- Marks on a frame (R268). -/
def State.marksOn (s : State) (frame : Nat) : Nat := (s.jig.regions.filter fun r => r.frames.contains frame).length

/-- Move a region's mark to another frame; a region that finds no free place is no longer watched (R269). -/
def State.moveMark (s : State) (src dst : Nat) (r : Region) : State :=
  if s.marksOn dst < 8 || r.frames.contains dst then
    { s with jig := { s.jig with regions := s.jig.regions.map fun x => if x = r then { x with frames := sortNub (x.frames.map fun f => if f = src then dst else f) } else x } }
  else s.unwatch r

/-- Move every mark of a frame (R269). -/
def State.moveMarks (s : State) (src dst : Nat) : State :=
  if src = dst then s
  else (s.jig.regions.filter fun r => r.frames.contains src).foldl (fun s r => s.moveMark src dst r) s

/-- Host to device, from offset i on, at most k pieces. -/
def State.dcopyIn (s : State) (x : DcopyXfer) (t : AL Nat) : Nat → Nat → XferStep × State
  | 0, i => (⟨0, i, none⟩, s)
  | k + 1, i =>
    let left := x.len - i
    if left = 0 then (⟨0, i, none⟩, s)
    else
      let spa := pageSpa t (x.daddr + i)
      let n := min left (256 - spa % 256)
      if !spaHere spa then s.dcopyFar x spa i
      else match s.dcopyPut x.fn spa (s.hostBytes (x.haddr + i) n) (some x.tag) with
        | some s1 => s1.dcopyIn x t k (i + n)
        | none => (⟨6, i, none⟩, s)

/-- Device to host, a sector at a time, from offset i on, at most k sectors. -/
def State.dcopyOut (s : State) (x : DcopyXfer) (t : AL Nat) : Nat → Nat → XferStep × State
  | 0, i => (⟨0, i, none⟩, s)
  | k + 1, i =>
    let spa := pageSpa t (x.daddr + i)
    if x.len ≤ i then (⟨0, i, none⟩, s)
    else if !spaHere spa then s.dcopyFar x spa i
    else match s.dcopyGet (x.daddr + i) spa x.fn with
      | (.error c, s1) => (⟨c, i, none⟩, s1)
      | (.ok l, s1) => ({ s1 with host := Tbl.setBytes s1.host (x.haddr + i) l }).dcopyOut x t k (i + 64)

/-- The sectors of a piece of a copy. -/
def State.dcopyGets (s : State) (spa fn : Nat) : Nat → Except Nat (List Nat) × State
  | 0 => (.ok [], s)
  | n + 1 =>
    match s.dcopyGet spa spa fn with
    | (.error c, s1) => (.error c, s1)
    | (.ok l, s1) =>
      match s1.dcopyGets (spa + 64) fn n with
      | (.error c, s2) => (.error c, s2)
      | (.ok m, s2) => (.ok (l ++ m), s2)

/-- Sectors of a run that read well, from the first on. -/
def State.goodRun (s : State) (spa fn : Nat) : Nat → Nat
  | 0 => 0
  | n + 1 => match (s.dcopyGet spa spa fn).1 with
    | .ok _ => s.goodRun (spa + 64) fn n + 1
    | .error _ => 0

/-- Copy allocation tags sector by sector. -/
def State.copyTags (s : State) (src dst n : Nat) : State := (List.range n).foldl (fun s i => s.setTag (dst + 64 * i) (s.tagAt (src + 64 * i))) s

/-- Device to device: pieces inside one destination line, with their tags, and the marks of a frame copied whole (R269). -/
def State.dcopyOver (s : State) (x : DcopyXfer) : Nat → Nat → XferStep × State
  | 0, i => (⟨0, i, none⟩, s)
  | k + 1, i =>
    let left := x.len - i
    if left = 0 then (⟨0, i, none⟩, s)
    else
      let dst := x.daddr2 + i
      let src := x.daddr + i
      let want := min left (256 - dst % 256) / 64
      let n := s.goodRun src x.fn want
      match s.dcopyGets src x.fn n with
      | (.error c, s1) => (⟨c, i, none⟩, s1)
      | (.ok l, s1) =>
        match (if n = 0 then some s1 else s1.dcopyPut x.fn dst l none) with
        | none => (⟨6, i, none⟩, s1)
        | some s2 =>
          let s3 := s2.copyTags src dst n
          let e := dst + 64 * n
          let whole := e % 4096 = 0 ∧ (src + 64 * n) % 4096 = 0 ∧ 4096 ≤ i + 64 * n
          let s4 := if whole then s3.moveMarks ((src + 64 * n) / 4096 - 1) (e / 4096 - 1) else s3
          if n < want then
            match s4.dcopyGet (src + 64 * n) (src + 64 * n) x.fn with
            | (.error c, s5) => (⟨c, i + 64 * n, none⟩, s5)
            | (.ok _, s5) => (⟨0, i + 64 * n, none⟩, s5)
          else s4.dcopyOver x k (i + 64 * n)

/-- The next transfer of a function, when nothing is in its way and no other package still has to answer. -/
def State.dcopyNext (s : State) (fn : Nat) : Option DcopyXfer :=
  match s.dcopy.find? fun x => x.fn == fn with
  | some x => if x.far.isNone && (x.stop.isSome || s.dcopyFree x) then some x else none
  | none => none

/-- A function's first transfer ends with a code, after a number of bytes (R316). -/
def State.dcopyEnd (s : State) (fn code done : Nat) : State :=
  ({ s with dcopy := dropFirst (fun y => y.fn == fn) s.dcopy }).dcopyStatus fn code (s.regBits fn blkDcopy 0x20 23 8 + 1) false (if code = 0 then 0 else done)

/-- A transfer moves what it can: all that is left, or all up to a piece on another package, which it asks for. -/
def State.dcopyMove (s : State) (x : DcopyXfer) (t : AL Nat) : XferStep × State :=
  match x.dir with
  | 0 => s.dcopyIn x t (x.len / 64) x.pos
  | 1 => s.dcopyOut x t (x.len / 64) x.pos
  | _ => s.dcopyOver x (x.len / 64) x.pos

/-- DCOPY_DONE (R316): the function's transfer is performed, and CODE, SEQ and DONE tell how it ended. One that meets another package's memory goes on when that has answered (R250), and one that is refused there ends with its code (log entry 39). -/
def execDcopyDone (fn : Nat) (s : State) : Host.Outcome State Fault Refusal :=
  .next (match s.dcopyNext fn with
    | none => s
    | some x =>
      match x.stop with
      | some c => s.dcopyEnd fn c x.pos
      | none =>
        match s.dcopyPlaces x with
        | (.error c, s1) => s1.dcopyEnd fn c 0
        | (.ok (t, _), s1) =>
          match s1.dcopyMove x t with
          | (⟨_, i, some id⟩, s2) => { s2 with dcopy := updFirst (fun y => y.fn == fn) (fun y => { y with pos := i, pages := t, far := some id }) s2.dcopy }
          | (⟨c, i, none⟩, s2) => s2.dcopyEnd fn c i)

end Sys2Proof.Machine
end

