-- ==== Sys2Proof/Machine/Debug.lean ====
section
/-! DEFINITION. The debug commands and the stop records (R289 to R291). -/

set_option Elab.async false

namespace Sys2Proof.Machine

/-- The block a debug command names, where debugging is enabled: no check run (R290, R291). -/
def State.debugTarget (s : State) (vf word : Nat) : Option Nat :=
  if s.blkActive vf blkDebug && s.den vf then
    (s.blocks.find? fun e => !e.2.isCheck && e.2.vf == vf && e.2.task == bits word 23 4 && e.2.lin == bits word 63 32).map (·.1)
  else none

/-- The warps a debug command names in a block: WARP, or every warp with ALLW. -/
def State.debugWarps (s : State) (bid word : Nat) : List Nat :=
  (s.liveWarps bid).filter fun k => bitOf word 30 || k % 32 == bits word 28 24

/-- DEBUG_STOP (R290): the target warps go to Stopped, each with a record of WHY 3. -/
def execDebugStop (vf word : Nat) (s : State) : Host.Outcome State Fault Refusal :=
  .next (match s.debugTarget vf word with
    | none => s
    | some bid =>
      if !(s.blockOf bid).onCore then s
      else ((s.debugWarps bid word).filter fun k => (s.warpOf k).saved.isNone).foldl (fun s k => s.debugStopAt k false 0 3) s)

/-- A stopped warp goes on. -/
def Warp.debugGo (w : Warp) (now : Nat) : Warp :=
  if w.dbg then { w with
    dbg := false
    stepping := none
    pathA := { w.pathA with since := now }
    pathB := { w.pathB with since := now } }
  else w

/-- DEBUG_RESUME (R290): the target warps are released, and a block that SAVE holds is requeued. -/
def execDebugResume (vf word : Nat) (s : State) : Host.Outcome State Fault Refusal :=
  .next (match s.debugTarget vf word with
    | none => s
    | some bid =>
      ((s.debugWarps bid word).foldl (fun (s : State) k => s.updWarp k fun w => w.debugGo s.now) s).updBlock bid fun b => { b with debugHold := false })

/-- DEBUG_STEP (R290): the chosen path of the stopped warps may issue one instruction. -/
def execDebugStep (vf word : Nat) (s : State) : Host.Outcome State Fault Refusal :=
  .next (match s.debugTarget vf word with
    | none => s
    | some bid =>
      let pathB := bitOf word 29
      (s.debugWarps bid word).foldl (fun (s : State) k => s.updWarp k fun w =>
        if w.dbg && w.stepping.isNone && (w.path pathB).st != .ended then
          { w.setPath pathB { w.path pathB with since := s.now } with stepping := some pathB }
        else w) s)

/-- DEBUG_SAVE (R290, R291): the block is pre-empted with full saves and held unplaced; a mortise run becomes unlogged. -/
def execDebugSave (vf word : Nat) (s : State) : Host.Outcome State Fault Refusal :=
  .next (match s.debugTarget vf word with
    | none => s
    | some bid =>
      let b := s.blockOf bid
      if b.st == .held || b.st == .voting then s
      else
        let s1 := if b.kind = .mortise then s.unverify bid 0x3E8 else s
        let s2 := (s1.preempt true bid).updBlock bid fun b => { b with debugHold := true, pre := b.pre.map fun x => (x.1, true) }
        if b.st == .saving then s2.stopWarps bid else s2)

/-- DEBUG_STOP_RECORD_POP (R289): a read of the record register takes the oldest record. -/
def execDebugStopRecordPop (vf : Nat) (s : State) : Host.Outcome State Fault Refusal :=
  .next (if !s.blkActive vf blkDebug then s
    else match (AL.get? s.stops vf).getD [] with
      | [] => s
      | [_] => { s with stops := AL.del s.stops vf }
      | _ :: l => { s with stops := AL.put s.stops vf l })

end Sys2Proof.Machine
end

