-- ==== Sys2Proof/Machine/Fabric.lean ====
section
/-! DEFINITION. The scale-up fabric: table commits, holds, flits and refusals, link loss, wavelengths, and order-point tickets (R166, R180, R250, R305 to R313). -/

set_option Elab.async false

namespace Sys2Proof.Machine

/-! Flits (R306, R309, R311) -/

/-- A refusal back to the source of a request. -/
def State.refuseFlit (s : State) (f : Flit) (cause : Nat) : State :=
  s.sendOut ⟨s.pkgid, f.src, 0, if adaptiveFlit f then 3 else 1, f.addr, [], 0, f.reqId, cause, none⟩

/-- Route a flit by a table, or refuse it where the entry is not valid; a response with no route is dropped and counted (R306, R309). -/
def State.routeFlit (s : State) (table : Nat) (f : Flit) : State :=
  if !s.routed table f.dest then
    let s1 := s.countRefused table 7
    if requestFlit f then s1.refuseFlit f 7 else s1
  else
    let (port, f1, s1) := s.outPort (s.route table f.dest) f
    s1.putFlit table port f1

/-- A partition key is in a port's active key table (R307, R309). -/
def State.portKey (s : State) (port key : Nat) : Bool :=
  key != 0 && (List.range 64).any fun i => (Tbl.get s.fab.active (port * 2 ^ 16 + 0x8000 + i)).toNat == key

/-- A refusal of an access of this package (R309): a line request, or a ticket request. -/
def State.refused (s : State) (id cause : Nat) : State :=
  match s.mm.reqs.find? fun r => r.id == id && r.stage == 4 with
  | some r => s.reqRefused r cause
  | none => s.ticketRefused id cause

/-- FABRIC_REFUSAL_RETURN (R309). -/
def execFabricRefusalReturn (id cause : Nat) (s : State) : Host.Outcome State Fault Refusal := .next (s.refused id cause)

/-- The values that an answer brings: a load's from its line, with the block's own versions over it, and an atomic's old values lane by lane. -/
def State.farValues (s : State) (r : LineReq) (bytes : List Nat) : AL Rec :=
  match r.kind with
  | 0 => r.lanes.map fun l => (l.1, BitVec.ofNat 128 (leNat ((List.range r.width).map fun i =>
      match AL.get? (s.blockOf r.bid).set.bytes (r.line * 256 + l.2.1 + i) with
      | some b => b.toNat
      | none => bytes.getD (l.2.1 + i) 0)))
  | 1 => r.got
  | _ => (r.lanes.zip (List.range r.lanes.length)).map fun (l, i) => (l.1, BitVec.ofNat 128 (leNat ((bytes.drop (i * r.width)).take r.width)))

/-- The answer to a request of this package: its values, and its time (R173, R176). -/
def State.remoteAnswer (s : State) (f : Flit) : State :=
  s.modM fun m => { m with reqs := m.reqs.map fun r =>
    if r.id = f.reqId ∧ r.stage = 4 then { r with stage := 2, got := s.farValues r f.bytes, wts := BitVec.ofNat 40 f.pts, sectors := 0 } else r }

/-- The bytes that a store of another package writes in the line it names. -/
def flitStored (f : Flit) : List (Nat × Nat) :=
  match f.acc with
  | some a => lineBytes a.width (a.lanes.map fun l => (l.1, (l.2.2.1, 0))) (a.lanes.map fun l => (l.1, l.2.1))
  | none => (f.bytes.zip (List.range f.bytes.length)).map fun b => (f.addr % 256 + b.2, b.1)

/-- What a request asks for: 0 load, 1 store, 2 atomic. -/
def flitKind (f : Flit) : Nat :=
  match f.acc with
  | some a => a.kind
  | none => if f.bytes.isEmpty then 0 else 1

/-- The tag that a store of another package sets. -/
def flitTag (f : Flit) : Option Nat := f.acc.bind (·.tag)

/-- GSC reaches the time of an access of another package (R180). -/
def State.raiseGsc (s : State) (t : BitVec 40) : State := { s with gsc := if s.gsc.toNat < t.toNat then t else s.gsc }

/-- An atomic of another package at its home here (R173): old values, one after another. -/
def State.farAtomic (s : State) (dom line : Nat) (a : FlitAcc) (pts : Nat) : List Nat × BitVec 40 × State :=
  let base := line * 256
  let lanes : List (Nat × Nat × Rec × Rec) := a.lanes.map fun l => (l.1, l.2.1, BitVec.ofNat 128 l.2.2.1, BitVec.ofNat 128 l.2.2.2)
  let touched := sortNub (lanes.flatMap fun l => (List.range a.width).map fun i => l.2.1 + i)
  let (olds, after) := atomLanes a.op a.et a.width (touched.map fun o => (o, (s.memByte (base + o)).toNat)) lanes
  let bs := (atomWritten a.op a.width lanes olds).map fun o => (o, AL.getD after o 0)
  let (t, s1) := s.homeTime line (BitVec.ofNat 40 pts)
  (olds.flatMap fun o => leBytes a.width o.2.toNat, t, s1.applyLine dom line bs none)

/-- The bytes of a line that a request of another package consumes: those of its lanes, or the whole line. -/
def flitReads (f : Flit) : List (Nat × Nat) :=
  match f.acc with
  | some a => a.lanes.map fun l => (l.2.1, a.width)
  | none => [(0, 256)]

/-- Read-check what a request of another package consumes (R254, R255): the trap code of the first failing part. -/
def State.flitCheck (s : State) (f : Flit) : Option Nat × State :=
  (flitReads f).foldl (fun (acc : Option Nat × State) l =>
    match acc.1 with
    | some _ => acc
    | none => acc.2.readCheck (f.addr / 256 * 256 + l.1) l.2 Config.vfs) (none, s)

/-- An answer to a request of another package: bytes and time, or, where its sectors fail, the trap code of the check, which its warp takes (R254, R255; log entry 39). -/
def State.answerFlit (s : State) (f : Flit) (bytes : List Nat) (t code : Nat) : State :=
  s.sendOut ⟨s.pkgid, f.src, 0, if adaptiveFlit f then 3 else 1, f.addr, bytes, t, f.reqId, code, none⟩

/-- A window access of another package is performed at its home here (R170, R173, R180): no lease is taken. -/
def State.serveRemote (s : State) (f : Flit) : State :=
  let dom := (s.fotOf (f.addr / 4096)).owner
  let line := f.addr / 256
  let s0 := s.lineDomain line dom
  if flitKind f = 1 then
    let (t, s1) := s0.homeTime line (BitVec.ofNat 40 f.pts)
    ((s1.applyLine dom line (flitStored f) (flitTag f)).raiseGsc t).answerFlit f [] t.toNat 0
  else match s0.flitCheck f, (if flitKind f = 2 then f.acc else none) with
    | (some c, s1), _ => s1.answerFlit f [] 0 c
    | (none, s1), some a =>
      let (olds, t, s2) := s1.farAtomic dom line a f.pts
      (s2.raiseGsc t).answerFlit f olds t.toNat 0
    | (none, s1), none => s1.answerFlit f (s1.memBytes (line * 256) 256) (Tbl.get s1.mm.wts line).toNat 0

/-- The engine that a request of another package is at its home (R161). -/
def flitRef (f : Flit) : EngRef := .flit f.src f.reqId

/-- A request of another package reaches its home: its frame belongs to a window domain, or it is refused (R250). R485 leaves open how the home resolves SPA[37:0] against its window mappings: the model takes the 38 bits as its own SPA (DESIGN CHOICE, log entry 95). It waits for held versions, for what came to the line before it, and for a switch of the die's mode (R161, R171, R184). -/
def State.takeRemote (s : State) (port : Nat) (f : Flit) : State :=
  let e := s.fotOf (f.addr / 4096)
  if !(spaHere f.addr && e.adopted && windowDom e.owner) then (s.countRefused port 6).refuseFlit f 6
  else if s.engFree (flitRef f) (f.addr / 256) then s.serveRemote f
  else { s with fab := { s.fab with inbox := s.fab.inbox ++ [(port, f)] } }.notePlace (flitRef f, f.addr / 256)

/-- Requests of other packages that can be performed now. -/
def State.inboxFree (s : State) : List (Nat × Flit) := s.fab.inbox.filter fun e => s.engFree (flitRef e.2) (e.2.addr / 256)

/-- A request of another package that waited is performed. -/
def State.serveInbox (s : State) (e : Nat × Flit) : State :=
  if s.inboxFree.contains e then ({ s with fab := { s.fab with inbox := s.fab.inbox.erase e } }).takeRemote e.1 e.2 else s

/-- A flit for this package (R306). -/
def State.deliver (s : State) (port : Nat) (f : Flit) : State :=
  let s1 := { s with fab := { s.fab with delivered := s.fab.delivered ++ [f] } }
  match f.chan with
  | 0 | 2 => s1.takeRemote port f
  | 1 | 3 => if f.refused = 0 then s1.remoteAnswer f else { s1 with agenda := s1.agenda ++ [.fabricRefusalReturn f.reqId f.refused] }
  | 4 => { s1 with agenda := s1.agenda ++ [.scTicketRequest f.src f.reqId] }
  | 5 => { s1 with fab := { s1.fab with granted := s1.fab.granted ++ [f.reqId] } }
  | _ => { s1 with agenda := s1.agenda ++ [.neighbourNotice port f.src] }

/-- FLIT_ARRIVE (R306, R309, R311): the key check of a request, then local delivery or the port's route. A NEIGHBOUR message is for the package that it reaches. -/
def execFlitArrive (port : Nat) (flit : Flit) (s : State) : Host.Outcome State Fault Refusal :=
  .next (if 16 ≤ port || !s.portUp port || !s.pv then s
    else if requestFlit flit && !s.portKey port flit.key then (s.countRefused port 6).refuseFlit flit 6
    else if flit.dest = s.pkgid || flit.chan = 6 then s.deliver port flit
    else s.routeFlit port flit)

/-! Commits (R307) -/

/-- FABRIC_COMMIT (R307): GO starts the commit of the table and kind it names, unless one is in progress. -/
def execFabricCommit (word : Nat) (s : State) : Host.Outcome State Fault Refusal :=
  .next (if !s.blkActive Config.pf blkFabric then s
    else
      let s1 := s.setRegBits Config.pf blkFabric 0x18 5 0 (bits word 5 0)
      if s.fab.commit.isSome then s1
      else
        let s2 := s1.setRegBits Config.pf blkFabric 0x18 7 7 1
        { s2 with fab := { s2.fab with commit := some (bits word 4 0, bitOf word 5, s.now) } })

/-- The shadow words of a range of a table, by their place in the active copy. -/
def State.shadow (s : State) (table lo hi step : Nat) : List (Nat × BitVec 32) :=
  let base := regKey Config.pf blkFabric (fabOff table)
  (s.regs.filter fun e => base + lo ≤ e.1 && e.1 < base + hi && (e.1 - base - lo) % step == 0).map fun e =>
    (table * 2 ^ 16 + lo + (e.1 - base - lo) / step, BitVec.ofNat 32 e.2.toNat)

/-- Send a flit again by a table over the routes now active: on its port, held there since a clock where that is not up, or refused (R309, R311). -/
def State.reroute (s : State) (id table : Nat) (f : Flit) (t0 : Nat) : State :=
  if !s.routed table f.dest then
    let s1 := s.countRefused table 7
    if requestFlit f then (if f.src = s.pkgid then s1.refused f.reqId 7 else s1.refuseFlit f 7) else s1
  else
    let (port, f1, s1) := s.outPort (s.route table f.dest) f
    if s1.portUp port then { s1 with fab := { s1.fab with sent := s1.fab.sent ++ [(table * 16 + port, f1)] } }
    else { s1 with fab := { s1.fab with heldFlits := s1.fab.heldFlits ++ [(id, table * 16 + port, f1, t0)] } }

/-- Send the flits that stood held again: over the routes now active, where their port is up (R311). -/
def State.resend (s : State) : State :=
  s.fab.heldFlits.foldl (fun (s : State) h => s.reroute h.1 (h.2.1 / 16) h.2.2.1 h.2.2.2) { s with fab := { s.fab with heldFlits := [] } }

/-- A commit has been in progress for 1,024 clocks, in which it completes (R307). -/
def State.commitOver (s : State) : List Nat :=
  match s.fab.commit with
  | some (t, _, t0) => if t0 + 1024 ≤ s.now then [t] else []
  | none => []

/-- FABRIC_COMMIT_DONE (R307): the shadow becomes active in one step, and flits that waited for a route go on. -/
def execFabricCommitDone (table : Nat) (s : State) : Host.Outcome State Fault Refusal :=
  .next (match s.fab.commit with
    | none => s
    | some (t, keys, _) =>
      if t ≠ table then s
      else
        let s1 := { (s.setRegBits Config.pf blkFabric 0x18 7 7 0) with fab := { s.fab with commit := none } }
        if 16 < t ∨ (keys ∧ t = 16) then s1
        else
          let lo := t * 2 ^ 16 + if keys then 0x8000 else 0
          let n := if keys then 64 else 8192
          let new := if keys then s.shadow t 0x8000 0x8080 2 else s.shadow t 0 0x8000 4
          let kept := s.fab.active.filter fun e => !(lo ≤ e.1 && e.1 < lo + n)
          ({ s1 with fab := { s1.fab with active := new.foldl (fun (a : Tbl 32) (e : Nat × BitVec 32) => Tbl.set a e.1 e.2) kept } }).resend)

/-! Holds (R308) -/

/-- One word of HOLD; a package whose bit is clear is not HELD. -/
def State.holdWord (s : State) (i x : Nat) : State :=
  let held := (s.reg Config.pf blkFabric (fabOff 16 + 0x9400 + 8 * i)).toNat
  (s.setReg Config.pf blkFabric (fabOff 16 + 0x9000 + 8 * i) (BitVec.ofNat 64 x)).setReg
    Config.pf blkFabric (fabOff 16 + 0x9400 + 8 * i) (BitVec.ofNat 64 (held &&& x))

/-- FABRIC_HOLD_WRITE (R308): bit x of the mask holds new class-0 accesses to package x. -/
def execFabricHoldWrite (mask : Nat) (s : State) : Host.Outcome State Fault Refusal :=
  .next (if !s.blkActive Config.pf blkFabric then s
    else (List.range 128).foldl (fun (s : State) i => s.holdWord i (mask / 2 ^ (64 * i) % 2 ^ 64)) s)

/-- Package x is held, and every access sent to it on class 0 has been acknowledged. -/
def State.heldReady (s : State) (x : Nat) : Bool :=
  s.holdBit x && !s.regBits Config.pf blkFabric (fabOff 16 + 0x9400 + x / 64 * 8) (x % 64) (x % 64) == 1 &&
  !(s.mm.reqs.any fun r => spaRemote (r.line * 256) && linePkg r.line == x && r.stage == 4 && !r.adaptive)

/-- FABRIC_HELD (R308). -/
def execFabricHeld (pkg : Nat) (s : State) : Host.Outcome State Fault Refusal :=
  .next (if s.heldReady pkg then s.setRegBits Config.pf blkFabric (fabOff 16 + 0x9400 + pkg / 64 * 8) (pkg % 64) (pkg % 64) 1 else s)

/-! Links and wavelengths (R311 to R313) -/

/-- A field of a port's status register. -/
def State.portBits (s : State) (port hi lo : Nat) : Nat := s.regBits Config.pf blkFabric (fabOff port + 0x8100) hi lo
def State.setPortBits (s : State) (port hi lo v : Nat) : State := s.setRegBits Config.pf blkFabric (fabOff port + 0x8100) hi lo v

/-- LINKUP (R313): the port is up on all its fibres, and flits that waited for it go on. -/
def execLinkup (port : Nat) (s : State) : Host.Outcome State Fault Refusal :=
  .next (if 16 ≤ port || s.portUp port then s
    else (((s.setPortBits port 1 0 2).setPortBits port 23 16 255).notice 2 port s.pkgid 0 0 0 0).resend)

/-- A flit put on a link may not have reached its other end: it is no request of this package that has been answered since. A NEIGHBOUR message is for that end alone and has no route. -/
def State.unanswered (s : State) (f : Flit) : Bool :=
  f.chan != 6 && (f.src != s.pkgid || !requestFlit f || (s.mm.reqs.any fun r => r.id == f.reqId && r.stage == 4) || (s.ticketSlow f.reqId).isSome)

/-- The flits of a port that its link had not acknowledged are replayed over the committed routes (R311). Which those are is open (log entry 1). -/
def State.replayPort (s : State) (port : Nat) : State :=
  (s.fab.sent.filter fun e => e.1 % 16 == port).foldl (fun (s : State) e =>
    let (i, s1) := s.choose 2
    if i = 1 && s1.unanswered e.2 then
      ({ s1 with fab := { s1.fab with sent := s1.fab.sent.erase e, nextFlit := s1.fab.nextFlit + 1 } }).reroute s1.fab.nextFlit (e.1 / 16) e.2 s1.now
    else s1) s

/-- FIBRE_LOSS (R311): the other fibres carry the flits; with the last fibre the port goes down, and what its link had not acknowledged is replayed. -/
def execFibreLoss (port fibre : Nat) (s : State) : Host.Outcome State Fault Refusal :=
  .next (if 16 ≤ port || 8 ≤ fibre || !bitOf (s.portBits port 23 16) fibre then s
    else
      let left := s.portBits port 23 16 - 2 ^ fibre
      let s1 := s.setPortBits port 23 16 left
      if left ≠ 0 then s1
      else
        let s2 := s1.setPortBits port 1 0 0
        ({ s2 with fab := { s2.fab with lost := s2.fab.lost ++ [(port, fibre)] } }).replayPort port)

/-- LINKDOWN_NOTICE (R311, R313): the notice, and the message to the packages next to this one. -/
def execLinkdownNotice (port : Nat) (s : State) : Host.Outcome State Fault Refusal :=
  .next (match s.fab.lost.find? fun e => e.1 == port with
    | none => s
    | some e =>
      let s1 := { s with fab := { s.fab with
        lost := dropFirst (fun x => x == e) s.fab.lost
        sent := s.fab.sent ++ ((List.range 16).filter s.portUp).map fun k => (256 + k, (⟨s.pkgid, 0, 0, 6, 0, [], 0, 0, 0, none⟩ : Flit)) } }
      s1.notice 1 port s.pkgid 0 0 0 (e.2 + s.portBits port 9 2 * 2 ^ 10))

/-- NEIGHBOUR_NOTICE (R311, R313). -/
def execNeighbourNotice (port pkg : Nat) (s : State) : Host.Outcome State Fault Refusal := .next (s.notice 3 port pkg 0 0 0 0)

/-- A held flit's time is over (R311). -/
def State.holdOver (s : State) (h : Nat × Nat × Flit × Nat) : Bool := h.2.2.2 + s.linkto < s.now

/-- LINKHOLD_TIMEOUT (R311): the flit is dropped, and its access traps ACCESS with CAUSE 8. -/
def execLinkHoldTimeout (id : Nat) (s : State) : Host.Outcome State Fault Refusal :=
  .next (match s.fab.heldFlits.find? fun h => h.1 == id with
    | none => s
    | some h =>
      if !s.holdOver h then s
      else
        let s1 := { s with fab := { s.fab with heldFlits := s.fab.heldFlits.filter fun x => x.1 != id } }
        let f := h.2.2.1
        if requestFlit f then (if f.src = s.pkgid then s1.refused f.reqId 8 else s1.refuseFlit f 8) else s1)

/-- WAVELENGTH_BER_CROSSED (R312): the wavelength is retrained while a spare carries its traffic. `wave` is fibre × 128 + wavelength. -/
def execWavelengthBerCrossed (port wave : Nat) (s : State) : Host.Outcome State Fault Refusal :=
  .next (if 16 ≤ port || AL.has s.fab.waves (port * 1024 + wave) then s
    else { s with fab := { s.fab with waves := AL.put s.fab.waves (port * 1024 + wave) 1 } })

/-- WAVELENGTH_RETRAIN_DONE (R312): a failed wavelength is retired, a spare takes its place for good, and a SPARE notice tells. -/
def execWavelengthRetrainDone (port wave : Nat) (ok : Bool) (s : State) : Host.Outcome State Fault Refusal :=
  .next (if AL.getD s.fab.waves (port * 1024 + wave) 0 ≠ 1 then s
    else if ok then { s with fab := { s.fab with waves := AL.del s.fab.waves (port * 1024 + wave) } }
    else
      let gone := (s.fab.waves.filter fun e => e.1 / 128 == port * 8 + wave / 128 && e.2 == 2).length
      let left := if gone < 4 then s.portBits port 9 2 - 1 else s.portBits port 9 2
      let s1 := { s with fab := { s.fab with waves := AL.put s.fab.waves (port * 1024 + wave) 2 } }
      (s1.setPortBits port 9 2 left).notice 4 port s.pkgid 0 0 0 (wave / 128 % 8 + wave % 128 * 8 + left * 2 ^ 10))

/-! Tickets (R166, R180, R310) -/

/-- SC_TICKET_REQUEST (R310): the order point takes requests in arrival order. -/
def execScTicketRequest (pkg id : Nat) (s : State) : Host.Outcome State Fault Refusal :=
  .next (if s.ordpt = s.pkgid then { s with fab := { s.fab with tickets := s.fab.tickets ++ [(pkg, id)] } } else s)

/-- The first granted ticket whose fence can join now, or is gone. -/
def State.grantReady (s : State) : Option Nat :=
  s.fab.granted.find? fun id => match s.ticketSlow id with
    | some (k, _) => (s.blockOf (s.warpOf k).bid).onCore
    | none => true

/-- SC_TICKET_GRANT (R180, R310): a granted fence performs its join and is complete; else the order point grants its oldest request. -/
def execScTicketGrant (s : State) : Host.Outcome State Fault Refusal :=
  .next (match s.grantReady with
    | some id =>
      let s1 := { s with fab := { s.fab with granted := s.fab.granted.erase id } }
      match s.ticketSlow id with
      | some (k, x) => (s1.scJoin k).updWarp k fun w => w.endSlow x.id
      | none => s1
    | none =>
      match s.fab.tickets with
      | [] => s
      | (pkg, id) :: r =>
        let s1 := { s with fab := { s.fab with tickets := r } }
        if pkg = s.pkgid then { s1 with fab := { s1.fab with granted := s1.fab.granted ++ [id] } }
        else s1.sendOut ⟨s.pkgid, pkg, 0, 5, 0, [], 0, id, 0, none⟩)

end Sys2Proof.Machine
end

