-- ==== Sys2Proof/Machine/Partitions.lean ====
section
/-! DEFINITION. The PF's control of partitions: clusters, time slots, quotas, slice-hash seeds, way masks, leases, jig quotas, and stall counters (R40, R178, R221, R274, R275, R295, R296, R299, R300, R302, R303). -/

set_option Elab.async false

namespace Sys2Proof.Machine

/-- The PART block answers, and the partition exists. -/
def State.partOk (s : State) (p : Nat) : Bool := s.blkActive Config.pf blkPart && p < Config.partitions

/-- The written CLUSTERS of a partition (R295). -/
def State.clustersReg (s : State) (p : Nat) : Nat := s.regBits Config.pf blkPart (partOff p + 8) 31 0

/-- Clusters that a partition holds: in force, or written for the next boundary. -/
def State.clustersHeld (s : State) (p : Nat) : Nat := s.clustersOf p ||| s.clustersReg p

/-- CLUSTERS_WRITE (R295): ignored when it names a cluster that another partition holds. -/
def execClustersWrite (part val : Nat) (s : State) : Host.Outcome State Fault Refusal :=
  .next (if !s.partOk part then s
    else if (List.range Config.partitions).any fun q => q != part && (s.clustersHeld q &&& val % 2 ^ 32) != 0 then s
    else s.setReg Config.pf blkPart (partOff part + 8) (BitVec.ofNat 64 (val % 2 ^ 32)))

/-- The slot owners written (R295). -/
def State.tdmWritten (s : State) : AL Nat :=
  ((List.range 64).filter fun i => s.regBits Config.pf blkPart i 7 7 == 1).map fun i => (i, s.regBits Config.pf blkPart i 4 0)

/-- TDM_SCHEDULE_BOUNDARY (R295, R296): slot owners and cluster sets take effect, and blocks on clusters that were removed are pre-empted in this clock, after its issue slots (R37). -/
def execTdmScheduleBoundary (s : State) : Host.Outcome State Fault Refusal :=
  .next (if s.now % 2048 ≠ 0 then s
    else
      let cl := ((List.range Config.partitions).map fun p => (p, s.clustersReg p)).filter fun e => e.2 != 0
      let s1 := { s with tdm := s.tdmWritten, clustersNow := cl }
      (s1.signalPreempt fun _ b => match s1.partOf b.vf with
        | some p => bitOf (s.clustersOf p) (clusterOf b.core) && !bitOf (s1.clustersOf p) (clusterOf b.core)
        | none => false).placeBlocked)

/-- QUOTA_WRITE (R40): ignored when the sum over all VFs would pass 65,536. -/
def execQuotaWrite (vf val : Nat) (s : State) : Host.Outcome State Fault Refusal :=
  .next (if !s.blkActive Config.pf blkPart || Config.vfs ≤ vf then s
    else
      let v := val % 2 ^ 16
      if sumNat ((List.range Config.vfs).map fun f => if f = vf then v else s.quota f) ≤ Config.htsTasks then
        s.setReg Config.pf blkPart (0x4000 + 4 * vf) (BitVec.ofNat 64 v)
      else s)

/-! Slice-hash seeds (R299, R300) -/

/-- HSEED_WRITE (R300). -/
def execHseedWrite (part val : Nat) (s : State) : Host.Outcome State Fault Refusal :=
  .next (if !s.partOk part then s
    else if s.partEn part || s.blocks.any (fun e => s.partOf e.2.vf == some part) then s.setRegBits Config.pf blkPart (partOff part) 3 3 1
    else (s.setRegBits Config.pf blkPart (partOff part) 2 2 1).setReg Config.pf blkPart (partOff part + 0x10) (BitVec.ofNat 64 val))

/-- A seed change of a partition is in progress. -/
def State.seedBusy (s : State) (p : Nat) : Bool := s.regBits Config.pf blkPart (partOff p) 2 2 == 1

/-- A domain of a partition's VFs. -/
def State.domOfPart (s : State) (p dom : Nat) : Bool := dom < Config.vfs && s.partOf dom == some p

/-- SEED_FLUSH_DONE (R300): the partition's lines are written back and invalidated, and then SEEDBUSY clears. -/
def execSeedFlushDone (part : Nat) (s : State) : Host.Outcome State Fault Refusal :=
  .next (if !s.seedBusy part then s
    else (s.flushDomains (s.domOfPart part)).setRegBits Config.pf blkPart (partOff part) 2 2 0)

/-- PSEED_WRITE (R300): taken while every partition is out of service, with the flush of the PF, window and management domains. -/
def execPseedWrite (val : Nat) (s : State) : Host.Outcome State Fault Refusal :=
  .next (if !s.blkActive Config.pf blkPart || (List.range Config.partitions).any s.partEn then s
    else (s.flushDomains fun d => Config.vfs ≤ d).setReg Config.pf blkPart 0x40 (BitVec.ofNat 64 val))

/-! Way masks (R302, R303) -/

/-- Another partition's mask in a slice overlaps a mask, and one of the two is STRICT. -/
def State.strictOverlap (s : State) (p k mask : Nat) : Bool :=
  (List.range Config.partitions).any fun q => q != p && (s.ways q k &&& mask) != 0 && (s.partStrict q || s.partStrict p)

/-- WAYS_WRITE (R302, R303): ignored on a forbidden overlap, or when pinned tiles need the ways; ways that leave are swept. -/
def execWaysWrite (part k mask : Nat) (s : State) : Host.Outcome State Fault Refusal :=
  .next (
    let m := mask % 2 ^ 16
    if !s.partOk part || 192 ≤ k || s.strictOverlap part k m || popc 16 m < 2 * waysFor (s.pinned part k) then s
    else
      let old := s.ways part k
      let s1 := s.setReg Config.pf blkPart (partOff part + 0x400 + 2 * k) (BitVec.ofNat 64 m)
      let s2 := if (old &&& (2 ^ 16 - 1 - m)) = 0 then s1 else { s1 with sweeps := s1.sweeps ++ [(part, k)] }
      ((s2.blocks.filter fun e => e.2.holds && s2.partOf e.2.vf == some part).map (·.1)).foldl (fun s b => s.spillCheck b) s2)

/-- Lines of a partition that a slice caches. -/
def State.sliceLines (s : State) (p k : Nat) : List Nat :=
  (AL.keys s.mm.l2dom).filter fun l =>
    let d := (s.fotOf (l / 16)).owner
    s.domOfPart p d && s.homeSlice d (l * 256) == k

/-- The lines of a partition that a slice caches in ways that have left its mask. -/
def State.leftLines (s : State) (p k : Nat) : List Nat :=
  (s.sliceLines p k).filter fun l => match AL.get? s.mm.l2way l with
    | some w => !bitOf (s.ways p k) w
    | none => false

/-- WAY_SWEEP_DONE (R303): the partition's lines in the ways that left are written back and invalidated, and the sweep ends with its notice. -/
def execWaySweepDone (part k : Nat) (s : State) : Host.Outcome State Fault Refusal :=
  .next (if !s.sweeps.contains (part, k) then s
    else
      let s1 := (s.leftLines part k).foldl (fun s l => (s.writeBackLine l).leaveL2 l) s
      ({ s1 with sweeps := s1.sweeps.erase (part, k) }).notice 6 0 s.pkgid part 0 0 k)

/-! Leases, jig quotas, stall counters -/

/-- LEASE_WRITE (R178): a write of 0 is ignored. -/
def execLeaseWrite (part val : Nat) (s : State) : Host.Outcome State Fault Refusal :=
  .next (if !s.partOk part || val % 256 = 0 then s
    else s.setReg Config.pf blkPart (partOff part + 0x1000) (BitVec.ofNat 64 (val % 256)))

/-- A write of a partition's JQUOTA and EN (R275): ignored whole when the sum of the quotas would pass 32,768; a lower quota evicts at once. -/
def State.jquotaWrite (s : State) (part val : Nat) : State :=
  let v := val % 2 ^ 16
  if sumNat ((List.range Config.partitions).map fun p => if p = part then v else s.jquota p) ≤ 32768 then
    (s.setRegBits Config.pf blkPart (partOff part + 0x3000) 16 0 (val % 2 ^ 17)).jigEvictTo part v (fun _ => false) s.jig.entries.length
  else s

/-- JQUOTA_WRITE (R275). -/
def execJquotaWrite (part val : Nat) (s : State) : Host.Outcome State Fault Refusal :=
  .next (if !s.partOk part then s else s.jquotaWrite part val)

/-- Delete the jig entries of a VF. -/
def State.jigForgetVf (s : State) (vf : Nat) : State :=
  ({ s with jig := { s.jig with entries := s.jig.entries.filter fun e => e.vf != vf } }).releaseRegions

/-- JIG_FLUSH (R275). -/
def execJigFlush (part vf : Nat) (s : State) : Host.Outcome State Fault Refusal :=
  .next (if !s.partOk part then s else s.jigForgetVf vf)

/-- The counters of a stall block read zero again. -/
def State.clearCounters (s : State) (fn blk base : Nat) : State :=
  { s with regs := s.regs.filter fun e => !(regKey fn blk (base + 0x100) ≤ e.1 && e.1 < regKey fn blk (base + 0x900)) }

/-- STALL_CLR (R221): block f below 1,024 is VF f's, block 1,024 + p is partition p's. -/
def execStallClr (blk : Nat) (s : State) : Host.Outcome State Fault Refusal :=
  .next (if blk < Config.vfs then (if s.blkActive blk blkStall then s.clearCounters blk blkStall 0 else s)
    else if s.partOk (blk - Config.vfs) then s.clearCounters Config.pf blkPart (partOff (blk - Config.vfs) + 0x4000) else s)

end Sys2Proof.Machine
end

