-- ==== Sys2Proof/Machine/Boot.lean ====
section
/-! DEFINITION. The capability list, firmware boot, SR-IOV and resets, error banks, and plain register writes and reads (R9, R10, R143, R153, R185, R223, R259, R292 to R295, R305, R315, R317, R318). -/

set_option Elab.async false

namespace Sys2Proof.Machine

/-- ERR_BANK_CLEAR (R318): writing 1 to VALID clears the bank. -/
def execErrBankClear (fn bank : Nat) (s : State) : Host.Outcome State Fault Refusal :=
  .next (if !s.blkActive fn blkErr || (if fn = Config.pf then 16 else 1) ≤ bank then s
    else [0, 8, 16, 24].foldl (fun s o => s.setReg fn blkErr (0x20 * bank + o) 0) s)

/-! The capability list (R292 to R294) -/

/-- CAP_ACCEPT (R293): only MAJOR = 1 is taken, of a block that the function carries and that responds. -/
def execCapAccept (fn block val : Nat) (s : State) : Host.Outcome State Fault Refusal :=
  .next (if !carries fn block || val ≠ 1 || (fn ≠ Config.pf && s.vfs ≤ fn) then s
    else if s.bstate ≠ 3 && block ≠ blkBoot && block ≠ blkErr then s
    else s.setReg fn 0 block 1)

/-- Registers of a function with a property of block and offset return to reset. -/
def State.resetRegs (s : State) (fn : Nat) (p : Nat → Bool) : State :=
  { s with regs := s.regs.filter fun e => !(e.1 / 2 ^ 26 / 32 == fn && p (e.1 / 2 ^ 26 % 32)) }

/-! Firmware boot (R259, R317) -/

/-- Set BSTATE. -/
def State.setBstate (s : State) (x : Nat) : State := s.setRegBits Config.pf blkBoot 0x100008 2 0 x

/-- BOOT_AUTH (R317): verification starts in state 0; states 4 and 5 go back to 0. -/
def execBootAuth (s : State) : Host.Outcome State Fault Refusal :=
  .next (if !s.blkActive Config.pf blkBoot then s
    else if s.bstate = 0 then s.setBstate 1
    else if s.bstate = 4 || s.bstate = 5 then s.setBstate 0
    else s)

/-- State 2 of the boot, up to state 3: keys, carve-out, management tree, ownership, and the end of start-up directory mode (R259, R317). -/
def State.bootStart (s : State) : State :=
  let s1 := (s.createDom Config.mgmtDomain).createDom Config.pfDomain
  let s2 := { s1 with
    keys := { s1.keys with
      booted := true
      fot := []
      trees := AL.put [] Config.mgmtDomain (8, carveFrame (Config.mgmtTree % (4 * carve - mgmtRegion)) * 4096)
      ctrs := s1.keys.ctrs.filter fun e => e.1 / 2 ^ 32 != Config.mgmtDomain
      nodes := s1.keys.nodes.filter fun e => e.1 / 2 ^ 34 / 16 != Config.mgmtDomain }
    mm := { s1.mm with
      mem := s1.mm.mem.filter fun e => !inCarve (e.1 / 4096)
      tags := s1.mm.tags.filter fun e => !inCarve (e.1 / 64)
      ctrCache := [] } }
  let s3 := [0, 1, 2, 3].foldl (fun (s : State) d => if AL.get? s.mm.dirMode d = some 1 then s.setDir d 0 else s) s2
  let s4 := s3.setReg Config.pf blkBoot 0x100010 (BitVec.ofNat 64 carve)
  ((List.range 8).foldl (fun (s : State) k => s.setReg Config.pf blkBoot (0x100018 + 8 * k) (BitVec.ofNat 64 (tierBytes k))) s4).setBstate 3

/-- BOOT_VERIFY_DONE (R317): a bad signature, a version below SVN, or the image starts; what the image is stands outside the model (log entry 6). -/
def execBootVerifyDone (s : State) : Host.Outcome State Fault Refusal :=
  .next (if s.bstate ≠ 1 then s
    else
      let s1 := { s with free := s.free + 1 }
      match Config.firmwareVerdict s.free with
      | 0 => s1.bootStart
      | 1 => s1.setBstate 4
      | _ => s1.setBstate 5)

/-! SR-IOV and resets (R315, R317) -/

/-- Every task of a VF goes, with its records, posts and transfers, and its jig queue is empty and sound again (R315; log entry 91). -/
def State.dropVf (s : State) (vf : Nat) : State :=
  let mine (e : Nat × Task) : Bool := e.2.vf == vf
  let s1 := s.dropBlocks ((s.blocks.filter fun e => e.2.vf == vf).map (·.1))
  let s2 := { s1 with
    tasks := s1.tasks.filter fun e => !mine e
    posts := AL.del s1.posts vf
    stops := AL.del s1.stops vf
    dcopy := s1.dcopy.filter fun x => x.fn != vf
    rep := { s1.rep with
      term := s1.rep.term.filter fun r => r.fn != vf
      kept := s1.rep.kept.filter fun e => e.1 / 2 != vf } }
  { s2 with jig := { s2.jig with
      faulted := s2.jig.faulted.filter (· != vf)
      pts := AL.del s2.jig.pts vf } }.jigForgetVf vf

/-- VF_ENABLE (R249, R315): NumVFs is n; the domains of the VFs enabled are created. -/
def execVfEnable (n : Nat) (s : State) : Host.Outcome State Fault Refusal :=
  .next (if Config.vfs < n || n ≤ s.vfs || s.bstate ≠ 3 then s
    else { ((List.range (n - s.vfs)).foldl (fun (s1 : State) i => s1.createDom (s.vfs + i)) s) with vfs := n })

/-- A domain owns a frame. -/
def State.ownsAny (s : State) (d : Nat) : Bool := s.keys.fot.any fun e => e.2.owner == d

/-- The Posted merge entries of a VF become Free (R152). -/
def State.freePosted (s : State) (vf : Nat) : State :=
  ((s.mm.merges.filter fun e => e.2.vf == vf && e.2.posted).map (·.1)).foldl (fun s k => s.freeMerge k) s

/-- VF_DISABLE (R152, R274, R315): n VFs stay; refused whole when one that would go owns a frame. -/
def execVfDisable (n : Nat) (s : State) : Host.Outcome State Fault Refusal :=
  .next (
    let gone := (List.range (s.vfs - n)).map fun i => n + i
    if s.vfs ≤ n || gone.any s.ownsAny then s
    else { (gone.foldl (fun (s : State) f => (((s.dropVf f).freePosted f).resetRegs f fun _ => true).destroyDom f) s) with vfs := n })

/-- VF_FLR (R293, R315): tasks, jig entries and BAR0 blocks; frames and tables stay. -/
def execVfFlr (vf : Nat) (s : State) : Host.Outcome State Fault Refusal :=
  .next (if Config.vfs ≤ vf then s else (s.dropVf vf).resetRegs vf fun _ => true)

/-- PF_FLR (R293, R317): the PF's blocks become inactive; the package and BSTATE stay. -/
def execPfFlr (s : State) : Host.Outcome State Fault Refusal := .next (s.resetRegs Config.pf fun b => b == 0)

/-- PACKAGE_RESET (R249, R256, R317): the state after reset; the outside world, and the draws of free values and keys, go on. -/
def execPackageReset (s : State) : Host.Outcome State Fault Refusal :=
  .next { State.reset with
    inputs := s.inputs
    host := s.host
    free := s.free
    nextId := s.nextId
    keys := { State.reset.keys with draws := s.keys.draws } }

/-! Plain register writes (R9, R10) -/

/-- A write that its register ignores whole (R143, R157, R223, R295). -/
def State.writeIgnored (s : State) (blk off val : Nat) : Bool :=
  let p := off / 0x10000 - 1
  let rel := off % 0x10000
  if blk = blkPfxlate then (off == 0x48 || (0x10000 ≤ off && off % 0x20 == 0x18)) && val % 256 == 0
  else if blk = blkPart && 0x10000 ≤ off then
    (if rel = 0x2000 then bits val 9 8 == 3 || 8 < bits val 51 48
     else if rel = 0x18 then (List.range Config.partitions).any fun q => q != p && (s.regBits Config.pf blkPart (partOff q + 0x18) 15 0 &&& val % 2 ^ 16) != 0
     else false)
  else false

/-- Fields of a write that leave the register as it is: WEIGHT 0, THRESH 0, and VPART and VV of a VF with a live task (R223, R295). -/
def State.keptFields (s : State) (blk off val : Nat) : Nat :=
  if blk = blkPart then
    (if 0x2000 ≤ off ∧ off < 0x4000 then
      (if bits val 15 8 = 0 then 0xFF00 else 0) + (if s.tasks.any fun t => t.2.vf == (off - 0x2000) / 8 && t.2.st != .killed then 0x3F else 0)
     else if 0x10000 ≤ off ∧ off % 0x10000 = 0x2000 ∧ val % 256 = 0 then 0xFF else 0)
  else 0

/-- Bits that a write of 1 clears, in registers without an event of their own: SEEDERR and OVF (R289, R295). -/
def w1cMask (blk off : Nat) : Nat :=
  if blk = blkPart ∧ 0x10000 ≤ off ∧ off < 0x10000 * 25 ∧ off % 0x10000 = 0 then 8
  else if blk = blkDebug ∧ off = 0x90 then 32 else 0

/-- What a register write does beyond its register: a ring that is emptied takes the notices that wait (R153). -/
def State.afterWrite (s : State) (blk : Nat) : State := if blk = blkNotice then s.drainNotices s.rep.notices else s

/-- REGISTER_WRITE (R9, R10): the plain fields of a register of an active block. A reserved key command and a word of HOLD have their effect. -/
def execRegisterWrite (fn block off val : Nat) (s : State) : Host.Outcome State Fault Refusal :=
  .next (if !carries fn block || !s.blkActive fn block || s.writeIgnored block off val then s
    else if block = blkKey ∧ off = 0 then s.keyStart (bits val 7 0) val
    else if block = blkFabric ∧ fabOff 16 + 0x9000 ≤ off ∧ off < fabOff 16 + 0x9400 ∧ off % 8 = 0 then
      s.holdWord ((off - fabOff 16 - 0x9000) / 8) (val % 2 ^ 64)
    else if block = blkPart ∧ 0x10000 ≤ off ∧ off < 0x10000 * 25 ∧ off % 0x10000 = 0x3000 then s.jquotaWrite (off / 0x10000 - 1) val
    else
      let mask := writeMask fn block off
      let keep := s.keptFields block off val
      let w1c := w1cMask block off &&& val
      if mask = 0 && w1c = 0 then s
      else
        let old := (s.reg fn block off).toNat
        let s := if block = blkPart ∧ 0x2000 ≤ off ∧ off < 0x4000 then s.keepWeight ((off - 0x2000) / 8) else s
        (s.setReg fn block off (BitVec.ofNat 64 (mergeMask old (val % 2 ^ 64) (mask &&& (2 ^ 64 - 1 - keep)) &&& (2 ^ 64 - 1 - w1c)))).afterWrite block)

/-! What a host read returns (R48, R185, R289, R292, R317) -/

/-- MOSTAT of a die (R185). -/
def State.mostat (s : State) (d : Nat) : Nat :=
  (match AL.get? s.mm.dirMode d with
   | some c => 1 + c * 2
   | none => 0) + s.epoch.toNat * 2 ^ 8 + (Tbl.get s.mm.high d).toNat * 2 ^ 16

/-- Blocks that a function carries, by id (R294). -/
def capIds (fn : Nat) : List Nat := (List.range 32).filter (carries fn)

/-- Places of the capability entries of a list of blocks, from a BAR0 offset on: each with its block and the NEXT that leads on from it, 0 at the end (R292). The free room between two entries is the device's, and their order by block id is the model's (log entry 74). -/
def capPlaces (fn : Nat) : List Nat → Nat → List (Nat × Nat × Nat)
  | [], _ => []
  | [id], o => [(o, id, 0)]
  | id :: r, o => let n := o + 16 * (1 + (Config.capGap fn id).toNat); (o, id, n) :: capPlaces fn r n

/-- The capability list of a function: the first entry stands at BAR0 offset 0 (R292). -/
def capList (fn : Nat) : List (Nat × Nat × Nat) := capPlaces fn (capIds fn) 0

/-- A word of the capability entry of a block of a function (R292): ID, MAJOR 1, MINOR 0 and OFFSET in the low word, SIZE, ACCEPT and NEXT in the high one. Block places and sizes are the device's (log entry 74). -/
def State.capWord (s : State) (fn id next k : Nat) : DWord :=
  if k = 0 then BitVec.ofNat 64 (id + 2 ^ 16 + (Config.capOffset fn id).toNat * 4096 * 2 ^ 32)
  else BitVec.ofNat 64 ((Config.capSize fn id).toNat + s.regBits fn 0 id 7 0 * 2 ^ 24 + next * 2 ^ 32)

/-- A word of the capability list at a BAR0 offset; 0 between the entries. -/
def State.capRead (s : State) (fn off : Nat) : DWord :=
  match (capList fn).find? fun e => e.1 == off / 16 * 16 with
  | some (_, id, next) => s.capWord fn id next (off / 8 % 2)
  | none => 0

/-- The value a register of an active block reads, before the fields that read zero are taken out. -/
def State.hostValue (s : State) (fn blk off : Nat) : DWord :=
  if blk = blkRas ∧ off < 32 then BitVec.ofNat 64 (s.mostat (off / 8))
  else if blk = blkPostwin ∧ off = 0x118 then BitVec.ofNat 64 (s.quota fn + s.liveCount fn % 2 ^ 16 * 2 ^ 16)
  else if blk = blkDebug ∧ off = 0x90 then BitVec.ofNat 64 (((AL.get? s.stops fn).getD []).length + s.regBits fn blk 0x90 5 5 * 32)
  else if blk = blkDebug ∧ off = 0x98 then (((AL.get? s.stops fn).getD []).head?.getD 0)
  else if blk = blkBoot ∧ off < 0x100000 then 0
  else if blk = blkBoot ∧ off = 0x100008 then BitVec.ofNat 64 (s.bstate + Config.fuseSvn.toNat * 2 ^ 16)
  else s.reg fn blk off

/-- The value a host read of a register returns (R9, R10, R292): WO and reserved fields and offsets not listed read zero; block id 0 stands for the capability list at the start of BAR0. A read of the stop-record register also takes the record (`execDebugStopRecordPop`). -/
def State.hostRead (s : State) (fn blk off : Nat) : DWord :=
  if blk = 0 then
    (if off % 8 = 0 && (fn = Config.pf || fn < s.vfs) then s.capRead fn off else 0)
  else if !carries fn blk || !s.blkActive fn blk then 0
  else s.hostValue fn blk off &&& BitVec.ofNat 64 (readMask fn blk off)

end Sys2Proof.Machine
end

