-- ==== Sys2Proof/Machine/Cross.lean ====
section
/-! DEFINITION. Lane exchange, reductions, scans, votes and single-lane moves (R17, R398, R399, R448 to R451, R456, R458). -/

set_option Elab.async false

namespace Sys2Proof.Machine

/-- What a source lane supplies: an exited lane supplies 0 (R17). -/
def State.srcLane (s : State) (k lane : Nat) : Nat := if s.w.live.getLsbD lane then (s.rV k lane).toNat else 0

/-- Every lane acted on takes 32 bits of a source lane (R399, R449, R458). -/
def State.shuffle (s : State) (d a : Nat) (src : Nat → Nat) : State :=
  if s.vOk d && s.vOk a then s.vecOp d 1 4 fun i => .exact (s.srcLane a (src i)) else s.illop

/-- `vshfl.idx` (R458). -/
def execVshflIdx (d a b : Nat) (s : State) : Host.Outcome State Fault Refusal :=
  .next (if s.vOk b then s.shuffle d a fun i => (s.rV b i).toNat % 32 else s.illop)
/-- `vshfl.up` (R458). -/
def execVshflUp (d a k : Nat) (s : State) : Host.Outcome State Fault Refusal :=
  .next (s.shuffle d a fun i => if k ≤ i then i - k else i)
/-- `vshfl.down` (R458). -/
def execVshflDown (d a k : Nat) (s : State) : Host.Outcome State Fault Refusal :=
  .next (s.shuffle d a fun i => if i + k ≤ 31 then i + k else i)
/-- `vshfl.xor` (R458). -/
def execVshflXor (d a k : Nat) (s : State) : Host.Outcome State Fault Refusal := .next (s.shuffle d a fun i => i ^^^ k)
/-- `vbcast` (R449). -/
def execVbcast (d a lane : Nat) (s : State) : Host.Outcome State Fault Refusal := .next (s.shuffle d a fun _ => lane)
/-- `qswz` (R399). -/
def execQswz (d a sel : Nat) (s : State) : Host.Outcome State Fault Refusal :=
  .next (s.shuffle d a fun i => i / 4 * 4 + sel / 4 ^ (i % 4) % 4)
/-- `qbcast` (R399). -/
def execQbcast (d a k : Nat) (s : State) : Host.Outcome State Fault Refusal := .next (s.shuffle d a fun i => i / 4 * 4 + k)

/-! Reductions (R449) -/

/-- The result of an operation with no contribution. -/
def redIdentity (c : Ctl) : RedOp → Nat
  | .add | .or | .xor => 0
  | .and => 2 ^ c.n - 1
  | .min => if etFlt c.et then c.fmt.infBits false else wrap c.n (intMax c.n c.sg)
  | .max => if etFlt c.et then c.fmt.infBits true else wrap c.n (intMin c.n c.sg)

/-- The combination of contributions of one element. -/
def redElem (op : RedOp) (c : Ctl) (l : List Nat) : FRes :=
  match l with
  | [] => .exact (redIdentity c op)
  | x :: r =>
    match op with
    | .add =>
      if etFlt c.et then
        let vs := l.map (c.fmt.readZ c.ftz)
        c.fmt.sum c.rm c.ftz (vs.any (·.signals)) vs
      else c.out (l.foldl (fun t y => t + c.val y) 0)
    | .min => r.foldl (fun a y => let q := eMinMax false c a.bits y; ⟨q.bits, a.flags ||| q.flags⟩) (eMinMax false c x x)
    | .max => r.foldl (fun a y => let q := eMinMax true c a.bits y; ⟨q.bits, a.flags ||| q.flags⟩) (eMinMax true c x x)
    | .and => .exact (r.foldl (· &&& ·) x)
    | .or => .exact (r.foldl (· ||| ·) x)
    | .xor => .exact (r.foldl (· ^^^ ·) x)

/-- The combination of the values of lanes, element by element. -/
def redVal (op : RedOp) (c : Ctl) (l : List Nat) : FRes :=
  packRes c.n ((List.range (32 * etRegs c.et / c.n)).map fun j => redElem op c (l.map fun x => x / 2 ^ (c.n * j) % 2 ^ c.n))

/-- Types an operation takes (R448). -/
def redOk (op : RedOp) (et : Nat) : Bool :=
  match op with
  | .add | .min | .max => etNum et
  | _ => true

/-- Each lane acted on receives the combination of the contributions of lanes that `sel` admits for it (R449, R450). -/
def State.reduce (s : State) (op : RedOp) (d a : Nat) (sel : Nat → Nat → Bool) : State :=
  let c := s.ctl
  let n := etRegs c.et
  if redOk op c.et && s.vRegsOk d n && s.vRegsOk a n then
    s.vecOp d n 4 fun i => redVal op c (((lanesOf s.activeGuarded).filter (sel i)).map fun j => s.vVal a n j)
  else s.illop

/-- `vred` (R449). -/
def execVred (op : RedOp) (d a : Nat) (s : State) : Host.Outcome State Fault Refusal := .next (s.reduce op d a fun _ _ => true)
/-- `vscan` (R450). -/
def execVscan (op : RedOp) (excl : Bool) (d a : Nat) (s : State) : Host.Outcome State Fault Refusal :=
  .next (s.reduce op d a fun i j => if excl then decide (j < i) else decide (j ≤ i))

/-- `vvote` (R451). -/
def execVvote (op : VoteOp) (d a : Nat) (s : State) : Host.Outcome State Fault Refusal :=
  let m := s.activeGuarded
  let x := s.rP a &&& m
  .next (s.scalarResult d (match op with
    | .all => if x == m then 1 else 0
    | .any => if x == 0 then 0 else 1
    | .ballot => x.setWidth 64))

/-! Single lanes (R456) -/

/-- `vget` (R456). -/
def execVget (d a lane : Nat) (s : State) : Host.Outcome State Fault Refusal :=
  let et := s.path.modeET
  let n := etRegs et
  let x := if s.w.live.getLsbD lane then s.vVal a n lane else 0
  .next (if s.vRegsOk a n then s.scalarResult d (BitVec.ofNat 64 (if et = 0 then wrap 64 (sext 32 x) else x)) else s.illop)

/-- `vput` (R456). -/
def execVput (d a lane : Nat) (s : State) : Host.Outcome State Fault Refusal :=
  let n := etRegs s.path.modeET
  let x := (s.rS a).toNat % 2 ^ (32 * n)
  .next (if !s.vRegsOk d n then s.illop
    else s.writing ((List.range n).map fun i => .v (d + i)) fun s =>
      if s.path.mask.getLsbD lane then (s.writeVec d n [(lane, x)]).advance 4 else s.advance 4)

end Sys2Proof.Machine
end

