-- ==== Sys2Proof/Machine/Dispatch.lean ====
section
/-! DEFINITION. One arm for each constructor of `Instr`. -/

namespace Sys2Proof.Machine

/-- What an instruction or event does. -/
def exec (i : Instr) (s : State) : Host.Outcome State Fault Refusal :=
  match i with
  | .nop => Sys2Proof.Machine.execNop s
  | .exit => Sys2Proof.Machine.execExit s
  | .yield => Sys2Proof.Machine.execYield s
  | .trap a => Sys2Proof.Machine.execTrap a s
  | .brkpt => Sys2Proof.Machine.execBrkpt s
  | .eret a => Sys2Proof.Machine.execEret a s
  | .rwp r => Sys2Proof.Machine.execRwp r s
  | .join => Sys2Proof.Machine.execJoin s
  | .ret a => Sys2Proof.Machine.execRet a s
  | .jmpr a => Sys2Proof.Machine.execJmpr a s
  | .qhelpOn => Sys2Proof.Machine.execQhelpOn s
  | .qhelpOff => Sys2Proof.Machine.execQhelpOff s
  | .bra off => Sys2Proof.Machine.execBra off s
  | .call off => Sys2Proof.Machine.execCall off s
  | .bs c a off => Sys2Proof.Machine.execBs c a off s
  | .vbr p off rc => Sys2Proof.Machine.execVbr p off rc s
  | .vswitch n va sb table => Sys2Proof.Machine.execVswitch n va sb table s
  | .mode sel val => Sys2Proof.Machine.execMode sel val s
  | .modex sel a => Sys2Proof.Machine.execModex sel a s
  | .sregS d id => Sys2Proof.Machine.execSregS d id s
  | .sregV d id => Sys2Proof.Machine.execSregV d id s
  | .mfmt a => Sys2Proof.Machine.execMfmt a s
  | .role n => Sys2Proof.Machine.execRole n s
  | .vadd d a b => Sys2Proof.Machine.execVadd d a b s
  | .vsub d a b => Sys2Proof.Machine.execVsub d a b s
  | .vmul d a b => Sys2Proof.Machine.execVmul d a b s
  | .vmin d a b => Sys2Proof.Machine.execVmin d a b s
  | .vmax d a b => Sys2Proof.Machine.execVmax d a b s
  | .vfma d a b => Sys2Proof.Machine.execVfma d a b s
  | .vfms d a b => Sys2Proof.Machine.execVfms d a b s
  | .vdiv d a b => Sys2Proof.Machine.execVdiv d a b s
  | .vand d a b => Sys2Proof.Machine.execVand d a b s
  | .vor d a b => Sys2Proof.Machine.execVor d a b s
  | .vxor d a b => Sys2Proof.Machine.execVxor d a b s
  | .vshl d a b => Sys2Proof.Machine.execVshl d a b s
  | .vshr d a b => Sys2Proof.Machine.execVshr d a b s
  | .vmulhi d a b => Sys2Proof.Machine.execVmulhi d a b s
  | .vdot4 d a b => Sys2Proof.Machine.execVdot4 d a b s
  | .vsel d a b => Sys2Proof.Machine.execVsel d a b s
  | .vabs d a => Sys2Proof.Machine.execVabs d a s
  | .vneg d a => Sys2Proof.Machine.execVneg d a s
  | .vnot d a => Sys2Proof.Machine.execVnot d a s
  | .vrcp d a => Sys2Proof.Machine.execVrcp d a s
  | .vrsq d a => Sys2Proof.Machine.execVrsq d a s
  | .vsqrt d a => Sys2Proof.Machine.execVsqrt d a s
  | .vexp2 d a => Sys2Proof.Machine.execVexp2 d a s
  | .vlog2 d a => Sys2Proof.Machine.execVlog2 d a s
  | .vsin d a => Sys2Proof.Machine.execVsin d a s
  | .vcos d a => Sys2Proof.Machine.execVcos d a s
  | .vpopc d a => Sys2Proof.Machine.execVpopc d a s
  | .vclz d a => Sys2Proof.Machine.execVclz d a s
  | .vmov d a => Sys2Proof.Machine.execVmov d a s
  | .vcvt t d a => Sys2Proof.Machine.execVcvt t d a s
  | .vbfe d a b => Sys2Proof.Machine.execVbfe d a b s
  | .vbfi d a b => Sys2Proof.Machine.execVbfi d a b s
  | .vmovi d imm => Sys2Proof.Machine.execVmovi d imm s
  | .vmoviLiteral d lit => Sys2Proof.Machine.execVmoviLiteral d lit s
  | .vcmp c p a b => Sys2Proof.Machine.execVcmp c p a b s
  | .pand d a b => Sys2Proof.Machine.execPand d a b s
  | .por d a b => Sys2Proof.Machine.execPor d a b s
  | .pxor d a b => Sys2Proof.Machine.execPxor d a b s
  | .pnot d a => Sys2Proof.Machine.execPnot d a s
  | .pmovPS d sa => Sys2Proof.Machine.execPmovPS d sa s
  | .pmovSP sd a => Sys2Proof.Machine.execPmovSP sd a s
  | .pcnt sd a => Sys2Proof.Machine.execPcnt sd a s
  | .pffs sd a => Sys2Proof.Machine.execPffs sd a s
  | .pmovPP d a => Sys2Proof.Machine.execPmovPP d a s
  | .vshflIdx d a b => Sys2Proof.Machine.execVshflIdx d a b s
  | .vshflUp d a k => Sys2Proof.Machine.execVshflUp d a k s
  | .vshflDown d a k => Sys2Proof.Machine.execVshflDown d a k s
  | .vshflXor d a k => Sys2Proof.Machine.execVshflXor d a k s
  | .vbcast d a lane => Sys2Proof.Machine.execVbcast d a lane s
  | .vred op d a => Sys2Proof.Machine.execVred op d a s
  | .vscan op excl d a => Sys2Proof.Machine.execVscan op excl d a s
  | .vvote op d a => Sys2Proof.Machine.execVvote op d a s
  | .qswz d a sel => Sys2Proof.Machine.execQswz d a sel s
  | .qbcast d a k => Sys2Proof.Machine.execQbcast d a k s
  | .vget d a lane => Sys2Proof.Machine.execVget d a lane s
  | .vput d a lane => Sys2Proof.Machine.execVput d a lane s
  | .sadd d a b => Sys2Proof.Machine.execSadd d a b s
  | .ssub d a b => Sys2Proof.Machine.execSsub d a b s
  | .smul d a b => Sys2Proof.Machine.execSmul d a b s
  | .sand d a b => Sys2Proof.Machine.execSand d a b s
  | .sor d a b => Sys2Proof.Machine.execSor d a b s
  | .sxor d a b => Sys2Proof.Machine.execSxor d a b s
  | .sshl d a b => Sys2Proof.Machine.execSshl d a b s
  | .sshr d a b => Sys2Proof.Machine.execSshr d a b s
  | .sshrA d a b => Sys2Proof.Machine.execSshrA d a b s
  | .smin d a b => Sys2Proof.Machine.execSmin d a b s
  | .smax d a b => Sys2Proof.Machine.execSmax d a b s
  | .sminU d a b => Sys2Proof.Machine.execSminU d a b s
  | .smaxU d a b => Sys2Proof.Machine.execSmaxU d a b s
  | .smov d a => Sys2Proof.Machine.execSmov d a s
  | .scmp c d a b => Sys2Proof.Machine.execScmp c d a b s
  | .smovi d imm => Sys2Proof.Machine.execSmovi d imm s
  | .sliLo d lit => Sys2Proof.Machine.execSliLo d lit s
  | .sliHi d lit => Sys2Proof.Machine.execSliHi d lit s
  | .ld d b ix la => Sys2Proof.Machine.execLd d b ix la s
  | .st b ix src la => Sys2Proof.Machine.execSt b ix src la s
  | .atom op d b ix vc nd la => Sys2Proof.Machine.execAtom op d b ix vc nd la s
  | .ldu a b c la => Sys2Proof.Machine.execLdu a b c la s
  | .stu b c a la => Sys2Proof.Machine.execStu b c a la s
  | .atomu op a b c la => Sys2Proof.Machine.execAtomu op a b c la s
  | .pf b ix la => Sys2Proof.Machine.execPf b ix la s
  | .pgreq b ix la => Sys2Proof.Machine.execPgreq b ix la s
  | .pgreqY b ix la => Sys2Proof.Machine.execPgreqY b ix la s
  | .brec d a b la => Sys2Proof.Machine.execBrec d a b la s
  | .brecr d a c la => Sys2Proof.Machine.execBrecr d a c la s
  | .fence sc la => Sys2Proof.Machine.execFence sc la s
  | .fenceSc sc la => Sys2Proof.Machine.execFenceSc sc la s
  | .qfence m la => Sys2Proof.Machine.execQfence m la s
  | .qwait m la => Sys2Proof.Machine.execQwait m la s
  | .wacq n la => Sys2Proof.Machine.execWacq n la s
  | .wrel n la => Sys2Proof.Machine.execWrel n la s
  | .tld d h ix la => Sys2Proof.Machine.execTld d h ix la s
  | .tst h ix src la => Sys2Proof.Machine.execTst h ix src la s
  | .tatom op d h ix vc nd la => Sys2Proof.Machine.execTatom op d h ix vc nd la s
  | .talloc d a la => Sys2Proof.Machine.execTalloc d a la s
  | .tfree a la => Sys2Proof.Machine.execTfree a la s
  | .tinfo d h la => Sys2Proof.Machine.execTinfo d h la s
  | .bar n k => Sys2Proof.Machine.execBar n k s
  | .gbar => Sys2Proof.Machine.execGbar s
  | .arrive n k => Sys2Proof.Machine.execArrive n k s
  | .cpy c => Sys2Proof.Machine.execCpy c s
  | .sattach n a b la => Sys2Proof.Machine.execSattach n a b la s
  | .qdrop n la => Sys2Proof.Machine.execQdrop n la s
  | .qpop d n => Sys2Proof.Machine.execQpop d n s
  | .mma a b la => Sys2Proof.Machine.execMma a b la s
  | .mmag a b c la => Sys2Proof.Machine.execMmag a b c la s
  | .mmas a c la => Sys2Proof.Machine.execMmas a c la s
  | .mbld a la => Sys2Proof.Machine.execMbld a la s
  | .mbldPair a la => Sys2Proof.Machine.execMbldPair a la s
  | .mwb a b c la => Sys2Proof.Machine.execMwb a b c la s
  | .mqnt a b c la => Sys2Proof.Machine.execMqnt a b c la s
  | .mpair d la => Sys2Proof.Machine.execMpair d la s
  | .munpair la => Sys2Proof.Machine.execMunpair la s
  | .tskpost d h o la => Sys2Proof.Machine.execTskpost d h o la s
  | .tskdec d n k la => Sys2Proof.Machine.execTskdec d n k la s
  | .tskadd d n k la => Sys2Proof.Machine.execTskadd d n k la s
  | .tskq d n la => Sys2Proof.Machine.execTskq d n la s
  | .sigadd a => Sys2Proof.Machine.execSigadd a s
  | .issueSlot core quarter => Sys2Proof.Machine.execIssueSlot core quarter s
  | .issueVfPromote core quarter vf => Sys2Proof.Machine.execIssueVfPromote core quarter vf s
  | .issuePathPromote wid pathB => Sys2Proof.Machine.execIssuePathPromote wid pathB s
  | .issueRoundBoundary core quarter => Sys2Proof.Machine.execIssueRoundBoundary core quarter s
  | .roleGrant wid => Sys2Proof.Machine.execRoleGrant wid s
  | .yieldWake wid pathB => Sys2Proof.Machine.execYieldWake wid pathB s
  | .startTokenGrant die => Sys2Proof.Machine.execStartTokenGrant die s
  | .coreRest core => Sys2Proof.Machine.execCoreRest core s
  | .matrixQueueStep core => Sys2Proof.Machine.execMatrixQueueStep core s
  | .copyLineTransfer core => Sys2Proof.Machine.execCopyLineTransfer core s
  | .copyEntryComplete bid q => Sys2Proof.Machine.execCopyEntryComplete bid q s
  | .copyEntryStop bid q => Sys2Proof.Machine.execCopyEntryStop bid q s
  | .streamFetch wid q => Sys2Proof.Machine.execStreamFetch wid q s
  | .homeSliceRequest id => Sys2Proof.Machine.execHomeSliceRequest id s
  | .storeAck id => Sys2Proof.Machine.execStoreAck id s
  | .writeBack line => Sys2Proof.Machine.execWriteBack line s
  | .directoryModeSwitch die cause => Sys2Proof.Machine.execDirectoryModeSwitch die cause s
  | .directorySwitchDone die => Sys2Proof.Machine.execDirectorySwitchDone die s
  | .walkComplete core vf va => Sys2Proof.Machine.execWalkComplete core vf va s
  | .reportRecordWrite => Sys2Proof.Machine.execReportRecordWrite s
  | .reportFnPromote fn => Sys2Proof.Machine.execReportFnPromote fn s
  | .post vf => Sys2Proof.Machine.execPost vf s
  | .taskPostValidated vf => Sys2Proof.Machine.execTaskPostValidated vf s
  | .jigHitRetire vf name => Sys2Proof.Machine.execJigHitRetire vf name s
  | .blockPlace part => Sys2Proof.Machine.execBlockPlace part s
  | .gangStart part => Sys2Proof.Machine.execGangStart part s
  | .gangTargetWindow part => Sys2Proof.Machine.execGangTargetWindow part s
  | .blockComplete bid => Sys2Proof.Machine.execBlockComplete bid s
  | .tenonStart bid => Sys2Proof.Machine.execTenonStart bid s
  | .tenonEnd bid => Sys2Proof.Machine.execTenonEnd bid s
  | .dowelStart bid => Sys2Proof.Machine.execDowelStart bid s
  | .dowelEnd bid => Sys2Proof.Machine.execDowelEnd bid s
  | .checkRoomPreempt part => Sys2Proof.Machine.execCheckRoomPreempt part s
  | .checkRoleTimeout wid => Sys2Proof.Machine.execCheckRoleTimeout wid s
  | .clampAgeLimit bid => Sys2Proof.Machine.execClampAgeLimit bid s
  | .demeritDecay => Sys2Proof.Machine.execDemeritDecay s
  | .healthRecordRequest => Sys2Proof.Machine.execHealthRecordRequest s
  | .preemptRunonTimeout wid => Sys2Proof.Machine.execPreemptRunonTimeout wid s
  | .preemptSaveDone bid => Sys2Proof.Machine.execPreemptSaveDone bid s
  | .sliceEnd part vf => Sys2Proof.Machine.execSliceEnd part vf s
  | .clustersWrite part val => Sys2Proof.Machine.execClustersWrite part val s
  | .tdmScheduleBoundary => Sys2Proof.Machine.execTdmScheduleBoundary s
  | .quotaWrite vf val => Sys2Proof.Machine.execQuotaWrite vf val s
  | .hseedWrite part val => Sys2Proof.Machine.execHseedWrite part val s
  | .pseedWrite val => Sys2Proof.Machine.execPseedWrite val s
  | .seedFlushDone part => Sys2Proof.Machine.execSeedFlushDone part s
  | .waysWrite part k mask => Sys2Proof.Machine.execWaysWrite part k mask s
  | .waySweepDone part k => Sys2Proof.Machine.execWaySweepDone part k s
  | .leaseWrite part val => Sys2Proof.Machine.execLeaseWrite part val s
  | .chkcmdUnfence part core matrix => Sys2Proof.Machine.execChkcmdUnfence part core matrix s
  | .chkcmdSetDemerits part core matrix val => Sys2Proof.Machine.execChkcmdSetDemerits part core matrix val s
  | .jquotaWrite part val => Sys2Proof.Machine.execJquotaWrite part val s
  | .jigFlush part vf => Sys2Proof.Machine.execJigFlush part vf s
  | .stallClr blk => Sys2Proof.Machine.execStallClr blk s
  | .inval vf word => Sys2Proof.Machine.execInval vf word s
  | .inval2 vf word => Sys2Proof.Machine.execInval2 vf word s
  | .invalidationComplete vf stage => Sys2Proof.Machine.execInvalidationComplete vf stage s
  | .resolve fn word => Sys2Proof.Machine.execResolve fn word s
  | .ringRbaseWrite ring val => Sys2Proof.Machine.execRingRbaseWrite ring val s
  | .keyAdopt word => Sys2Proof.Machine.execKeyAdopt word s
  | .adoptDrainDone => Sys2Proof.Machine.execAdoptDrainDone s
  | .keyWcreate word => Sys2Proof.Machine.execKeyWcreate word s
  | .keyWdestroy word => Sys2Proof.Machine.execKeyWdestroy word s
  | .keyTreecfg word => Sys2Proof.Machine.execKeyTreecfg word s
  | .keyCommandDone => Sys2Proof.Machine.execKeyCommandDone s
  | .dcopyGo fn word => Sys2Proof.Machine.execDcopyGo fn word s
  | .dcopyDone fn => Sys2Proof.Machine.execDcopyDone fn s
  | .fabricCommit word => Sys2Proof.Machine.execFabricCommit word s
  | .fabricCommitDone table => Sys2Proof.Machine.execFabricCommitDone table s
  | .fabricHoldWrite mask => Sys2Proof.Machine.execFabricHoldWrite mask s
  | .fabricHeld pkg => Sys2Proof.Machine.execFabricHeld pkg s
  | .flitArrive port flit => Sys2Proof.Machine.execFlitArrive port flit s
  | .fabricRefusalReturn id cause => Sys2Proof.Machine.execFabricRefusalReturn id cause s
  | .fibreLoss port fibre => Sys2Proof.Machine.execFibreLoss port fibre s
  | .linkdownNotice port => Sys2Proof.Machine.execLinkdownNotice port s
  | .neighbourNotice port pkg => Sys2Proof.Machine.execNeighbourNotice port pkg s
  | .linkHoldTimeout id => Sys2Proof.Machine.execLinkHoldTimeout id s
  | .wavelengthBerCrossed port wave => Sys2Proof.Machine.execWavelengthBerCrossed port wave s
  | .wavelengthRetrainDone port wave ok => Sys2Proof.Machine.execWavelengthRetrainDone port wave ok s
  | .scTicketRequest pkg id => Sys2Proof.Machine.execScTicketRequest pkg id s
  | .scTicketGrant => Sys2Proof.Machine.execScTicketGrant s
  | .debugStop vf word => Sys2Proof.Machine.execDebugStop vf word s
  | .debugResume vf word => Sys2Proof.Machine.execDebugResume vf word s
  | .debugStep vf word => Sys2Proof.Machine.execDebugStep vf word s
  | .debugSave vf word => Sys2Proof.Machine.execDebugSave vf word s
  | .debugStopRecordPop vf => Sys2Proof.Machine.execDebugStopRecordPop vf s
  | .errBankClear fn bank => Sys2Proof.Machine.execErrBankClear fn bank s
  | .capAccept fn block val => Sys2Proof.Machine.execCapAccept fn block val s
  | .bootAuth => Sys2Proof.Machine.execBootAuth s
  | .bootVerifyDone => Sys2Proof.Machine.execBootVerifyDone s
  | .vfEnable n => Sys2Proof.Machine.execVfEnable n s
  | .vfDisable n => Sys2Proof.Machine.execVfDisable n s
  | .vfFlr vf => Sys2Proof.Machine.execVfFlr vf s
  | .pfFlr => Sys2Proof.Machine.execPfFlr s
  | .packageReset => Sys2Proof.Machine.execPackageReset s
  | .registerWrite fn block off val => Sys2Proof.Machine.execRegisterWrite fn block off val s
  | .linkup port => Sys2Proof.Machine.execLinkup port s
  | .loadResponse id => Sys2Proof.Machine.execLoadResponse id s

end Sys2Proof.Machine
end

