-- ==== Sys2Proof/Machine/Tick.lean ====
section
/-! DEFINITION. One clock of the machine: what falls due, what the engines may do, what they charge, and the issue slots (R37, R53, R55 to R57, R59, R60, R157, R210, R219, R220, R238, R241, R286, R295, R296, R311).

Events whose clock the spec fixes fall due in that clock. Of the engines' events that may happen in a clock, any number does, and which they are and in what order is open (log entry 1). -/

set_option Elab.async false

namespace Sys2Proof.Machine

/-! Numbers in use -/

/-- Partitions by number. -/
def partList : List Nat := List.range Config.partitions

/-- Dies by number. -/
def dieList : List Nat := [0, 1, 2, 3]

/-- Identifiers of blocks on cores. -/
def State.placedBlocks (s : State) : List Nat := (s.blocks.filter fun e => e.2.onCore).map (·.1)

/-- Warps of blocks on cores that have not exited. -/
def State.placedWarps (s : State) : List Nat := (s.warps.filter fun e => !e.2.exited && (s.blockOf e.2.bid).onCore).map (·.1)

/-- Quarters with an issue slot to give: those with resident warps, and those that keep a state. -/
def State.slotKeys (s : State) : List Nat :=
  sortNub (AL.keys s.quarters ++ s.placedWarps.map fun k => quarterKey (s.blockOf (s.warpOf k).bid).core (quarterOf k))

/-- The path that takes a quarter's next issue slot as things stand. -/
def State.slotPath (s : State) (k : Nat) : Option (Nat × Bool) :=
  let ws := s.quarterWarps (k / 4) (k % 4)
  (s.pickSlot (s.quarterOf' k) (sortNub (ws.map fun x => s.vfOfPath (x, false))) ((pathsOf ws).filter s.issuable)).path

/-- The index of the warp that takes a quarter's next issue slot; 32 for none. -/
def State.slotWarp (s : State) (k : Nat) : Nat :=
  match s.slotPath k with
  | some x => (s.warpOf x.1).idx
  | none => 32

/-- A quarter's next instruction is one that a core's quarters take in their order: an `mpair` or a `talloc` (R201, R426). -/
def State.byQuarter (s : State) (k : Nat) : Bool :=
  match s.slotPath k with
  | some x => match { s with cur := x.1, curB := x.2 }.fetchInstr with
    | .ok (.mpair .., _) | .ok (.talloc .., _) => true
    | _ => false
  | none => false

/-- The elements of a list that have a property make way, one after another, for those of a second list. -/
def fillIn (p : Nat → Bool) : List Nat → List Nat → List Nat
  | [], _ => []
  | k :: r, m :: ms => if p k then m :: fillIn p r ms else k :: fillIn p r (m :: ms)
  | l, [] => l

/-- The issue slots of a clock in their order: by core and then by warp, so that of the traps they deliver the one R280 reports comes first; but of the quarters that issue an `mpair` or a `talloc`, the lower goes first (R201, R426). -/
def State.slotOrder (s : State) (keys : List Nat) : List Nat :=
  let l := (sortNub (keys.map fun k => k / 4 * 1024 + s.slotWarp k * 4 + k % 4)).map fun e => e / 1024 * 4 + e % 4
  let q := sortNub keys
  if l == q then l else
    let ms := q.filter s.byQuarter
    fillIn ms.contains l ms

/-! Charges of the engines (R219, R220) -/

/-- Cause of a core's head matrix entry. -/
def State.matrixCause (s : State) (core : Nat) (e : MatEntry) : Nat :=
  let q := s.matQueue core
  if e.token.isSome then 0x42
  else if (e.paired || e.follower) && ((s.matQueue (partner core)).head?.map (·.id)) != some e.id then 0x43
  else if s.ctxBusy e.bid then 0x44
  else if !(s.tilesBeforeMat e).isEmpty then 0x45
  else if 4 ≤ q.length then 0x41
  else 0x40

/-- A path waits for a place in a copy queue. -/
def State.copyFull (s : State) (bid q : Nat) : Bool :=
  (pathsOf (s.warpsOf bid)).any fun x => ((s.warpOf x.1).path x.2).st == .operandWait (.copyPlace bid q)

/-- Cause of a copy queue. -/
def State.copyCause (s : State) (bid : Nat) (q : Nat) (e : CopyEntry) : Nat :=
  if e.hold.any fun h => s.mergeLive h.1 h.2 then 0x63
  else if !s.copiesGone bid e.after then 0x62
  else if (match e.nextSide with
    | some (w, _) => s.transferHeld bid q e w
    | none => false) then 0x64
  else if 16 ≤ ((s.blockOf bid).queue q).entries.length && s.copyFull bid q then 0x61
  else 0x60

/-- Cause of a bound stream queue: a fetch is in progress, at a line that it waits for too; no buffer is free; or nothing is left to fetch for now. -/
def State.streamCause (s : State) (wid n : Nat) : Nat :=
  match AL.get? (s.warpOf wid).q n with
  | none => 0x81
  | some q =>
    let more := q.bufs.length < 64 && q.pops + q.bufs.length < strEntries q.record
    if q.coming.isSome || (s.nextFetch wid n).isSome || (more && !s.beforeDone q.before) then 0x80
    else if more && s.freeBuffers (s.blockOf (s.warpOf wid).bid).core = 0 then 0x82
    else 0x81

/-- Cause of a VF's jig queue, whose entries are copy-engine entries (R219, R270). -/
def State.jigCause (s : State) (t : Task) (c : JigCopy) : Nat :=
  if c.hold.any fun h => s.mergeLive h.1 h.2 then 0x63
  else if c.far.isNone && !s.jigFree t c then 0x64
  else 0x60

/-- VFs with a hit whose copies are not complete. -/
def State.jigVfsOf (s : State) : List Nat := sortNub ((s.tasks.filter fun t => t.2.hitCopies.isSome).map fun t => t.2.vf)

/-! Line requests that can be served (R161, R296, R298) -/

/-- A line request can be taken at its home slice, or sent to its package, now: its turn has come there and in the schedule. -/
def State.canGo (s : State) (r : LineReq) : Bool := s.canServe r && s.tdmAllows r.vf r.dom r.line

/-- The way of a request over the crossbar: its cluster and its slice. -/
def State.reqWay (s : State) (r : LineReq) : Nat × Nat := (clusterOf r.core, s.homeSlice r.dom (r.line * 256))

/-- A request has still to cross the crossbar of this package. -/
def LineReq.crosses (r : LineReq) : Bool := r.stage == 0 && !spaRemote (r.line * 256)

/-- The line requests that can be served in this clock: those from one cluster to one slice arrive in the order sent (R298). -/
def State.servables (s : State) : List LineReq :=
  let l := s.mm.reqs.filter s.canGo
  let ways := (l.filter (·.crosses)).map fun q => (q.id, s.reqWay q)
  l.filter fun r => !(r.crosses && ways.any fun w => w.1 < r.id && w.2 == s.reqWay r)

/-- Cause of an outstanding line request: one whose turn has come, of those in `go`, waits for its memory. A request that has been performed awaits none of the causes of R220, and translation takes no clock here (log entry 80). -/
def reqCause (go : List Nat) (r : LineReq) : Option Nat :=
  let spa := r.line * 256
  if r.stage = 2 then none
  else if r.stage = 3 then some 0xA0
  else if spaRemote spa then some 0xA5
  else if !go.contains r.id then some 0xA2
  else some (if inTier spa then 0xA4 else 0xA3)

/-- The units the engines charge in a clock: VF and cause. -/
def State.engineUnits (s : State) : List (Nat × Nat) :=
  let go := s.servables.map (·.id)
  ((s.eng.matq.filter fun e => e.1 < Config.cores).filterMap fun (e : Nat × List MatEntry) => e.2.head?.map fun m => ((s.blockOf m.bid).vf, s.matrixCause e.1 m)) ++
  (s.blocks.flatMap fun b => b.2.queues.filterMap fun q => q.2.entries.head?.map fun e => (b.2.vf, s.copyCause b.1 q.1 e)) ++
  (s.jigVfsOf.filterMap fun v => (s.jigHead v).map fun h => (v, s.jigCause h.1 h.2)) ++
  (s.placedWarps.flatMap fun k => (s.warpOf k).q.map fun q => ((s.blockOf (s.warpOf k).bid).vf, s.streamCause k q.1)) ++
  s.mm.reqs.filterMap fun r => (reqCause go r).map fun c => (r.vf, c)

/-- Charge the engines' units. -/
def State.chargeEngines (s : State) : State := s.engineUnits.foldl (fun s u => s.charge u.1 u.2 1) s

/-- Quarters of a partition's cores without a slot of their own charge IDLE (R59). -/
def State.chargeIdle (s : State) (keys : List Nat) : State :=
  partList.foldl (fun (t : State) p =>
    let n := 4 * 12 * popc 32 (t.clustersOf p) - (keys.filter fun k => bitOf (t.clustersOf p) (clusterOf (k / 4))).length
    if n = 0 then t else t.chargePart p 13 n) s

/-! Stream records of blocks that start (R38, R216) -/

/-- Go on with one path that binds its stream records. -/
def State.launchPath (s : State) (wid : Nat) : State :=
  match (s.warpOf wid).pathA.st with
  | .operandWait (.launch n es bad) => s.launchStep wid n es bad
  | _ => s

/-! What falls due -/

/-- Events at fixed clocks, and those whose time has come. -/
def State.timed (s : State) : List Instr :=
  List.flatten [
    (if s.now % 2 ^ 36 = 0 then [.demeritDecay] else []),
    (if s.now % 2048 = 0 then [.tdmScheduleBoundary] else []),
    (if s.now % 256 = 0 then (AL.keys s.quarters).map fun k => .issueRoundBoundary (k / 4) (k % 4) else []),
    (s.quarters.flatMap fun q => ((AL.keys q.2.readySince).filter (s.vfOverdue q.1)).map fun v => .issueVfPromote (q.1 / 4) (q.1 % 4) v),
    ((pathsOf s.placedWarps).filter (fun x => s.pathOverdue x.1 x.2)).map (fun x => .issuePathPromote x.1 x.2),
    ((pathsOf s.placedWarps).filter (fun x => ((s.warpOf x.1).path x.2).yieldDue s.now)).map (fun x => .yieldWake x.1 x.2),
    ((AL.keys s.eng.active).filter s.canRest).map .coreRest,
    ((AL.keys s.warps).filter s.roleOverdue).map .checkRoleTimeout,
    ((AL.keys s.blocks).filter s.ageDue).map .clampAgeLimit,
    (partList.filter fun p => (s.targetDue p).isSome).map .gangTargetWindow,
    (s.fab.heldFlits.filter s.holdOver).map (fun h => .linkHoldTimeout h.1),
    s.fab.lost.map (fun e => .linkdownNotice e.1),
    (s.reporters.filter s.reportOverdue).map .reportFnPromote,
    s.commitOver.map .fabricCommitDone,
    (if s.now % 8 = 0 ∧ s.portBusy then [.reportRecordWrite] else [])]

/-- Pre-emptions that fall due: they come after the issue slots of their clock (R37). -/
def State.lateTimed (s : State) : List Instr :=
  ((AL.keys s.warps).filter s.runonOver).map .preemptRunonTimeout ++ (partList.filter fun p => (s.roomDue p).isSome).map .checkRoomPreempt

/-- What the distributor of a partition in service does in this clock (R50, R238): the start of a check run goes before everything else. -/
def State.distributor (s : State) (p : Nat) : List Instr :=
  if !s.partEn p then []
  else match s.nextCheck p with
    | some w => [if !w.start then .blockPlace p else if w.dowel then .dowelStart w.bid else .tenonStart w.bid]
    | none => if (s.ranked p).isEmpty then [] else [.blockPlace p]

/-- Grants of roles that can be made now, the longest wait first (R24, R26). -/
def State.roleGrants (s : State) : List Instr :=
  ((s.placedWarps.filter fun k => (s.roleReady k).isSome).foldl (fun (l : List (Nat × Nat)) k =>
    let t := (s.warpOf k).roleSince
    l.filter (·.1 ≤ t) ++ (t, k) :: l.filter fun e => t < e.1) []).map fun e => .roleGrant e.2

/-- Arbiters and schedulers that act in every clock in which they can. -/
def State.granting (s : State) : List Instr :=
  List.flatten [
    ((AL.keys s.posts).map .taskPostValidated),
    s.roleGrants,
    (dieList.filter fun d => (s.tokenNext d).isSome).map .startTokenGrant,
    ((AL.keys s.blocks).filter s.canSave).map .preemptSaveDone,
    (s.tasks.filter fun t => s.hitDue t.2.vf t.2.name && t.2.hitCopies == some []).map (fun t => .jigHitRetire t.2.vf t.2.name),
    partList.flatMap s.distributor,
    (partList.filter fun p => !(s.gangsDue p).isEmpty).map .gangStart]

/-! The engines -/

/-- What an engine may do in a clock: an event, a cached copy or translation given up, a tile message delivered, a transfer of a jig queue, or a request of another package performed. -/
inductive EngineAct where
  | ev (i : Instr)
  | dropL1 (key : Nat)
  | dropTlb1 (e : TlbEntry)
  | dropTlb2 (e : TlbEntry)
  | dropTlbN (e : TlbEntry)
  | tile (id dst : Nat)
  | jig (vf : Nat)
  | flit (port : Nat) (f : Flit)
  deriving DecidableEq, Repr

/-- Line requests and their answers. -/
def State.reqActs (s : State) : List Instr :=
  (s.servables.map fun r => .homeSliceRequest r.id) ++ s.mm.reqs.flatMap fun r => List.flatten [
    (if r.kind ≠ 0 ∧ r.stage = 2 then [.storeAck r.id] else []),
    (if r.kind = 0 ∧ (r.stage = 2 ∨ (r.stage = 3 ∧ (s.openBefore r).isEmpty)) then [.loadResponse r.id] else [])]

/-- Queues of the cores: matrix, copy and stream. -/
def State.coreActs (s : State) : List Instr :=
  List.flatten [
    ((AL.keys s.eng.matq).filter fun c => (s.matReady c).isSome).map .matrixQueueStep,
    ((sortNub (s.blocks.map fun b => b.2.core)).filter fun c => (s.copyNext c).isSome).map .copyLineTransfer,
    s.blocks.flatMap fun b => b.2.queues.flatMap fun q => List.flatten [
      (if s.copyDone b.1 q.1 then [.copyEntryComplete b.1 q.1] else []),
      (if q.2.entries.head?.any fun e => e.stop.isSome then [.copyEntryStop b.1 q.1] else [])],
    (s.placedWarps.flatMap fun k => ((AL.keys (s.warpOf k).q).filter (s.canFetch k)).map fun n => .streamFetch k n)]

/-- Ends of runs. -/
def State.runActs (s : State) : List Instr :=
  s.blocks.flatMap fun b => List.flatten [
    (if !b.2.isCheck && s.blockDone b.1 then [.blockComplete b.1] else []),
    (if s.checkEnded b.1 .tenon then [.tenonEnd b.1] else []),
    (if s.checkEnded b.1 .dowel then [.dowelEnd b.1] else [])]

/-- The write-back of a line goes to memory in a clock that is open to its owner (R296). -/
def State.writeBackTurn (s : State) (line : Nat) : Bool :=
  let d := (s.fotOf (line / 16)).owner
  s.tdmTakes (if d < Config.vfs then d else Config.pf) fun _ => false

/-- Control work in the background. -/
def State.controlActs (s : State) : List Instr :=
  List.flatten [
    ((sortNub (s.mm.dirty.map fun e => e.1 / 256)).filter s.writeBackTurn).map .writeBack,
    (AL.keys s.mm.switching).map .directorySwitchDone,
    (s.mm.invals.filter fun i => (s.invalReady i.vf i.stage2).isSome).map (fun i => .invalidationComplete i.vf (if i.stage2 then 2 else 1)),
    s.sweeps.map (fun e => .waySweepDone e.1 e.2),
    (partList.filter s.seedBusy).map .seedFlushDone,
    (if s.adoptReady.isSome then [.adoptDrainDone] else []),
    (if (s.keys.cmd.map (·.ready)) = some true then [.keyCommandDone] else []),
    ((sortNub (s.dcopy.map (·.fn))).filter fun f => (s.dcopyNext f).isSome).map .dcopyDone,
    (match s.fab.commit with
     | some (t, _, _) => [.fabricCommitDone t]
     | none => []),
    (if s.grantReady.isSome || !s.fab.tickets.isEmpty then [.scTicketGrant] else []),
    (if s.bstate = 1 then [.bootVerifyDone] else [])]

/-- Packages whose HOLD is set and whose HELD can be. -/
def State.holdActs (s : State) : List Instr :=
  if s.regs.any fun e => regKey Config.pf blkFabric (fabOff 16 + 0x9000) ≤ e.1 && e.1 < regKey Config.pf blkFabric (fabOff 16 + 0x9400) && e.2 != 0 then
    ((List.range 8192).filter s.heldReady).map .fabricHeld
  else []

/-- VFs whose jig queue can take a transfer (R270, R296). -/
def State.jigVfs (s : State) : List Nat :=
  s.jigVfsOf.filter fun v => match s.jigHead v with
    | some (t, c) => s.jigFree t c && (s.jigNext t c).all fun x => s.tdmAllows v x.2 (x.1 / 256)
    | none => false

/-- Everything an engine may do now. -/
def State.engineActs (s : State) : List EngineAct :=
  (s.reqActs ++ s.coreActs ++ s.runActs ++ s.controlActs ++ s.holdActs).map .ev ++
  (AL.keys s.mm.l1).map .dropL1 ++ s.mm.tlb1.map .dropTlb1 ++ s.mm.tlb2.map .dropTlb2 ++ s.mm.tlbN.map .dropTlbN ++
  ((s.eng.tileMsgs.filter s.tileTurn).map fun m => .tile m.id m.dst) ++ s.jigVfs.map .jig ++ s.inboxFree.map fun e => .flit e.1 e.2

/-- Do an engine's act: an event joins the agenda. -/
def State.act (s : State) : EngineAct → State
  | .ev i => { s with agenda := s.agenda ++ [i] }
  | .dropL1 k => s.modM fun m => { m with l1 := AL.del m.l1 k }
  | .dropTlb1 e => s.modM fun m => { m with tlb1 := m.tlb1.erase e }
  | .dropTlb2 e => s.modM fun m => { m with tlb2 := m.tlb2.erase e }
  | .dropTlbN e => s.modM fun m => { m with tlbN := m.tlbN.erase e }
  | .jig vf => s.jigStep vf
  | .flit p f => s.serveInbox (p, f)
  | .tile id dst => s.deliverTiles fun m => m.id == id && m.dst == dst && s.tileTurn m

/-- n of the acts, one after another, each by a free choice. -/
def State.actSome (l : List EngineAct) : Nat → State → State
  | 0, s => s
  | n + 1, s =>
    let (i, s1) := s.choose l.length
    match l[i]? with
    | some a => actSome l n (s1.act a)
    | none => actSome l n s1

/-- Any number of the engines' acts, by a free choice. -/
def State.engines (s : State) : State :=
  let l := s.engineActs
  let (n, s1) := s.choose (l.length + 1)
  s1.actSome l n

/-! The clock -/

/-- The place of an outside event after the issue slots of its clock (R37, R221): 0 none, 1 a debug stop, 2 a pre-emption, 3 a clearing of stall counters. -/
def lateRank (i : Instr) : Nat :=
  match i with
  | .debugStop _ _ => 1
  | .sliceEnd _ _ | .debugSave _ _ => 2
  | .stallClr _ => 3
  | _ => 0

/-- An outside event that is due and comes before the issue slots. -/
def State.dueEarly (s : State) (e : Nat × Instr) : Bool := e.1 ≤ s.now && lateRank e.2 == 0

/-- An outside event that is due and comes after the issue slots. -/
def State.dueLate (s : State) (e : Nat × Instr) : Bool := e.1 ≤ s.now && lateRank e.2 != 0

/-- Outside events that are due, of one place after the issue slots. -/
def State.dueOf (s : State) (n : Nat) : List Instr := ((s.inputs.filter fun e => s.dueLate e && lateRank e.2 == n).map fun (e : Nat × Instr) => e.2)

/-- Outside events of one place after the issue slots join the agenda. -/
def State.takeDue (s : State) (n : Nat) : State :=
  { s with agenda := s.agenda ++ s.dueOf n, inputs := s.inputs.filter fun e => !(s.dueLate e && lateRank e.2 == n) }

/-- What the clock still does once its issue slots are over: role waits that an exit or a smaller role has satisfied (R26), debug stops, the pre-emptions that were signalled or fall due, and clearings of counters, in this order (R37, R221). -/
def State.closing (s : State) : Option State :=
  if !s.roleGrants.isEmpty then some { s with agenda := s.roleGrants }
  else if !(s.dueOf 1).isEmpty then some (s.takeDue 1)
  else if !(s.signals.isEmpty && s.lateTimed.isEmpty && (s.dueOf 2).isEmpty) then some (State.takeDue { s.preemptSignalled with agenda := s.lateTimed } 2)
  else if !(s.dueOf 3).isEmpty then some (s.takeDue 3)
  else none

/-! Caches within their sizes (R1; which line leaves is the model's, log entry 11) -/

/-- Lines of a core's L1: the tile store less the banks of its blocks. -/
def State.l1Room (s : State) (core : Nat) : Nat := (64 - sumNat ((s.blocksOn core).map fun e => e.2.banks)) * 128

/-- No core's L1 holds more than it has room for. At most 1,024 lines in all fit everywhere. -/
def State.l1Trim (s : State) : State :=
  if s.mm.l1.length ≤ 1024 then s
  else
    let cores := sortNub (s.mm.l1.map fun e => e.1 / 2 ^ 44)
    let kept := cores.flatMap fun c => (s.mm.l1.filter fun e => e.1 / 2 ^ 44 == c).take (s.l1Room c)
    s.modM fun m => { m with l1 := kept }

/-- Ways that a domain's lines may be placed in, in a slice: its partition's mask (R302); the other domains have none. -/
def State.domWays (s : State) (dom k : Nat) : Nat :=
  match (if dom < Config.vfs then s.partOf dom else none) with
  | some p => s.ways p k
  | none => 0xFFFF

/-- Lines that the held versions of a partition's blocks take in a slice: a set's share there at most (R236). -/
def State.versionLines (s : State) (p k : Nat) : Nat :=
  sumNat ((s.blocks.filter fun e => s.partD e.2.vf == p).map fun e =>
    min (s.clampLines p k) (e.2.set.lines.filter fun l => !spaRemote (l * 256) && s.homeSlice (s.fotOf (l / 16)).owner (l * 256) == k).length)

/-- Take n lines of room from the ways of a mask, the lowest first. -/
def takeRoom (mask : Nat) (room : List Nat) (n : Nat) : List Nat :=
  ((room.zip (List.range 16)).foldl (fun (acc : List Nat × Nat) e =>
    let x := if bitOf mask e.2 then min acc.2 e.1 else 0
    (acc.1 ++ [e.1 - x], acc.2 - x)) ([], n)).1

/-- Room for cached lines in each way of a slice: 1,024 lines (R1), less the pinned tile lines and held versions in the ways of their partitions (R132, R236). -/
def State.wayRooms (s : State) (k : Nat) : List Nat :=
  partList.foldl (fun room p => takeRoom (s.ways p k) room (s.pinned p k + s.versionLines p k)) (List.replicate 16 1024)

/-- The places of a slice's lines, given the room in its ways: each stays in its way, a line without one comes into the first way of its domain that has room, and a line that finds none leaves. R302 does not say which (DESIGN CHOICE, log entry 100). -/
def State.placeLines (s : State) (k : Nat) : List (Nat × Nat × Option Nat) → List Nat → AL Nat × List Nat
  | [], _ => ([], [])
  | (l, dom, way) :: r, room =>
    let ok (w : Nat) : Bool := 0 < room.getD w 0
    let at_ := match way with
      | some w => if ok w then some w else none
      | none => (List.range 16).find? fun w => bitOf (s.domWays dom k) w && ok w
    match at_ with
    | some w => let (ws, out) := s.placeLines k r (room.set w (room.getD w 0 - 1)); ((l, w) :: ws, out)
    | none => let (ws, out) := s.placeLines k r room; (ws, l :: out)

/-- The cached lines that stand in no way yet. -/
def unplaced : AL Nat → AL Nat → AL Nat
  | [], _ => []
  | e :: r, w =>
    let w1 := w.dropWhile fun x => x.1 < e.1
    if (w1.head?.map (·.1)) == some e.1 then unplaced r w1 else e :: unplaced r w1

/-- The lines of a slice are placed: those that stand in a way before those that come, and what finds no room is written back and leaves. -/
def State.sliceTrim (s : State) (lines : List (Nat × Nat)) (k : Nat) : State :=
  let mine := lines.map fun e => (e.1, e.2, AL.get? s.mm.l2way e.1)
  let (ws, out) := s.placeLines k (mine.filter (·.2.2.isSome) ++ mine.filter (·.2.2.isNone)) (s.wayRooms k)
  out.foldl (fun (s : State) l => (s.writeBackLine l).leaveL2 l)
    (s.modM fun m => { m with l2way := ws.foldl (fun (t : AL Nat) e => AL.put t e.1 e.2) m.l2way })

/-- Lines that stand in the slices' ways or will: cached ones, pinned ones and held versions. -/
def State.l2Lines (s : State) : Nat :=
  s.mm.l2dom.length + sumNat (s.blocks.map fun e => e.2.set.lines.length +
    sumNat (e.2.tiles.map fun t => if tileLevel t.2.desc = 2 then tileGran t.2.desc else 0))

/-- No slice holds more than it has room for (R1, R302, R303). Where all lines together would fit into one way, only those that are new are placed. -/
def State.l2Trim (s : State) : State :=
  let new := unplaced s.mm.l2dom s.mm.l2way
  let few := s.l2Lines ≤ 1024
  if few && new.isEmpty then s
  else
    let placed := (if few then new else s.mm.l2dom).map fun e => (s.homeSlice e.2 (e.1 * 256), e.1, e.2)
    (sortNub (placed.map Prod.fst)).foldl (fun s k => s.sliceTrim ((placed.filter fun e => e.1 == k).map Prod.snd) k) s

/-- Every cache within its size. -/
def State.cacheTrims (s : State) : State := s.l1Trim.l2Trim

/-- Every block that is being saved: its warps stop as R286 says. -/
def State.stopSaving (s : State) : State :=
  ((s.blocks.filter fun b => b.2.st == .saving).map Prod.fst).foldl (fun s b => s.stopAll b) s

/-- The gangs that head their partitions, at the end of a clock (R53). -/
def State.trackHeads (s : State) : State :=
  (partList.filter fun p => s.partEn p || AL.has s.placers p).foldl (fun s p => s.trackHead p) s

/-- What the end of a clock leaves: warps that ran on and stand in a wait stopped (R286), the heads of the partitions (R53), operations of released sets whose time has come (R46), watched regions that nothing names released (R274), and caches within their sizes (R1, R253; log entry 11). -/
def State.endClock (s0 : State) : State :=
  let s := s0.stopSaving.trackHeads
  (s.sendOps [] s.sends).releaseRegions.ctrTrims.cacheTrims

/-- The clock goes on by one, and the outside events due join the agenda. -/
def State.advanceClock (s0 : State) : State :=
  let s := { s0 with clock := s0.clock + 1 }
  let due := s.inputs.filter s.dueEarly
  { s with inputs := s.inputs.filter (fun e => !s.dueEarly e), agenda := due.map Prod.snd, oldWeights := if s.now % 256 = 0 then [] else s.oldWeights }

/-! Engines that wait at held lines (R161) -/

/-- The lines that the engines' next accesses name. -/
def State.engineLines (s : State) : List (EngRef × Nat) :=
  List.flatten [
    (s.blocks.flatMap fun b => b.2.queues.filterMap fun q => q.2.entries.head?.bind fun e =>
      if s.entryFree b.1 e then (s.copyPlaceOf b.1 e).map fun x => (.copy b.1 q.1 e.id, x.1 / 256) else none),
    (s.placedWarps.flatMap fun k => (AL.keys (s.warpOf k).q).flatMap fun n => match s.nextFetch k n with
      | some (q, j) => if s.strLogged k q then [] else (s.entryLines (s.warpOf k).bid q j).map fun x => (.strm k n, x.1)
      | none => []),
    (s.jigVfsOf.filterMap fun v => (s.jigHead v).bind fun h => (s.jigNext h.1 h.2).map fun x => (.jig v h.1.name, x.1 / 256)),
    ((sortNub (s.dcopy.map (·.fn))).flatMap fun f => match s.dcopy.find? fun x => x.fn == f with
      | some x => match s.dcopyPlaces x with
        | (.ok p, _) => (s.busyLines.filter (x.reaches p)).map fun l => (.dcopy f, l)
        | _ => []
      | none => []),
    s.fab.inbox.map fun e => (flitRef e.2, e.2.addr / 256)]

/-- Engines whose lines are held keep their places there. -/
def State.keepPlaces (s : State) : State :=
  if s.mm.places.isEmpty && s.blocks.all fun b => b.2.set.lines.isEmpty then s else s.notePlaces s.engineLines

/-! The start of a clock -/

/-- What a new clock finds: the outside events due, instructions and waits that are over, operations that re-enter their queues, stream records bound, and engines that wait. -/
def State.newClock (s : State) : State :=
  let s1 := s.endClock.advanceClock.endSlows.endWaits.reenterMats
  (s1.placedWarps.foldl (fun s k => s.launchPath k) s1).keepPlaces

/-- The core and warp for which an engine's event may deliver a trap. -/
def State.actPlace (s : State) (i : Instr) : Option Nat :=
  let place (core wid : Nat) : Nat := core * 64 + wid % 32
  match i with
  | .homeSliceRequest id | .storeAck id | .loadResponse id => ((s.lineReq id).filter fun r => r.eng.isNone).map fun r => place r.core r.wid
  | .matrixQueueStep c => ((s.matQueue c).head?).map fun e => place c e.wid
  | .copyEntryStop b q => ((s.blockOf b).queue q).entries.head?.map fun e => place (s.blockOf b).core e.wid
  | _ => none

/-- Put an event among others, each with its place: before the first of a later place. -/
def putPlace (e : Nat × Instr) : List (Nat × Instr) → List (Nat × Instr)
  | [] => [e]
  | x :: r => if e.1 < x.1 then e :: x :: r else x :: putPlace e r

/-- The issue slots of a clock, with the engines' events that may deliver traps: by core and then by warp (R280). -/
def State.orderedActs (s : State) (slots : List Nat) (acts : List Instr) : List Instr :=
  ((acts.filterMap fun i => (s.actPlace i).map fun k => (2 * k, i)).foldl (fun l e => putPlace e l)
    (slots.map fun k => (2 * (k / 4 * 64 + s.slotWarp k) + 1, .issueSlot (k / 4) (k % 4)))).map Prod.snd

/-- One clock: the agenda holds what the following steps do in it. The engines' acts come first, but for those that may deliver a trap: they stand with the issue slots in the order of R280. -/
def State.tick (s : State) : State :=
  let s1 := s.newClock
  let keys := s1.slotKeys
  let s2 := (s1.chargeEngines).chargeIdle keys
  let s3 := { s2 with agenda := s2.agenda ++ s2.timed ++ s2.granting }
  let s4 := s3.engines
  let acts := s4.agenda.drop s3.agenda.length
  { s4 with agenda := s3.agenda ++ acts.filter (fun i => (s1.actPlace i).isNone) ++ s1.orderedActs (s1.slotOrder keys) acts }

end Sys2Proof.Machine
end

