-- ==== Sys2Proof/Machine/Load.lean ====
section
/-! DEFINITION. A program loaded from outside, for one instruction: a task with one block of one warp whose path issues next (log entry 10). -/

set_option Elab.async false

namespace Sys2Proof.Machine

/-- The VA and SPA of the loaded page. -/
def loadVa : Nat := 0x10000
def loadSpa : Nat := 0x1000

/-- The task record of the loaded program: code entry, one block of one warp, all 256 v registers. -/
def loadRecord : BitVec 2048 := BitVec.ofNat 2048 (loadVa + (1 + 2 ^ 16 + 2 ^ 32) * 2 ^ 128 + 32 * 2 ^ 192)

/-- The loaded program's task. -/
def loadTask : Task := { Task.idle with record := loadRecord, st := .running, placed := 1 }

/-- The loaded warp of block bid: every lane live and active at the code entry. -/
def loadWarp (bid now : Nat) : Warp :=
  { launchWarp loadTask bid 0 now with pathA := { (launchWarp loadTask bid 0 now).pathA with st := .ready } }

/-- Put bytes of memory behind the caches. -/
def State.loadBytes (s : State) (spa : Nat) (l : List Nat) : State :=
  s.modM fun m => { m with
    mem := Tbl.setBytes m.mem spa l
    dirty := m.dirty.filter fun e => !(spa ≤ e.1 && e.1 < spa + l.length)
    poison := m.poison.filter fun x => !(spa / 64 ≤ x && x ≤ (spa + l.length) / 64)
    sealDom := m.sealDom.filter fun e => !(spa / 64 ≤ e.1 && e.1 ≤ (spa + l.length) / 64)
    macBad := m.macBad.filter fun x => !(spa / 64 ≤ x && x ≤ (spa + l.length) / 64)
    treeBad := m.treeBad.filter fun x => x != spa / 4096
    upsets := m.upsets.filter fun e => !(spa / 64 ≤ e.1 && e.1 ≤ (spa + l.length) / 64) }

/-- The translation of the loaded page that core 0 holds. -/
def loadTlb : TlbEntry := ⟨0, 0, 0, loadVa, 4096, loadSpa, true, true, false⟩

/-- Load a program's bytes, and let its path take the next issue slot. -/
def State.loadProgram (s : State) (l : List Nat) : State :=
  let bid := s.nextId
  let s1 := s.loadBytes loadSpa l
  let b := newBlock loadTask 0 0 0 s.now
  { s1 with
    nextId := bid + 1
    tasks := AL.put s1.tasks (taskKey 0 0) loadTask
    blocks := AL.put s1.blocks bid { b with origin := bid }
    warps := AL.put s1.warps (bid * 32) (loadWarp bid s.now)
    mm := { s1.mm with tlb1 := tlbPut 512 s1.mm.tlb1 loadTlb }
    issue := some (bid * 32, false) }

end Sys2Proof.Machine
end

