-- ==== Sys2Proof/Machine/Step.lean ====
section
/-! DEFINITION. One step of the machine: an instruction issues, or an event of the clock happens, or a new clock begins. -/

set_option Elab.async false

namespace Sys2Proof.Machine

/-- The path that took the slot issues its instruction. -/
def State.issueStep (s : State) (x : Nat × Bool) : Host.Outcome State Fault Refusal :=
  match s.issueInstr x with
  | .error s1 => .next (s1.endStep x)
  | .ok (i, s1) =>
    match exec i s1 with
    | .next t => .next (t.afterIssue s1 i x)
    | o => o

/-- One step. With nothing left of a clock's agenda, the clock closes and the next one begins. -/
def step (s : State) : Host.Outcome State Fault Refusal :=
  match s.issue with
  | some x => s.issueStep x
  | none =>
    match s.agenda with
    | e :: r => exec e { s with agenda := r }
    | [] => .next (s.closing.getD s.tick)

/-- The instruction whose bits are w, zero above nbits, stored where the next step fetches. -/
def State.withFetchWord (s : State) (nbits w : Nat) : State :=
  s.loadProgram ((tableWords nbits w).flatMap bytesOfWord)

end Sys2Proof.Machine
end

