-- ==== Sys2Proof/Safety.lean ====
section
/-! DEFINITION. What a safe run is, the invariant that every step keeps, and the frames that statements speak of. -/

set_option Elab.async false

namespace Sys2Proof

/-- A step goes on. -/
def Machine.State.goesOn (s : Machine.State) : Bool :=
  match Machine.step s with
  | .next _ => true
  | _ => false

/-- A run of n steps neither faults nor is refused. -/
def safeRun : Nat → Machine.State → Bool
  | 0, _ => true
  | n + 1, s =>
    match Machine.step s with
    | .next t => safeRun n t
    | _ => false

namespace Machine

/-- The invariant of the machine: memory is in its canonical form. -/
def State.Inv (s : State) : Prop := Memory.wf s.mm.mem = true

/-! Frames -/

/-- A warp apart from its v, s, p and b registers, FPFLAGS, its rewind point and its two paths. -/
def Warp.rest (w : Warp) : Warp :=
  { w with v := [], s := [], p := [], b := [], fpflags := 0, point := none, pathA := Path.idle, pathB := Path.idle }

/-- A path apart from its PC, its signature (R226), and the mark of a wait that has ended. -/
def Path.rest (p : Path) : Path := { p with pc := 0, waited := false, sig := Sig.zero, folds := [] }

/-- A state apart from its warps, and from the registers and counters that an injected fault changes (R244). -/
def State.rest (s : State) : State := { s with warps := [], regs := [], chk := State.reset.chk }

/-- The key of the fault-injection register of the current block's core (R244). -/
def State.injKey (s : State) : Nat := regKey Config.pf blkRas (0x1000 + 8 * s.blk.core)

/-- Nothing outside the current warp differs, but for the injection register of its core and the count of injections (R244):
memory, tags, tiles, versions, queues, tasks, blocks, every other warp and every other register read as before. -/
def SameOutside (s t : State) : Prop :=
  t.rest = s.rest ∧ (∀ a, t.memByte a = s.memByte a) ∧ (∀ k, k ≠ s.cur → t.warpOf k = s.warpOf k) ∧
  (∀ k, k ≠ s.injKey → AL.get? t.regs k = AL.get? s.regs k) ∧
  t.chk = { s.chk with health := t.chk.health } ∧ ∀ k, k ≠ 0x490 → Tbl.get t.chk.health k = Tbl.get s.chk.health k

/-- Nothing of the current warp differs but the registers listed, FPFLAGS, the rewind point, and the issuing path's PC and signature:
MODE, FMT, masks, stacks, trap registers, queues, timestamps, roles and the other path read as before. -/
def SameWarp (l : List RegRef) (s t : State) : Prop :=
  t.w.rest = s.w.rest ∧ t.w.path (!s.curB) = s.w.path (!s.curB) ∧ t.path.rest = s.path.rest ∧
  (∀ k, .s k ∉ l → t.rS k = s.rS k) ∧ (∀ k i, i < 32 → .v k ∉ l → t.rV k i = s.rV k i) ∧
  (∀ k, .p k ∉ l → t.rP k = s.rP k) ∧ ∀ k, .b k ∉ l → t.rB k = s.rB k

/-- The frame of an instruction that writes the registers listed and nothing else. -/
def KeptBut (l : List RegRef) (s t : State) : Prop := SameOutside s t ∧ SameWarp l s t

/-- The issuing path goes on n bytes further, with the rewind point ended when a listed register is one it names (R282). -/
def Onward (l : List RegRef) (n : Nat) (s t : State) : Prop :=
  t.path.pc = s.path.pc + BitVec.ofNat 57 n ∧ t.w.point = if s.named l then none else s.w.point

/-- A scalar value as its register receives it: an injected fault flips a bit (R244). -/
def State.scalarIn (s : State) (x : DWord) : DWord := BitVec.ofNat 64 (flipAt 64 x.toNat (s.inject 1).1)

/-- A lane's value of n registers as they receive it: an injected fault flips a bit of one lane (R244). -/
def State.laneIn (s : State) (n i x : Nat) : Nat := if i = s.injLane then flipAt (32 * n) x (s.inject 0).1 else x

end Machine

end Sys2Proof
end

