-- ==== Sys2Proof/Certificates/Slice0/Obligations.lean ====
section
/-! DEFINITION. The statements for the provers, with the words they are said in.
A part of a statement that is said apart is a proposition of its own in `Sys2Proof.Claims`. -/

set_option Elab.async false

open Sys2Proof Sys2Proof.Machine

namespace Sys2Proof.Claims

/-! Encoding (R320, R321, R323, R327, R331, R332) and steps (R56, R149, R321, R326) -/

/-- The bytes of a list of words, in the order memory holds them (R7). -/
def wordBytes (ws : List Nat) : List Nat := ws.flatMap bytesOfWord

/-- Nothing differs but what the counter caches hold and under which domains lines stand in L2 (R253, R256): a read of memory fills them. -/
def SameButCaches (s t : State) : Prop := t = { s with mm := { s.mm with ctrCache := t.mm.ctrCache, l2dom := t.mm.l2dom } }

/-- No error waits in a sector: no upset, no poison, and no failure of its MAC or of its counters (R254, R255). -/
def CleanSector (s : State) (sec : Nat) : Prop :=
  AL.get? s.mm.upsets sec = none ∧ s.mm.poison.contains sec = false ∧ s.mm.macBad.contains sec = false ∧ Tbl.get s.mm.sideTop sec = 0 ∧
  s.mm.treeBad.contains (sec / 64) = false ∧ AL.get? s.mm.sealDom sec = none

/-- No error waits anywhere in memory, and every line of L2 stands there under the domain that owns its frame. -/
def ErrorFree (s : State) : Prop :=
  s.mm.upsets = [] ∧ s.mm.poison = [] ∧ s.mm.macBad = [] ∧ s.mm.sideTop = [] ∧ s.mm.treeBad = [] ∧ s.mm.sealDom = [] ∧
  ∀ l d, AL.get? s.mm.l2dom l = some d → d = (s.fotOf (l / 16)).owner

/-- A line is of an access's domain: that domain owns its frame (R139), and it does not stand in L2 under another (R256). -/
def LineFits (s : State) (line dom : Nat) : Prop := dom = (s.fotOf (line / 16)).owner ∧ ∀ d, AL.get? s.mm.l2dom line = some d → d = dom

/-- A code word lies in memory where the issuing path fetches it: its page is held translated by its core's first-level TLB and is executable, no error waits in its sector, its line is no other domain's,
and a task that is pure, or a check run, fetches it inside its code window (R141, R254, R256, R265, R321). -/
def HoldsWord (s : State) (va w : Nat) : Prop :=
  ((va + 2 ^ 57 - s.codeva) % 2 ^ 57 < 0x40000 ∨ (s.checkRun = false ∧ s.task.pureNow = false)) ∧
  ∃ e, tlbFind s.mm.tlb1 s.blk.core s.blk.vf va = some e ∧ e.x = true ∧
    let spa := e.spa + (va - e.va)
    spa % 4 = 0 ∧ spaRemote spa = false ∧ CleanSector s (spa / 64) ∧ LineFits s (spa / 256) e.dom ∧ leNat (s.memBytes spa 4) = w

/-- The words from the issuing path's PC on. -/
def HoldsWords (s : State) (ws : List Nat) : Prop :=
  ∀ k w, ws[k]? = some w → HoldsWord s ((s.path.pc.toNat + 4 * k) % 2 ^ 57) w

/-- A state in which a path takes the issue slot. -/
def issuingAt (s : State) (x : Nat × Bool) : State := { s with issue := none, cur := x.1, curB := x.2 }

/-- The state an instruction's meaning starts in: the clock of a vector instruction that has not waited is charged (R219), and the instruction counts in its path's lookahead windows (R326). -/
def countedIn (i : Instr) (u : State) : State :=
  if u.waitDone then u else (u.chargeVector i).modPath fun p => { p with windows := p.windows.map fun (e : Nat × Nat) => (e.1, e.2 - 1) }

/-- What a step does with what an instruction's meaning answers: the path's age and windows, the debug step's end and the quarter's yielding paths follow a next state (R56, R290, R462). -/
def issued (u : State) (i : Instr) (x : Nat × Bool) : Host.Outcome State Fault Refusal → Host.Outcome State Fault Refusal
  | .next t => .next (t.afterIssue u i x)
  | o => o

/-- R321: memory's bytes at the PC are the instruction that is fetched, unless its first word names a vector register that it may not (R64); the fetch changes nothing but what the counter caches and L2 hold. That the bytes are those of memory now is the model's choice (DESIGN CHOICE, log entry 24). -/
def FetchReadsTheBytesAtThePc : Prop :=
  ∀ (s : State) (ws : List Nat) (i : Instr), HoldsWords s ws → decodeBytes (wordBytes ws) = .ok (i, []) → (∀ w, ws[0]? = some w → s.firstWordBad w = false) →
    ∃ u, s.fetchInstr = .ok (i, u) ∧ SameButCaches s u

/-- R56, R326: a step in which a path issues runs the instruction its fetch decodes, in a state where that instruction counts in the lookahead windows; a wait before the instruction, a first word that is none or names a register that it may not,
and a path that is no longer to issue are the other cases. With no path to issue, a step runs the next event of the clock; with none left it closes the clock where the clock has more to do, and begins a new one otherwise: that order of a clock's events is the model's choice (DESIGN CHOICE, log entry 1). -/
def StepRunsTheDecodedInstructionRule : Prop :=
  (∀ (s : State) (x : Nat × Bool) (i : Instr) (u : State), s.issue = some x → (issuingAt s x).issuable x = true →
    (issuingAt s x).fetchInstr = .ok (i, u) →
    (u.waitDone = true ∨ u.gate i = none → step s = issued (countedIn i u) i x (exec i (countedIn i u))) ∧
    (u.waitDone = false → ∀ c, u.gate i = some c → step s = .next ((u.wait (.operandWait c)).endStep x))) ∧
  (∀ (s : State) (x : Nat × Bool) (w : Nat), s.issue = some x → (issuingAt s x).issuable x = true →
    HoldsWord (issuingAt s x) (issuingAt s x).path.pc.toNat w → (issuingAt s x).firstWordBad w = true →
    ∃ u, SameButCaches (issuingAt s x) u ∧ step s = .next ((u.rejectTrap w).endStep x)) ∧
  (∀ (s : State) (x : Nat × Bool), s.issue = some x → (issuingAt s x).issuable x = false → step s = .next ((issuingAt s x).endStep x)) ∧
  (∀ (s : State) (e : Instr) (l : List Instr), s.issue = none → s.agenda = e :: l → step s = exec e { s with agenda := l }) ∧
  ∀ s : State, s.issue = none → s.agenda = [] → (∀ t, s.closing = some t → step s = .next t) ∧ (s.closing = none → step s = .next s.tick)

end Sys2Proof.Claims

open Sys2Proof.Claims

/-- R323, R327, R329 to R331: words of the spec's worked encodings decode to the instructions they stand for, and the canonical fill to none. -/
def Obligations.WorkedEncodingsDecode : Prop :=
  decode 0x20050607 [] = .ok (.vadd 5 6 7) ∧ decode 0x38500203 [] = .ok (.vcmp .lt 1 2 3) ∧ decode 0x60C10204 [] = .ok (.ld 4 1 2 3) ∧
  decode 0x7C010C07 [] = .ok (.tld 4 12 7 0) ∧ decode 0x7E010C07 [] = .ok (.tst 12 7 4 0) ∧ decode 0x3D83C0A0 [] = .ok (.pcnt 10 15) ∧
  decode 0x54303FFE [] = .ok (.smovi 3 (-2)) ∧ decode 0x1410000F [0] = .ok (.mode 1 15) ∧ decode 0x08A00005 [] = .ok (.bs .z 10 5) ∧
  decode 0x04FFFFF8 [] = .ok (.bra (-8)) ∧ decode 0x0C400003 [0x28] = .ok (.vbr 1 3 40) ∧ decode 0x0023F000 [] = .ok (.ret 63) ∧
  decode 0x00280001 [] = .ok .qhelpOn ∧ decode 0x64 [] = .error .nonzeroField ∧ decode 0xFFFFFFFF [] = .error .reservedMajor

/-- R320, R321: the bytes of a well-formed instruction decode to it, whatever bytes follow, with every operand at every value its encoding admits. -/
def Obligations.DecodeOfEncode : Prop :=
  ∀ (i : Instr) (rest : List Nat), i.isInstruction = true → i.wf = true → decodeBytes (wordBytes (encode i) ++ rest) = .ok (i, rest)

/-- R331: bytes decode to an instruction only when they are its one encoding: no two words stand for one instruction, and no field of a decoded word is left out. -/
def Obligations.EncodeOfDecode : Prop :=
  ∀ (i : Instr) (bs rest : List Nat), (∀ b, b ∈ bs → b < 256) → decodeBytes bs = .ok (i, rest) →
    i.isInstruction = true ∧ i.wf = true ∧ bs = wordBytes (encode i) ++ rest

/-- R321: memory's bytes at the PC are the instruction that is fetched, unless its first word names a vector register that it may not (R64); the fetch changes nothing but what the counter caches and L2 hold. That the bytes are those of memory now is the model's choice (DESIGN CHOICE, log entry 24).
R56, R326: a step in which a path issues runs the instruction its fetch decodes, in a state where that instruction counts in the lookahead windows; a wait before the instruction, a first word that is none or names a register that it may not,
and a path that is no longer to issue are the other cases. With no path to issue, a step runs the next event of the clock; with none left it closes the clock where the clock has more to do, and begins a new one otherwise: that order of a clock's events is the model's choice (DESIGN CHOICE, log entry 1). -/
def Obligations.StepRunsTheDecodedInstruction : Prop := FetchReadsTheBytesAtThePc ∧ StepRunsTheDecodedInstructionRule

/-! Reset (R66, R153, R178, R185, R223, R295, R305, R317) -/

/-- What reset leaves, by the reset columns of the spec: CLOCK and BSTATE 0, nothing active, rings stopped, issue weights 16, quotas 64, leases 8, demerit thresholds 8 with 1 MiB log slots,
fault-free directory mode on every die, and no task, block or warp. -/
def Obligations.ResetLeavesTheSpecsValues : Prop :=
  State.reset.clock = 0 ∧ State.reset.bstate = 0 ∧ State.reset.tasks = [] ∧ State.reset.blocks = [] ∧ State.reset.warps = [] ∧
  (∀ fn blk, State.reset.blkActive fn blk = false) ∧
  (∀ vf, vf < 1024 → State.reset.weight vf = 16 ∧ State.reset.quota vf = 64 ∧ State.reset.partOf vf = none ∧
    State.reset.regBits vf blkXlate 0x58 17 17 = 1 ∧ State.reset.regBits vf blkXlate 0x78 17 17 = 1) ∧
  (∀ p, p < 24 → State.reset.partEn p = false ∧ State.reset.thresh p = 8 ∧ State.reset.logSlot p = 2 ^ 20 ∧ State.reset.hasCheckRegion p = false ∧
    State.reset.regBits Config.pf blkPart (partOff p + 0x1000) 7 0 = 8) ∧
  State.reset.regBits Config.pf blkPfxlate 0x18 17 17 = 1 ∧ State.reset.regBits Config.pf blkNotice 0x18 17 17 = 1 ∧
  ∀ d, d < 4 → State.reset.inDirMode d = true

/-- Memory is in its canonical form at reset: the invariant of `StepKeepsTheMemoryForm` holds there. -/
def Obligations.ResetMemoryIsCanonical : Prop := State.reset.Inv

/-- Every step keeps memory in its canonical form: addresses rising, and no byte listed that equals what an unlisted address reads as. -/
def Obligations.StepKeepsTheMemoryForm : Prop :=
  ∀ s t : State, s.Inv → step s = .next t → t.Inv

namespace Sys2Proof.Claims

/-! Register results: what the uniform instructions leave (R65, R66, R382, R392, R413, R416, R417) -/

/-- The scalar instructions: destination, value and length, by the arithmetic of R413, R416 and R417 on whole numbers. -/
def scalarOut (s : State) : Instr → Option (Nat × DWord × Nat)
  | .sadd d a b => some (d, BitVec.ofNat 64 ((s.rS a).toNat + (s.rS b).toNat), 4)
  | .ssub d a b => some (d, BitVec.ofInt 64 ((s.rS a).toNat - (s.rS b).toNat : Int), 4)
  | .smul d a b => some (d, BitVec.ofNat 64 ((s.rS a).toNat * (s.rS b).toNat), 4)
  | .sand d a b => some (d, s.rS a &&& s.rS b, 4)
  | .sor d a b => some (d, s.rS a ||| s.rS b, 4)
  | .sxor d a b => some (d, s.rS a ^^^ s.rS b, 4)
  | .sshl d a b => some (d, BitVec.ofNat 64 ((s.rS a).toNat * 2 ^ (s.rS b).toNat), 4)
  | .sshr d a b => some (d, BitVec.ofNat 64 ((s.rS a).toNat / 2 ^ (s.rS b).toNat), 4)
  | .sshrA d a b => some (d, BitVec.ofInt 64 ((s.rS a).toInt / (2 ^ (s.rS b).toNat : Nat)), 4)
  | .smin d a b => some (d, BitVec.ofInt 64 (min (s.rS a).toInt (s.rS b).toInt), 4)
  | .smax d a b => some (d, BitVec.ofInt 64 (max (s.rS a).toInt (s.rS b).toInt), 4)
  | .sminU d a b => some (d, BitVec.ofNat 64 (min (s.rS a).toNat (s.rS b).toNat), 4)
  | .smaxU d a b => some (d, BitVec.ofNat 64 (max (s.rS a).toNat (s.rS b).toNat), 4)
  | .smov d a => some (d, s.rS a, 4)
  | .smovi d imm => some (d, BitVec.ofInt 64 imm, 4)
  | .sliLo d lit => some (d, BitVec.ofNat 64 lit, 8)
  | .sliHi d lit => some (d, BitVec.ofNat 64 ((s.rS d).toNat % 2 ^ 32 + lit * 2 ^ 32), 8)
  | _ => none

/-- A condition of `scmp` on whole numbers (R413). -/
def scmpNum (c : SCond) (a b : DWord) : Prop :=
  match c with
  | .eq => a.toNat = b.toNat
  | .ne => a.toNat ≠ b.toNat
  | .lt => a.toInt < b.toInt
  | .le => a.toInt ≤ b.toInt
  | .gt => b.toInt < a.toInt
  | .ge => b.toInt ≤ a.toInt
  | .ltu => a.toNat < b.toNat
  | .leu => a.toNat ≤ b.toNat
  | .gtu => b.toNat < a.toNat
  | .geu => b.toNat ≤ a.toNat

/-- An instruction that writes one scalar register answers: s[d] takes x (s0 stays zero), the path goes on, and nothing else differs. -/
def ScalarAnswers (i : Instr) (s : State) (d : Nat) (x : DWord) (len : Nat) : Prop :=
  ∃ t, exec i s = .next t ∧ t.rS d = (if d = 0 then 0 else s.scalarIn x) ∧ t.w.fpflags = s.w.fpflags ∧
    Onward [.s d] len s t ∧ KeptBut [.s d] s t

/-- An instruction that writes one predicate register answers: p[d] takes x (p0 stays all ones), the path goes on, and nothing else differs. -/
def PredicateAnswers (i : Instr) (s : State) (d : Nat) (x : Word) : Prop :=
  ∃ t, exec i s = .next t ∧ t.rP d = (if d = 0 then 0xFFFFFFFF#32 else x) ∧ t.w.fpflags = s.w.fpflags ∧
    Onward [.p d] 4 s t ∧ KeptBut [.p d] s t

/-- A read of CLOCK or PTS that is neither logged nor taken from a log, in a task that is not pure now (R68). -/
def PlainRead (s : State) : Prop := s.checkRun = false ∧ s.logging = false ∧ s.task.pureNow = false

/-- The current warp and its block stand in the tables under their numbers. -/
def Stands (s : State) : Prop := AL.has s.warps s.cur = true ∧ AL.has s.blocks s.bid = true ∧ s.cur = s.bid * 32 + s.w.idx

/-- The run logs, and an entry of n payload bytes fits its log slot (R228). -/
def Logs (s : State) (n : Nat) : Prop := s.logging = true ∧ Stands s ∧ s.blk.logBytes + 8 + (n + 7) / 8 * 8 ≤ s.blk.logSize

/-- An entry as the issuing path logs it, at the end of its block's log (R229, R230). -/
def logEntry (s : State) (typ : Nat) (lmask : Word) (w : Nat) (payload : List Nat) (filled : Bool) : LogEntry :=
  ⟨typ, s.w.idx, s.curB, lmask, w, s.path.logSeq, payload, filled, false, s.path.accs, s.blk.logBytes⟩

/-- An entry whose value is to come, after a number of accesses of its path. -/
def logEntryAt (s : State) (typ : Nat) (lmask : Word) (w accs : Nat) : LogEntry :=
  ⟨typ, s.w.idx, s.curB, lmask, w, s.path.logSeq, [], false, false, accs, s.blk.logBytes⟩

/-- An entry of n payload bytes has been appended to the block's log, and memory has changed in the sectors of its place alone (R228). -/
def Logged (s t : State) (e : LogEntry) (n : Nat) : Prop :=
  t.blk.log = s.blk.log ++ [e] ∧ t.blk.logBytes = s.blk.logBytes + 8 + (n + 7) / 8 * 8 ∧ t.path.logSeq = s.path.logSeq + 1 ∧
  ∀ a, a / 64 ∉ sectorsOf (s.blk.logAt + s.blk.logBytes) (8 + (n + 7) / 8 * 8) → t.memByte a = s.memByte a

/-- A check run's next entry of the issuing path's stream (R233). -/
def Takes (s : State) (e : LogEntry) : Prop := s.checkRun = true ∧ s.w.recipe = false ∧ s.logNext = some e

/-- Every register of the current warp but those listed reads as before. -/
def RegistersBut (l : List RegRef) (s t : State) : Prop :=
  (∀ k, .s k ∉ l → t.rS k = s.rS k) ∧ (∀ k i, i < 32 → .v k ∉ l → t.rV k i = s.rV k i) ∧ (∀ k, .p k ∉ l → t.rP k = s.rP k) ∧ ∀ k, .b k ∉ l → t.rB k = s.rB k

/-- CLOCK (9), and PTS of the die the warp runs on (10) (R66). -/
def timeReg (s : State) (id : Nat) : DWord := if id = 9 then s.clock else BitVec.ofNat 64 (Tbl.get s.w.pts s.die).toNat

/-- The read of CLOCK or PTS with a trace beside its result (R66, R68, R230, R266): a mortise run logs the value, a check run takes the next entry's value and diverges where that entry is no such value,
and in a task that is pure the read traps PURITY with TE = 1 and clears PURE with TE = 0. `holds x t` says what a value x comes to in the destination. -/
def TimeIsLogged (i : Instr) (l : List RegRef) (id : Nat) (holds : DWord → State → Prop) (s : State) : Prop :=
  let u := if s.named l then s.noPoint else s
  let unpure : State → State := fun v => v.updTask s.blk.vf s.blk.task fun t => { t with pureNow := false }
  (Logs s 8 → s.task.pureNow = false →
    ∃ t, exec i s = .next t ∧ holds (timeReg s id) t ∧ Onward l 4 s t ∧ RegistersBut l s t ∧
      Logged s t (logEntry s leVal 0 3 (leBytes 8 (timeReg s id).toNat) true) 8) ∧
  (∀ e, Takes s e → e.is leVal 0 = true →
    ∃ t, exec i s = .next t ∧ holds (BitVec.ofNat 64 (leNat e.payload)) t ∧ Onward l 4 s t ∧ RegistersBut l s t ∧
      (AL.has s.warps s.cur = true → t.path.logSeq = s.path.logSeq + 1) ∧ SameOutside s t) ∧
  (∀ e, Takes s e → e.is leVal 0 = false → ¬ (e.typ = leVal ∧ e.lmask = purityMask) → exec i s = .next (u.diverge s.bid)) ∧
  (s.checkRun = false → s.logging = false → s.task.pureNow = true →
    (s.task.te = true → exec i s = .next ((unpure u).trap tcPurity 0)) ∧
    (s.task.te = false → exec i s = exec i (unpure s)))

/-- R413, R416, R417: every scalar arithmetic instruction completes with the value of its rule, wherever recipe mode does not forbid its destination (R284). -/
def ScalarResultsAndFrameRule : Prop :=
  ∀ (i : Instr) (s : State) (d : Nat) (x : DWord) (len : Nat), scalarOut s i = some (d, x, len) →
    s.recipeBlocks [.s d] = false → ScalarAnswers i s d x len

/-- R413: `scmp` writes 1 where its condition holds and 0 where it does not. -/
def ScalarCompareWritesZeroOrOne : Prop :=
  ∀ (c : SCond) (d a b : Nat) (s : State), s.recipeBlocks [.s d] = false →
    (scmpNum c (s.rS a) (s.rS b) → ScalarAnswers (.scmp c d a b) s d 1 4) ∧
    (¬ scmpNum c (s.rS a) (s.rS b) → ScalarAnswers (.scmp c d a b) s d 0 4)

/-- R392: predicate logic lane by lane, and the copies from a predicate or the low half of a scalar register. -/
def PredicateLogicResultsAndFrame : Prop :=
  ∀ (d a b : Nat) (s : State), s.recipeBlocks [.p d] = false →
    PredicateAnswers (.pand d a b) s d (s.rP a &&& s.rP b) ∧ PredicateAnswers (.por d a b) s d (s.rP a ||| s.rP b) ∧
    PredicateAnswers (.pxor d a b) s d (s.rP a ^^^ s.rP b) ∧ PredicateAnswers (.pnot d a) s d (~~~s.rP a) ∧
    PredicateAnswers (.pmovPP d a) s d (s.rP a) ∧
    PredicateAnswers (.pmovPS d a) s d (BitVec.ofNat 32 ((s.rS a).toNat % 2 ^ 32))

/-- R392, R451: what the lanes of a predicate come to in a scalar register: the mask, the count, the lowest set lane, and the votes of the lanes that are active under the guard. -/
def PredicateToScalarResultsAndFrame : Prop :=
  ∀ (d a : Nat) (s : State), s.recipeBlocks [.s d] = false →
    ScalarAnswers (.pmovSP d a) s d (BitVec.ofNat 64 (s.rP a).toNat) 4 ∧
    ScalarAnswers (.pcnt d a) s d (BitVec.ofNat 64 ((List.range 32).countP fun i => (s.rP a).getLsbD i)) 4 ∧
    (s.rP a = 0 → ScalarAnswers (.pffs d a) s d (BitVec.ofNat 64 (2 ^ 64 - 1)) 4) ∧
    (∀ i, i < 32 → (s.rP a).getLsbD i = true → (∀ j, j < i → (s.rP a).getLsbD j = false) → ScalarAnswers (.pffs d a) s d (BitVec.ofNat 64 i) 4) ∧
    ScalarAnswers (.vvote .ballot d a) s d (BitVec.ofNat 64 (s.rP a &&& s.activeGuarded).toNat) 4 ∧
    ((∀ i, s.activeGuarded.getLsbD i = true → (s.rP a).getLsbD i = true) → ScalarAnswers (.vvote .all d a) s d 1 4) ∧
    ((∃ i, s.activeGuarded.getLsbD i = true ∧ (s.rP a).getLsbD i = false) → ScalarAnswers (.vvote .all d a) s d 0 4) ∧
    ((∃ i, s.activeGuarded.getLsbD i = true ∧ (s.rP a).getLsbD i = true) → ScalarAnswers (.vvote .any d a) s d 1 4) ∧
    ((∀ i, s.activeGuarded.getLsbD i = true → (s.rP a).getLsbD i = false) → ScalarAnswers (.vvote .any d a) s d 0 4)

/-- R66, R68, R419: a special register other than LANE is read into a scalar register, CLOCK and PTS with what R68 says of checked and pure runs; an identifier that R66 does not list traps ILLOP. -/
def SpecialRegisterToScalar : Prop :=
  ∀ (d id : Nat) (s : State),
    (1 ≤ id → id ≤ 21 → id ≠ 9 → id ≠ 10 → s.recipeBlocks [.s d] = false → ScalarAnswers (.sregS d id) s d (s.special id) 4) ∧
    (id = 9 ∨ id = 10 → s.recipeBlocks [.s d] = false →
      (PlainRead s → ScalarAnswers (.sregS d id) s d (timeReg s id) 4) ∧
      TimeIsLogged (.sregS d id) [.s d] id (fun x t => t.rS d = if d = 0 then 0 else s.scalarIn x) s) ∧
    (id = 0 ∨ 22 ≤ id → exec (.sregS d id) s = .next s.illop)

/-- R284: in recipe mode an instruction that would write a register the rewind point names traps ILLOP instead. -/
def RecipeModeForbidsNamedRegisters : Prop :=
  ∀ (i : Instr) (s : State) (d : Nat) (x : DWord) (len : Nat), scalarOut s i = some (d, x, len) →
    s.w.recipe = true → s.named [.s d] = true → exec i s = .next s.illop

end Sys2Proof.Claims

/-- R392: predicate logic lane by lane, and the copies from a predicate or the low half of a scalar register.
R392, R451: what the lanes of a predicate come to in a scalar register: the mask, the count, the lowest set lane, and the votes of the lanes that are active under the guard.
R66, R68, R419: a special register other than LANE is read into a scalar register, CLOCK and PTS with what R68 says of checked and pure runs; an identifier that R66 does not list traps ILLOP. -/
def Obligations.PredicateAndSpecialResultsAndFrame : Prop := PredicateLogicResultsAndFrame ∧ PredicateToScalarResultsAndFrame ∧ SpecialRegisterToScalar

/-- R413, R416, R417: every scalar arithmetic instruction completes with the value of its rule, wherever recipe mode does not forbid its destination (R284).
R413: `scmp` writes 1 where its condition holds and 0 where it does not.
R284: in recipe mode an instruction that would write a register the rewind point names traps ILLOP instead. -/
def Obligations.ScalarResultsAndFrame : Prop := ScalarResultsAndFrameRule ∧ ScalarCompareWritesZeroOrOne ∧ RecipeModeForbidsNamedRegisters

namespace Sys2Proof.Claims

/-! Vector results (R17 to R19, R71, R94 to R103, R398, R399, R441 to R458) -/

/-- The v registers of n from d. -/
def destRegs (d n : Nat) : List RegRef := (List.range n).map fun j => .v (d + j)

/-- An instruction that writes lanes of n v registers from d answers: each lane of the mask takes its value and every other lane keeps its own,
the flags raised join FPFLAGS, the path goes on, and nothing else differs. -/
def VectorAnswers (i : Instr) (s : State) (d n len : Nat) (lanes : Word) (f : Nat → FRes) : Prop :=
  ∃ t, exec i s = .next t ∧
    (∀ j l, j < n → l < 32 → t.rV (d + j) l =
      if lanes.getLsbD l then BitVec.ofNat 32 (s.laneIn n l (f l).bits / 2 ^ (32 * j)) else s.rV (d + j) l) ∧
    t.w.fpflags = s.w.fpflags ||| BitVec.ofNat 6 (flagsOf ((lanesOf lanes).map f)) ∧
    Onward (destRegs d n) len s t ∧ KeptBut (destRegs d n) s t

/-- The instructions of two sources that act element by element: destination, sources, types they take, and what they do to an element. -/
def binaryForm : Instr → Option ((Nat × Nat × Nat) × (Nat → Bool) × (Ctl → Nat → Nat → FRes))
  | .vadd d a b => some ((d, a, b), etNum, eAdd)
  | .vsub d a b => some ((d, a, b), etNum, eSub)
  | .vmul d a b => some ((d, a, b), etNum, eMul)
  | .vmin d a b => some ((d, a, b), etNum, eMinMax false)
  | .vmax d a b => some ((d, a, b), etNum, eMinMax true)
  | .vdiv d a b => some ((d, a, b), etNum, eDiv)
  | .vshl d a b => some ((d, a, b), etInt, eShl)
  | .vshr d a b => some ((d, a, b), etInt, eShr)
  | .vmulhi d a b => some ((d, a, b), etInt, eMulhi)
  | .vand d a b => some ((d, a, b), etAny, fun _ x y => .exact (x &&& y))
  | .vor d a b => some ((d, a, b), etAny, fun _ x y => .exact (x ||| y))
  | .vxor d a b => some ((d, a, b), etAny, fun _ x y => .exact (x ^^^ y))
  | _ => none

/-- The instructions of one source that act element by element. -/
def unaryForm : Instr → Option ((Nat × Nat) × (Nat → Bool) × (Ctl → Nat → FRes))
  | .vabs d a => some ((d, a), etNum, eAbs)
  | .vneg d a => some ((d, a), etNum, eNeg)
  | .vnot d a => some ((d, a), etAny, fun c x => .exact (2 ^ c.n - 1 - x))
  | .vrcp d a => some ((d, a), etApprox, fun c x => c.fmt.approxF 0 c.ftz x)
  | .vrsq d a => some ((d, a), etApprox, fun c x => c.fmt.approxF 1 c.ftz x)
  | .vsqrt d a => some ((d, a), etFlt, fun c x => c.fmt.sqrtF c.rm c.ftz x)
  | .vexp2 d a => some ((d, a), etApprox, fun c x => c.fmt.approxF 2 c.ftz x)
  | .vlog2 d a => some ((d, a), etApprox, fun c x => c.fmt.approxF 3 c.ftz x)
  | .vsin d a => some ((d, a), etApprox, fun c x => c.fmt.approxF 4 c.ftz x)
  | .vcos d a => some ((d, a), etApprox, fun c x => c.fmt.approxF 5 c.ftz x)
  | .vpopc d a => some ((d, a), etInt, fun c x => .exact ((List.range c.n).countP fun i => bitOf x i))
  | .vclz d a => some ((d, a), etInt, fun c x => .exact (clz c.n x))
  | .vmov d a => some ((d, a), etAny, fun _ x => .exact x)
  | _ => none

/-- The lane exchanges: destination, source, and the lane that each lane reads (R399, R449, R458). -/
def exchangeForm : Instr → Option ((Nat × Nat) × (Nat → Nat))
  | .vshflUp d a k => some ((d, a), fun l => if k ≤ l then l - k else l)
  | .vshflDown d a k => some ((d, a), fun l => if l + k ≤ 31 then l + k else l)
  | .vshflXor d a k => some ((d, a), fun l => l ^^^ k)
  | .vbcast d a lane => some ((d, a), fun _ => lane)
  | .qbcast d a k => some ((d, a), fun l => 4 * (l / 4) + k)
  | .qswz d a sel => some ((d, a), fun l => 4 * (l / 4) + bits sel (2 * (l % 4) + 1) (2 * (l % 4)))
  | _ => none

/-- R441, R443 to R445: each element of each acting lane takes the operation of its instruction on the elements of the sources, under the type and rounding in force. -/
def VectorBinaryResultsAndFrameRule : Prop :=
  ∀ (i : Instr) (d a b : Nat) (ok : Nat → Bool) (f : Ctl → Nat → Nat → FRes) (s : State),
    binaryForm i = some ((d, a, b), ok, f) → ok s.ctl.et = true →
    let n := etRegs s.ctl.et
    (s.vRegsOk d n && s.vRegsOk a n && s.vRegsOk b n) = true → s.recipeBlocks (destRegs d n) = false →
    ∃ t, exec i s = .next t ∧
      (∀ l, l < 32 → s.acting.getLsbD l = false → ∀ j, j < n → t.rV (d + j) l = s.rV (d + j) l) ∧
      (∀ l, l < 32 → s.acting.getLsbD l = true → (l ≠ s.injLane ∨ (s.inject 0).1 = none) → ∀ k, k < 32 * n / s.ctl.n →
        t.vVal d n l / 2 ^ (s.ctl.n * k) % 2 ^ s.ctl.n =
          (f s.ctl (s.vVal a n l / 2 ^ (s.ctl.n * k) % 2 ^ s.ctl.n) (s.vVal b n l / 2 ^ (s.ctl.n * k) % 2 ^ s.ctl.n)).bits % 2 ^ s.ctl.n) ∧
      (∀ m, m < 6 → t.w.fpflags.getLsbD m = (s.w.fpflags.getLsbD m || (lanesOf s.acting).any fun l => (List.range (32 * n / s.ctl.n)).any fun k =>
        bitOf (f s.ctl (s.vVal a n l / 2 ^ (s.ctl.n * k) % 2 ^ s.ctl.n) (s.vVal b n l / 2 ^ (s.ctl.n * k) % 2 ^ s.ctl.n)).flags m)) ∧
      Onward (destRegs d n) 4 s t ∧ KeptBut (destRegs d n) s t

/-- R443: the same for the instructions of one source. -/
def VectorUnaryResultsAndFrame : Prop :=
  ∀ (i : Instr) (d a : Nat) (ok : Nat → Bool) (f : Ctl → Nat → FRes) (s : State),
    unaryForm i = some ((d, a), ok, f) → ok s.ctl.et = true →
    (s.vRegsOk d (etRegs s.ctl.et) && s.vRegsOk a (etRegs s.ctl.et)) = true → s.recipeBlocks (destRegs d (etRegs s.ctl.et)) = false →
    VectorAnswers i s d (etRegs s.ctl.et) 4 s.acting fun l => map1 s.ctl.et (f s.ctl) (s.vVal a (etRegs s.ctl.et) l)

/-- R445, R446: fused multiply-add and subtract, and the dot product, which also read their destination. -/
def VectorFusedResultsAndFrame : Prop :=
  ∀ (d a b : Nat) (s : State),
    let c := s.ctl
    let n := etRegs c.et
    let fused (f : Ctl → Nat → Nat → Nat → FRes) (l : Nat) : FRes := map3 c.et (f c) (s.vVal a n l) (s.vVal b n l) (s.vVal d n l)
    ((etNum c.et && s.vRegsOk d n && s.vRegsOk a n && s.vRegsOk b n) = true → s.recipeBlocks (destRegs d n) = false →
      VectorAnswers (.vfma d a b) s d n 4 s.acting (fused (eFma false)) ∧ VectorAnswers (.vfms d a b) s d n 4 s.acting (fused (eFma true))) ∧
    (3 ≤ c.et → c.et ≤ 7 → (s.vOk d && s.vOk a && s.vOk b) = true → s.recipeBlocks (destRegs d 1) = false →
      VectorAnswers (.vdot4 d a b) s d 1 4 s.acting fun l => dotRes c (s.rV a l).toNat (s.rV b l).toNat (s.rV d l).toNat)

/-- R68, R419, R447, R452, R455, R457: selection by the guard, bit fields, conversions, immediates, and special registers by lane. -/
def VectorDataResultsAndFrame : Prop :=
  ∀ (d a b : Nat) (s : State),
    let n := etRegs s.ctl.et
    ((s.vRegsOk d n && s.vRegsOk a n && s.vRegsOk b n) = true → s.recipeBlocks (destRegs d n) = false →
      VectorAnswers (.vsel d a b) s d n 4 (s.path.mask ||| s.helperLanes) fun l => .exact (if s.guardMask.getLsbD l then s.vVal a n l else s.vVal b n l)) ∧
    (s.path.modeET ≤ 1 → (s.vOk d && s.vOk a && s.vOk b) = true → s.recipeBlocks (destRegs d 1) = false →
      VectorAnswers (.vbfe d a b) s d 1 4 s.acting (fun l => .exact (bfeRes (s.path.modeET == 0) (s.rV a l).toNat (s.rV b l).toNat)) ∧
      VectorAnswers (.vbfi d a b) s d 1 4 s.acting fun l => .exact (bfiRes (s.rV a l).toNat (s.rV b l).toNat (s.rV d l).toNat)) ∧
    (s.vOk d = true → s.recipeBlocks (destRegs d 1) = false →
      (∀ imm : Int, VectorAnswers (.vmovi d imm) s d 1 4 s.acting fun _ => .exact (imm % 2 ^ 32).toNat) ∧
      (∀ lit : Nat, VectorAnswers (.vmoviLiteral d lit) s d 1 8 s.acting fun _ => .exact lit) ∧
      ∀ id : Nat, id ≤ 21 → id ≠ 9 → id ≠ 10 →
        VectorAnswers (.sregV d id) s d 1 4 s.acting fun l => .exact (if id = 0 then l else (s.special id).toNat % 2 ^ 32)) ∧
    (∀ id : Nat, id = 9 ∨ id = 10 → s.vOk d = true → s.recipeBlocks [.v d] = false →
      (PlainRead s → VectorAnswers (.sregV d id) s d 1 4 s.acting fun _ => .exact ((timeReg s id).toNat % 2 ^ 32)) ∧
      TimeIsLogged (.sregV d id) [.v d] id (fun x t => ∀ l, l < 32 → t.rV d l = if s.acting.getLsbD l = true then BitVec.ofNat 32 (s.laneIn 1 l (x.toNat % 2 ^ 32)) else s.rV d l) s) ∧
    ∀ ty : ElemType,
      let g := groupOf s.ctl.et (etCode ty)
      let ns := rangeRegs g s.ctl.et
      let nt := rangeRegs g (etCode ty)
      (s.vRegsOk d nt && s.vRegsOk a ns) = true → s.recipeBlocks (destRegs d nt) = false →
      VectorAnswers (.vcvt ty d a) s d nt 4 s.acting fun l =>
        packRes (etBits (etCode ty)) ((List.range g).map fun j => convElem s.ctl (etCode ty) (s.vVal a ns l / 2 ^ (s.ctl.n * j) % 2 ^ s.ctl.n))

/-- R17, R399, R449, R458: every lane acted on takes the 32 bits of the lane its instruction names; a lane that has exited supplies 0. -/
def LaneExchangeResultsAndFrame : Prop :=
  (∀ (i : Instr) (d a : Nat) (from_ : Nat → Nat) (s : State), exchangeForm i = some ((d, a), from_) →
    (s.vOk d && s.vOk a) = true → s.recipeBlocks (destRegs d 1) = false →
    VectorAnswers i s d 1 4 s.acting fun l => .exact (if s.w.live.getLsbD (from_ l) then (s.rV a (from_ l)).toNat else 0)) ∧
  ∀ (d a b : Nat) (s : State), (s.vOk d && s.vOk a && s.vOk b) = true → s.recipeBlocks (destRegs d 1) = false →
    VectorAnswers (.vshflIdx d a b) s d 1 4 s.acting fun l =>
      .exact (if s.w.live.getLsbD ((s.rV b l).toNat % 32) then (s.rV a ((s.rV b l).toNat % 32)).toNat else 0)

/-- R449, R450: every lane acted on takes the combination of the active lanes' elements: of all of them, or in a scan of those before it, itself apart when EXCL is set. -/
def ReductionResultsAndFrame : Prop :=
  ∀ (op : RedOp) (d a : Nat) (s : State),
    let n := etRegs s.ctl.et
    let taken (p : Nat → Bool) : FRes := redVal op s.ctl (((lanesOf s.activeGuarded).filter p).map fun j => s.vVal a n j)
    (redOk op s.ctl.et && s.vRegsOk d n && s.vRegsOk a n) = true → s.recipeBlocks (destRegs d n) = false →
    VectorAnswers (.vred op d a) s d n 4 s.acting (fun _ => taken fun _ => true) ∧
    VectorAnswers (.vscan op false d a) s d n 4 s.acting (fun l => taken fun j => decide (j ≤ l)) ∧
    VectorAnswers (.vscan op true d a) s d n 4 s.acting fun l => taken fun j => decide (j < l)

/-- R454: `vcmp` sets each acting lane's bit where the condition holds in every element, keeps the other lanes' bits, and joins its flags to FPFLAGS. -/
def VectorCompareResultsAndFrame : Prop :=
  ∀ (k : VCond) (p a b : Nat) (s : State),
    let n := etRegs s.ctl.et
    let cmp (l : Nat) : List (Bool × Nat) := ((elemsOf s.ctl.et (s.vVal a n l)).zip (elemsOf s.ctl.et (s.vVal b n l))).map fun x => eCmp k s.ctl x.1 x.2
    (etNum s.ctl.et && s.vRegsOk a n && s.vRegsOk b n) = true → s.recipeBlocks [.p p] = false →
    ∃ t, exec (.vcmp k p a b) s = .next t ∧
      (p ≠ 0 → ∀ l, l < 32 → (t.rP p).getLsbD l = if s.acting.getLsbD l then (cmp l).all (·.1) else (s.rP p).getLsbD l) ∧
      (∀ i, i < 6 → t.w.fpflags.getLsbD i = (s.w.fpflags.getLsbD i || (lanesOf s.acting).any fun l => (cmp l).any fun x => bitOf x.2 i)) ∧
      Onward [.p p] 4 s t ∧ KeptBut [.p p] s t

/-- R456: `vget` reads one lane into a scalar register, with the sign of a 32-bit signed type, and 0 from a lane that has exited;
`vput` writes one lane when it is on the path, whatever the guard. -/
def SingleLaneResultsAndFrame : Prop :=
  ∀ (d a lane : Nat) (s : State), lane < 32 →
    let n := etRegs s.path.modeET
    let x := if s.w.live.getLsbD lane then s.vVal a n lane else 0
    (s.vRegsOk a n = true → s.recipeBlocks [.s d] = false →
      ScalarAnswers (.vget d a lane) s d (if s.path.modeET = 0 then BitVec.ofInt 64 (sext 32 x) else BitVec.ofNat 64 x) 4) ∧
    (s.vRegsOk d n = true → s.recipeBlocks (destRegs d n) = false →
      VectorAnswers (.vput d a lane) s d n 4 (if s.path.mask.getLsbD lane then 1#32 <<< lane else 0) fun _ => .exact ((s.rS a).toNat % 2 ^ (32 * n)))

/-- R101: with element type i32, `vadd` delivers the exact sum modulo 2^32 with MODE.SAT = 0, and clamped to the range of the type with SAT = 1. -/
def IntegerAddWrapsOrClamps : Prop :=
  ∀ (d a b l : Nat) (s : State), s.path.modeET = 0 → (s.vOk d && s.vOk a && s.vOk b) = true → s.recipeBlocks [.v d] = false →
    l < 32 → s.acting.getLsbD l = true → (l ≠ s.injLane ∨ (s.inject 0).1 = none) →
    ∃ t, exec (.vadd d a b) s = .next t ∧
      (s.path.modeSAT = false → t.rV d l = s.rV a l + s.rV b l) ∧
      (s.path.modeSAT = true → (t.rV d l).toInt = max (-2 ^ 31) (min (2 ^ 31 - 1) ((s.rV a l).toInt + (s.rV b l).toInt)))

end Sys2Proof.Claims

/-- R443: the same for the instructions of one source.
R445, R446: fused multiply-add and subtract, and the dot product, which also read their destination.
R68, R419, R447, R452, R455, R457: selection by the guard, bit fields, conversions, immediates, and special registers by lane. -/
def Obligations.VectorUnaryFusedAndDataResultsAndFrame : Prop := VectorUnaryResultsAndFrame ∧ VectorFusedResultsAndFrame ∧ VectorDataResultsAndFrame

/-- R17, R399, R449, R458: every lane acted on takes the 32 bits of the lane its instruction names; a lane that has exited supplies 0.
R449, R450: every lane acted on takes the combination of the active lanes' elements: of all of them, or in a scan of those before it, itself apart when EXCL is set. -/
def Obligations.LaneExchangeAndReductionResultsAndFrame : Prop := LaneExchangeResultsAndFrame ∧ ReductionResultsAndFrame

/-- R454: `vcmp` sets each acting lane's bit where the condition holds in every element, keeps the other lanes' bits, and joins its flags to FPFLAGS.
R456: `vget` reads one lane into a scalar register, with the sign of a 32-bit signed type, and 0 from a lane that has exited;
`vput` writes one lane when it is on the path, whatever the guard. -/
def Obligations.VectorCompareAndSingleLaneResultsAndFrame : Prop := VectorCompareResultsAndFrame ∧ SingleLaneResultsAndFrame

/-- R441, R443 to R445: each element of each acting lane takes the operation of its instruction on the elements of the sources, under the type and rounding in force.
R101: with element type i32, `vadd` delivers the exact sum modulo 2^32 with MODE.SAT = 0, and clamped to the range of the type with SAT = 1. -/
def Obligations.VectorBinaryResultsAndFrame : Prop := VectorBinaryResultsAndFrameRule ∧ IntegerAddWrapsOrClamps

namespace Sys2Proof.Claims

/-! Control transfer (R23 to R26, R78 to R84, R276 to R284, R353, R358, R359, R363, R366, R391, R405 to R409, R462) -/

/-- Every register of the current warp reads as before. -/
def RegistersSame (s t : State) : Prop :=
  (∀ k, t.rS k = s.rS k) ∧ (∀ k i, i < 32 → t.rV k i = s.rV k i) ∧ (∀ k, t.rP k = s.rP k) ∧ ∀ k, t.rB k = s.rB k

/-- An instruction that only moves the issuing path answers: the path stands at an address, the rewind point, the flags and the signatures are as they were, and nothing else differs. -/
def PathMoves (i : Instr) (s : State) (pc : VAddr) : Prop :=
  ∃ t, exec i s = .next t ∧ t.path.pc = pc ∧ t.w.point = s.w.point ∧ t.w.fpflags = s.w.fpflags ∧
    t.path.sig = s.path.sig ∧ t.path.folds = s.path.folds ∧ KeptBut [] s t

/-- A condition of `bs` on the signed value (R359). -/
def bsNum (c : BsCond) (x : Int) : Prop :=
  match c with
  | .z => x = 0
  | .nz => x ≠ 0
  | .lt => x < 0
  | .ge => 0 ≤ x
  | .le => x ≤ 0
  | .gt => 0 < x

/-- Entry to the handler on the issuing path, with the trap registers written (R277, R278). -/
def EntersHandler (i : Instr) (s : State) (code : Nat) (xaddr : Nat) : Prop :=
  ∃ t, exec i s = .next t ∧ t.w.xpc = s.path.pc ∧ t.w.xfirst = s.path.pc ∧ t.w.xaddr = BitVec.ofNat 57 xaddr ∧ t.w.xcode = BitVec.ofNat 8 code ∧
    t.w.xmode = s.path.mode ∧ t.w.xfmt = s.path.fmt ∧ t.w.inHandler = true ∧ t.w.handlerB = s.curB ∧ t.w.point = none ∧
    t.path.pc = BitVec.ofNat 57 (s.codeva + s.task.trapoff) ∧ t.path.mode = Config.launchMode ∧ t.path.fmt = 0 ∧ t.path.st = .ready ∧
    t.path.mask = s.path.mask ∧ t.path.stack = s.path.stack ∧ (s.w.split = true → (t.w.path (!s.curB)).held = true) ∧
    t.w.live = s.w.live ∧ t.w.fpflags = s.w.fpflags ∧ RegistersSame s t ∧ SameOutside s t

/-- Two streams of one warp after a divergence at the top (R78, R79). -/
def SplitsInto (s t : State) (rc pcA pcB : VAddr) (maskA maskB : Word) (stackB : List StackEntry) : Prop :=
  t.w.split = true ∧ t.w.pathA.pc = pcA ∧ t.w.pathA.mask = maskA ∧ t.w.pathA.stack = [] ∧ t.w.pathA.st = .ready ∧
  t.w.pathB.pc = pcB ∧ t.w.pathB.mask = maskB ∧ t.w.pathB.stack = stackB ∧ t.w.pathB.st = .ready ∧
  t.w.pathA.mode = s.w.pathA.mode ∧ t.w.pathB.mode = s.w.pathA.mode ∧ t.w.pathA.fmt = s.w.pathA.fmt ∧ t.w.pathB.fmt = s.w.pathA.fmt ∧
  t.w.top.rpc = wordOff s.codeva rc ∧ t.w.top.dmask = 0 ∧ t.w.live = s.w.live ∧ t.w.fpflags = s.w.fpflags ∧ RegistersSame s t ∧ SameOutside s t

/-- One path that goes on with fewer lanes, with entries pushed for the rest (R78, R79). -/
def PushesEntries (s t : State) (pc : VAddr) (mask : Word) (es : List StackEntry) : Prop :=
  t.path.pc = pc ∧ t.path.mask = mask ∧ t.path.stack = es ++ s.path.stack ∧ t.path.mode = s.path.mode ∧ t.path.fmt = s.path.fmt ∧
  t.w.path (!s.curB) = s.w.path (!s.curB) ∧ t.w.split = s.w.split ∧ t.w.live = s.w.live ∧ t.w.fpflags = s.w.fpflags ∧ RegistersSame s t ∧ SameOutside s t
/-- The stack entries l below an entry meet at the same address: the innermost of them, or the top join of a split warp (R80). -/
def MeetsAt (s : State) (l : List StackEntry) (pc : VAddr) : Prop :=
  match l with
  | f :: _ => offAddr s.codeva f.rpc = pc
  | [] => s.w.split = true ∧ offAddr s.codeva s.w.top.rpc = pc

/-- The warp has exited, and no register, lane or exit of another warp, and no byte of memory, differs (R81). -/
def WarpGone (s t : State) : Prop :=
  t.w.exited = true ∧ t.w.live = 0 ∧ t.w.split = false ∧ t.w.pathA.st = .ended ∧ t.w.pathB.st = .ended ∧ t.w.point = none ∧ (∀ a, t.memByte a = s.memByte a) ∧
  ∀ k, k ≠ s.cur → (t.warpOf k).v = (s.warpOf k).v ∧ (t.warpOf k).s = (s.warpOf k).s ∧ (t.warpOf k).p = (s.warpOf k).p ∧ (t.warpOf k).b = (s.warpOf k).b ∧
    (t.warpOf k).live = (s.warpOf k).live ∧ (t.warpOf k).exited = (s.warpOf k).exited

/-- An `rwp` makes the rewind point: its own word and literal, at its own address, for the live lanes; recipe mode is over (R281, R284). -/
def MakesPoint (r : RwpArgs) (s : State) : Prop :=
  ∃ t p, exec (.rwp r) s = .next t ∧ t.path.pc = s.path.pc + 8 ∧ t.w.point = some p ∧ p.pc = s.w.pathA.pc ∧ p.live = s.w.live ∧
    p.word = rwpWord r ∧ p.lit = rwpLit r ∧ t.w.recipe = false ∧ RegistersSame s t ∧ SameOutside s t

/-- R78: a `vbr` whose lanes agree moves the path; one whose lanes differ splits an undiverged warp into two streams, pushes a serial entry in a split one, and traps ILLOP in recipe mode. -/
def VectorBranchDiverges : Prop :=
  ∀ (p : Nat) (off rc : Int) (s : State),
    let taken := s.path.mask &&& s.rP p
    let rest := s.path.mask &&& ~~~s.rP p
    let dest := BitVec.ofInt 57 (s.path.pc.toNat + 4 * off)
    let meet := BitVec.ofInt 57 (s.path.pc.toNat + 4 * rc)
    (rest = 0 → PathMoves (.vbr p off rc) s dest) ∧
    (rest ≠ 0 → taken = 0 → PathMoves (.vbr p off rc) s (s.path.pc + 8)) ∧
    (rest ≠ 0 → taken ≠ 0 → s.w.recipe = true → exec (.vbr p off rc) s = .next s.illop) ∧
    (rest ≠ 0 → taken ≠ 0 → s.w.recipe = false → s.w.split = false →
      ∃ t, exec (.vbr p off rc) s = .next t ∧ SplitsInto s t meet dest (s.path.pc + 8) taken rest []) ∧
    (rest ≠ 0 → taken ≠ 0 → s.w.recipe = false → s.w.split = true → s.path.stack.length < 16 → s.path.depth < 64 →
      ∃ t, exec (.vbr p off rc) s = .next t ∧ PushesEntries s t dest taken [s.path.entry s.codeva meet (s.path.pc + 8) rest]) ∧
    (rest ≠ 0 → taken ≠ 0 → s.w.recipe = false → s.w.split = true → 64 ≤ s.path.depth → exec (.vbr p off rc) s = .next (s.trap tcStack 0))

/-- R79: the lanes of a `vswitch` go to the partitions of their case bytes: one partition is a jump, and more become two streams with serial entries for the rest, or serial entries alone in a split warp. -/
def VectorSwitchDiverges : Prop :=
  ∀ (n va sb : Nat) (table : List Int) (s : State),
    let rc := BitVec.ofInt 57 (s.path.pc.toNat + 4 * ((n : Int) + 2))
    let ent (e : VAddr × Word) : StackEntry := s.path.entry s.codeva rc e.1 e.2
    s.vOk va = true →
    (∀ e, s.parts n va sb table = [e] → PathMoves (.vswitch n va sb table) s e.1) ∧
    (∀ e f r, s.parts n va sb table = e :: f :: r → s.w.recipe = true → exec (.vswitch n va sb table) s = .next s.illop) ∧
    (∀ e f r, s.parts n va sb table = e :: f :: r → s.w.recipe = false → s.w.split = false →
      ∃ t, exec (.vswitch n va sb table) s = .next t ∧ SplitsInto s t rc e.1 f.1 e.2 f.2 (r.map ent)) ∧
    (∀ e f r, s.parts n va sb table = e :: f :: r → s.w.recipe = false → s.w.split = true →
      s.path.stack.length + (r.length + 1) ≤ 16 → s.path.depth + (r.length + 1) ≤ 64 →
      ∃ t, exec (.vswitch n va sb table) s = .next t ∧ PushesEntries s t e.1 e.2 ((f :: r).map ent))

/-- R80: `join` away from a reconvergence address goes on; at its innermost entry's it runs the pending lanes, or merges the lanes that are done; at the top it waits for the other arm, or makes one path of the two. -/
def JoinReconverges : Prop :=
  ∀ s : State,
    (∀ e l, s.path.stack = e :: l → offAddr s.codeva e.rpc ≠ s.path.pc → PathMoves .join s (s.path.pc + 4)) ∧
    (s.path.stack = [] → ¬ (s.w.split = true ∧ offAddr s.codeva s.w.top.rpc = s.path.pc) → PathMoves .join s (s.path.pc + 4)) ∧
    (∀ e l, s.path.stack = e :: l → offAddr s.codeva e.rpc = s.path.pc → e.pmask &&& s.w.live ≠ 0 →
      ∃ t, exec .join s = .next t ∧ t.path.pc = offAddr s.codeva e.ppc ∧ t.path.mask = e.pmask &&& s.w.live ∧ t.path.mode = e.mode ∧ t.path.fmt = e.fmt ∧
        t.path.stack = { e with dmask := e.dmask ||| s.path.mask, pmask := 0 } :: l ∧ RegistersSame s t ∧ SameOutside s t) ∧
    (∀ e l, s.path.stack = e :: l → s.path.spilled = 0 → offAddr s.codeva e.rpc = s.path.pc → e.pmask &&& s.w.live = 0 →
      (e.dmask ||| s.path.mask) &&& s.w.live ≠ 0 → ¬ MeetsAt s l s.path.pc →
      ∃ t, exec .join s = .next t ∧ t.path.pc = s.path.pc + 4 ∧ t.path.mask = (e.dmask ||| s.path.mask) &&& s.w.live ∧ t.path.mode = e.mode ∧ t.path.fmt = e.fmt ∧
        t.path.stack = l ∧ RegistersSame s t ∧ SameOutside s t) ∧
    (s.path.stack = [] → s.w.split = true → offAddr s.codeva s.w.top.rpc = s.path.pc → (s.w.path (!s.curB)).st ≠ .ended →
      ∃ t, exec .join s = .next t ∧ t.path.st = .ended ∧ t.path.mask = 0 ∧ t.w.split = true ∧ t.w.top.dmask = s.w.top.dmask ||| s.path.mask ∧
        RegistersSame s t ∧ SameOutside s t) ∧
    (s.path.stack = [] → s.w.split = true → offAddr s.codeva s.w.top.rpc = s.path.pc → (s.w.path (!s.curB)).st = .ended →
      (s.w.top.dmask ||| s.path.mask) &&& s.w.live ≠ 0 →
      ∃ t, exec .join s = .next t ∧ t.w.split = false ∧ t.curB = false ∧ t.w.pathA.pc = s.path.pc + 4 ∧
        t.w.pathA.mask = (s.w.top.dmask ||| s.path.mask) &&& s.w.live ∧ t.w.pathA.mode = s.w.top.mode ∧ t.w.pathA.fmt = s.w.top.fmt ∧ t.w.pathA.stack = [] ∧
        t.w.pathB.st = .ended ∧ RegistersSame s t)

/-- R81, R363: `exit` completes for every warp that is not in recipe mode, and no lane of its path is live after it (a stack with entries in the spill region, which it may have to read back, is the one form not spoken of here).
A warp that is not split exits, and a barrier that waited for it alone completes (R31); an arm of a split warp ends at the top join, makes one path of the lanes the other arm left there, or exits with the warp;
inside a serial divergence the pending lanes run, the lanes that are done go on after the join, or the entry is popped with nobody left in it. -/
def ExitEndsLanes : Prop :=
  (∀ s : State, s.w.recipe = true → exec .exit s = .next s.illop) ∧
  ∀ s : State, s.w.recipe = false →
    let gone := s.path.mask
    let left := s.w.live &&& ~~~gone
    (s.path.spilled = 0 → ∃ t, exec .exit s = .next t ∧ (∀ l, l < 32 → gone.getLsbD l = true → t.w.live.getLsbD l = false) ∧ t.w.point = none ∧
      (s.blk.kind = .plain → ∀ a, t.memByte a = s.memByte a)) ∧
    (s.w.split = false → s.blk.kind = .plain → (∀ k, k ∈ s.warpsOf s.bid → (s.warpOf k).roleWaits = none) →
      ∃ t, exec .exit s = .next t ∧ WarpGone s t ∧
        ∀ n u, AL.has s.blocks s.bid = true → AL.get? s.gangs (s.gangKey s.blk) = none → s.blk.bars = [(n, u)] → u.count = none → u.arrived.getLsbD s.w.idx = false →
          (u.arrivals + 1 = u.expected → AL.get? t.blk.bars n = none ∧ ∀ j, j ∈ s.warpsOf s.bid → j ≠ s.cur → (s.warpOf j).pathA.barCounted n = true →
            (t.warpOf j).pathA.st = .ready ∧ (t.warpOf j).pathA.pc = (s.warpOf j).pathA.pc + 4) ∧
          (u.arrivals + 1 < u.expected → AL.get? t.blk.bars n = some { u with expected := u.expected - 1 })) ∧
    (s.w.split = true → s.path.stack = [] → (s.w.path (!s.curB)).st ≠ .ended →
      ∃ t, exec .exit s = .next t ∧ t.w.live = left ∧ t.path.st = .ended ∧ t.path.mask = 0 ∧ t.w.exited = s.w.exited ∧
        (t.w.path (!s.curB)).mask = (s.w.path (!s.curB)).mask &&& ~~~gone ∧ RegistersSame s t ∧ SameOutside s t) ∧
    (s.w.split = true → s.path.stack = [] → (s.w.path (!s.curB)).st = .ended → s.w.top.dmask &&& left ≠ 0 →
      ∃ t, exec .exit s = .next t ∧ t.w.live = left ∧ t.w.split = false ∧ t.curB = false ∧ t.w.pathA.pc = offAddr s.codeva s.w.top.rpc + 4 ∧ t.w.pathA.mask = s.w.top.dmask &&& left ∧
        t.w.pathA.mode = s.w.top.mode ∧ t.w.pathA.fmt = s.w.top.fmt ∧ t.w.pathA.stack = [] ∧ t.w.pathB.st = .ended ∧ RegistersSame s t ∧ SameOutside s { t with curB := s.curB }) ∧
    (s.w.split = true → s.path.stack = [] → (s.w.path (!s.curB)).st = .ended → s.w.top.dmask &&& left = 0 → s.blk.kind = .plain →
      (∀ k, k ∈ s.warpsOf s.bid → (s.warpOf k).roleWaits = none) → ∃ t, exec .exit s = .next t ∧ WarpGone s t) ∧
    ∀ e l, s.w.split = true → s.path.stack = e :: l →
      (e.pmask &&& left ≠ 0 → ∃ t, exec .exit s = .next t ∧ t.w.live = left ∧ t.path.pc = offAddr s.codeva e.ppc ∧ t.path.mask = e.pmask &&& left ∧ t.path.mode = e.mode ∧ t.path.fmt = e.fmt ∧
        t.path.stack.map (·.rpc) = s.path.stack.map (·.rpc) ∧ RegistersSame s t ∧ SameOutside s t) ∧
      (e.pmask &&& left = 0 → s.path.spilled = 0 → e.dmask &&& left ≠ 0 → ¬ MeetsAt s l (offAddr s.codeva e.rpc) →
        ∃ t, exec .exit s = .next t ∧ t.w.live = left ∧ t.path.pc = offAddr s.codeva e.rpc + 4 ∧ t.path.mask = e.dmask &&& left ∧ t.path.mode = e.mode ∧ t.path.fmt = e.fmt ∧
          t.path.stack.map (·.rpc) = l.map (·.rpc) ∧ RegistersSame s t ∧ SameOutside s t) ∧
      (e.pmask &&& left = 0 → s.path.spilled = 0 → e.dmask &&& left = 0 → exec .exit s = exec .exit (s.modPath fun p => { p with stack := l, mode := e.mode, fmt := e.fmt }))

/-- R462: `yield` puts the path to sleep past the instruction for at most 64 clocks, and raises the warp's timestamp for each die by LEASE + 1 (below 2^40, log entry 16); nothing else differs. -/
def YieldSleepsAndRaisesTimes : Prop :=
  ∀ s : State, ∃ t, exec .yield s = .next t ∧ t.path.st = .sleepYield (s.now + 64) ∧ t.path.pc = s.path.pc + 4 ∧
    (∀ d, d < 4 → (Tbl.get t.w.pts d).toNat = min (2 ^ 40 - 1) ((Tbl.get s.w.pts d).toNat + s.lease s.blk.vf + 1)) ∧
    t.w.point = s.w.point ∧ t.path.mask = s.path.mask ∧ t.path.mode = s.path.mode ∧ RegistersSame s t ∧ SameOutside s t

/-- R276 to R279, R358, R436: a `trap`, and a `brkpt` of a VF that is not debugged, enter the task's handler with the trap registers written and MODE and FMT at their launch values. -/
def SoftwareTrapsEnterTheHandler : Prop :=
  ∀ (a : Nat) (s : State), s.task.te = true → s.w.inHandler = false → s.w.recipe = false →
    EntersHandler (.trap a) s 0x0E ((s.rS a).toNat % 2 ^ 57) ∧
    (s.checkRun = false → s.den s.blk.vf = false → EntersHandler .brkpt s 0x0F 0)

/-- R279, R280: a recoverable trap with no handler, or inside one, kills the task of a block of the grid: none of its blocks is left, and its terminal record is queued. -/
def UnhandledTrapKillsTheTask : Prop :=
  ∀ (a : Nat) (s : State), s.w.recipe = false → s.task.te = false ∨ s.w.inHandler = true → s.blk.kind = .plain ∨ s.blk.kind = .mortise →
    s.taskLive s.blk.vf s.blk.task = true → s.task.termSent = false →
    ∃ t, exec (.trap a) s = .next t ∧ t.taskBlocks s.blk.vf s.blk.task = [] ∧ t.taskLive s.blk.vf s.blk.task = false ∧
      (∃ r, t.rep.term = s.rep.term ++ [⟨s.blk.vf, r, some (s.blk.vf, s.blk.task)⟩] ∧ bits r.toNat 7 0 = 0x10 ∧ bits r.toNat 15 8 = 0x0E) ∧
      ∀ a, t.memByte a = s.memByte a

/-- R290, R358: where debugging is enabled, `brkpt` stops its warp past the instruction, with a stop record; in a check run it does nothing. -/
def BreakpointStopsOrPasses : Prop :=
  ∀ s : State,
    (s.checkRun = true → PathMoves .brkpt s (s.path.pc + 4)) ∧
    (s.checkRun = false → s.den s.blk.vf = true → s.w.dbg = false → AL.has s.warps s.cur = true → s.blk.kind = .plain →
      ((AL.get? s.stops s.blk.vf).getD []).length < 16 →
      ∃ t r, exec .brkpt s = .next t ∧ t.w.dbg = true ∧ t.path.pc = s.path.pc + 4 ∧
        (AL.get? t.stops s.blk.vf).getD [] = (AL.get? s.stops s.blk.vf).getD [] ++ [r] ∧ bits r.toNat 19 0 = s.blk.task % 2 ^ 20 ∧ RegistersSame s t)

/-- R279, R362: `eret` goes back to the trapping path's instruction (past it after SOFT and BREAK), or to a code offset, with MODE and FMT as they were and the other path released; outside a handler it traps ILLOP, and so it does where the handler has split its warp or has not popped its stack entries. That an `eret` in a warp that was split at the trap goes on is the model's reading (DEDUCED, log entry 17: to its letter R362 would trap it). -/
def EretRestores : Prop :=
  ∀ (a : Nat) (s : State), s.w.recipe = false →
    (s.w.inHandler = false → exec (.eret a) s = .next s.illop) ∧
    (s.w.split = true → ((s.w.path (!s.curB)).held = false ∨ s.w.handlerDepth < s.path.depth) → exec (.eret a) s = .next s.illop) ∧
    (s.w.inHandler = true → (s.w.split = true → (s.w.path (!s.curB)).held = true ∧ s.path.depth ≤ s.w.handlerDepth) → (a ≠ 0 → (s.rS a).toNat % 4 = 0) →
      ∃ t, exec (.eret a) s = .next t ∧
        t.path.pc = (if a ≠ 0 then BitVec.ofNat 57 (s.codeva + (s.rS a).toNat)
          else if s.w.xcode.toNat = 0x0E ∨ s.w.xcode.toNat = 0x0F then s.w.xfirst + 4 else s.w.xfirst) ∧
        t.path.mode = s.w.xmode ∧ t.path.fmt = s.w.xfmt ∧ t.w.inHandler = false ∧ t.w.point = none ∧ (t.w.path (!s.curB)).held = false ∧
        t.path.mask = s.path.mask ∧ t.path.stack = s.path.stack ∧ t.w.xpc = s.w.xpc ∧ t.w.xcode = s.w.xcode ∧ RegistersSame s t ∧ SameOutside s t)

/-- R281, R284, R408, R409: `rwp` of an undiverged warp outside a handler makes the rewind point, of its own word and literal at its own address; in a handler or a split warp there is no point after it.
In recipe mode the `rwp` at the point's own address does so and ends the mode, and one at another address traps ILLOP; a v register beyond the allotment traps ILLOP too. -/
def RewindPointIsMade : Prop :=
  ∀ (r : RwpArgs) (s : State),
    (rwpVBad r s.w.allot = true → exec (.rwp r) s = .next s.illop) ∧
    (rwpVBad r s.w.allot = false → s.w.recipe = false →
      ((s.w.inHandler = false → s.w.split = false → MakesPoint r s) ∧
       (s.w.inHandler = true ∨ s.w.split = true →
        ∃ t, exec (.rwp r) s = .next t ∧ t.path.pc = s.path.pc + 8 ∧ t.w.point = none ∧ KeptBut [] s t))) ∧
    (rwpVBad r s.w.allot = false → s.w.recipe = true →
      (∀ p, s.w.point = some p → p.pc = s.path.pc → MakesPoint r s) ∧
      ((∀ p, s.w.point = some p → p.pc ≠ s.path.pc) → exec (.rwp r) s = .next s.illop))

/-- R18, R227, R284, R355, R356, R403, R415: the helper bit, the program's own signature record, and the records written to b registers; each of them traps ILLOP in recipe mode. -/
def HelperSignatureAndRecordWrites : Prop :=
  ∀ (d a b la : Nat) (s : State),
    (s.w.recipe = true → exec .qhelpOn s = .next s.illop ∧ exec .qhelpOff s = .next s.illop ∧ exec (.sigadd a) s = .next s.illop) ∧
    (s.recipeBlocks [.b d] = true → exec (.brec d a b la) s = .next s.illop ∧ exec (.brecr d a b la) s = .next s.illop) ∧
    (s.w.recipe = false →
      (∃ t, exec .qhelpOn s = .next t ∧ t.w.helper = true ∧ t.path.pc = s.path.pc + 4 ∧ t.w.point = none ∧ RegistersSame s t ∧ SameOutside s t) ∧
      (∃ t, exec .qhelpOff s = .next t ∧ t.w.helper = false ∧ t.path.pc = s.path.pc + 4 ∧ t.w.point = none ∧ RegistersSame s t ∧ SameOutside s t) ∧
      ∃ t, exec (.sigadd a) s = .next t ∧ t.path.pc = s.path.pc + 4 ∧ t.w.point = none ∧ KeptBut [] s t ∧
        (s.folds = true → s.path.folds = [] → t.path.sig = s.path.sig.fold 1 (0x1F :: leBytes 8 (s.rS a).toNat)) ∧
        (s.folds = false → t.path.sig = s.path.sig)) ∧
    (s.recipeBlocks [.b d] = false →
      (∃ t, exec (.brec d a b la) s = .next t ∧ t.rB d = BitVec.ofNat 128 ((s.rS a).toNat + (s.rS b).toNat * 2 ^ 64) ∧ Onward [.b d] 4 s t ∧ KeptBut [.b d] s t) ∧
      (∀ r, narrow (s.rB a) ((s.rS b).toNat % 2 ^ 32) ((s.rS b).toNat / 2 ^ 32) = some r →
        ∃ t, exec (.brecr d a b la) s = .next t ∧ t.rB d = r ∧ recExtent r = (s.rS b).toNat / 2 ^ 32 % 2 ^ 32 ∧ Onward [.b d] 4 s t ∧ KeptBut [.b d] s t))

/-- R69, R70, R382: `mode` and `modex` replace one field of MODE, or clear bits of FPFLAGS under selector 8; a reserved field value, a value too wide, or recipe mode traps ILLOP. -/
def ModeWritesOneField : Prop :=
  ∀ (sel val a : Nat) (s : State),
    let bad (v : Nat) : Bool := s.w.recipe || 9 ≤ sel || 2 ^ modeWidth sel ≤ v || (sel != 8 && !modeLegal (modeNew s.path.mode.toNat sel v))
    let done (i : Instr) (v len : Nat) : Prop := ∃ t, exec i s = .next t ∧ t.path.pc = s.path.pc + BitVec.ofNat 57 len ∧ t.w.point = none ∧
      (sel = 8 → t.w.fpflags = s.w.fpflags &&& ~~~BitVec.ofNat 6 v ∧ t.path.mode = s.path.mode) ∧
      (sel ≠ 8 → t.w.fpflags = s.w.fpflags ∧ t.path.mode = BitVec.ofNat 32 (modeNew s.path.mode.toNat sel v)) ∧
      t.path.fmt = s.path.fmt ∧ t.path.mask = s.path.mask ∧ RegistersSame s t ∧ SameOutside s t
    (bad val = false → done (.mode sel val) val 8) ∧ (bad val = true → exec (.mode sel val) s = .next s.illop) ∧
    (bad (s.rS a).toNat = false → done (.modex sel a) (s.rS a).toNat 4) ∧ (bad (s.rS a).toNat = true → exec (.modex sel a) s = .next s.illop)

/-- R75, R376: `mfmt` writes FMT from a scalar register when every field is legal, and traps ILLOP when one is not or in recipe mode. -/
def FmtWrite : Prop :=
  ∀ (a : Nat) (s : State),
    (s.w.recipe = false → fmtLegal (s.rS a).toNat = true →
      ∃ t, exec (.mfmt a) s = .next t ∧ t.path.fmt = (s.rS a).setWidth 32 ∧ t.path.mode = s.path.mode ∧ t.path.pc = s.path.pc + 4 ∧ t.w.point = none ∧
        t.w.fpflags = s.w.fpflags ∧ RegistersSame s t ∧ SameOutside s t) ∧
    (s.w.recipe = true ∨ fmtLegal (s.rS a).toNat = false → exec (.mfmt a) s = .next s.illop)

/-- R22 to R25, R406: a role that does not grow, or whose growth fits while no other warp of the share waits, is granted at once: allotment, class and entry point, with the registers that stay in the allotment, and new ones that read zero.
A growth that does not fit, or comes after another wait, waits with its allotment whole; the only live warp of its block in its quarter traps ROLE instead. An undefined role, or one in a split warp, traps ROLE. -/
def RoleIsGranted : Prop :=
  ∀ (n : Nat) (s : State), s.w.recipe = false → s.blk.kind = .plain →
    (s.w.split = true ∨ roleCount s.task.record ≤ n → exec (.role n) s = .next (s.noPoint.trap tcRole 0)) ∧
    (s.w.split = false → n < roleCount s.task.record → s.w.pend = [] → s.curB = false →
      (s.task.roleV n ≤ s.w.allot ∨ (s.oldestRole s.bid (quarterOf s.cur) = none ∧ s.roleFits s.cur n = true)) →
      ∃ t, exec (.role n) s = .next t ∧ t.w.allot = s.task.roleV n ∧ t.w.role = n ∧ t.w.prio = rolePrio s.task.record n ∧
        t.path.pc = BitVec.ofNat 57 (s.task.codeva + roleEntry s.task.record n) ∧ t.path.st = .ready ∧ t.w.point = none ∧
        (∀ k i, i < 32 → k < min s.w.allot (s.task.roleV n) → t.rV k i = s.rV k i) ∧ (∀ k i, i < 32 → min s.w.allot (s.task.roleV n) ≤ k → t.rV k i = 0) ∧
        (∀ k, t.rS k = s.rS k) ∧ (∀ k, t.rP k = s.rP k) ∧ SameOutside s t) ∧
    (s.w.split = false → n < roleCount s.task.record → s.w.pend = [] → s.curB = false → s.w.allot < s.task.roleV n →
      ((s.oldestRole s.bid (quarterOf s.cur)).isSome = true ∨ s.roleFits s.cur n = false →
        (∃ k, k ∈ s.liveWarps s.bid ∧ quarterOf k = quarterOf s.cur ∧ k ≠ s.cur ∧ (s.warpOf k).roleWaits = none) →
        ∃ t, exec (.role n) s = .next t ∧ t.path.st = .roleWait n ∧ t.path.pc = s.path.pc ∧ t.w.allot = s.w.allot ∧ t.w.role = s.w.role ∧ t.w.roleSince = s.now ∧
          t.w.point = none ∧ RegistersSame s t ∧ SameOutside s t) ∧
      ((s.liveWarps s.bid).filter (fun k => quarterOf k == quarterOf s.cur) = [s.cur] → s.roleFits s.cur n = false → s.task.te = true → s.w.inHandler = false →
        EntersHandler (.role n) s 0x09 0))

end Sys2Proof.Claims

/-- R391: `nop` is the word 0x0000_0000, and a non-zero LA, SA, SB or SC beside its F field is no instruction; it has no effect, keeps the rewind point valid, is legal in recipe mode, and folds nothing into the signatures. -/
def Obligations.NopRule : Prop :=
  decode 0 [] = .ok .nop ∧
  (∀ la sa sb sc : Nat, la < 16 → sa < 64 → sb < 64 → sc < 64 →
    decode (la * 2 ^ 22 + sa * 2 ^ 12 + sb * 2 ^ 6 + sc) [] = if la = 0 ∧ sa = 0 ∧ sb = 0 ∧ sc = 0 then .ok .nop else .error .nonzeroField) ∧
  ∀ s : State, PathMoves .nop s (s.path.pc + 4)

/-- R366: `jmpr` is major 0x00, F = 9, with LA, SB and SC zero, and 0x0024_C000 is `jmpr s12`; PC becomes (CODEVA + s[SA]) mod 2^57, or ILLOP is trapped before any effect when s[SA] mod 4 ≠ 0;
the guard has no part in it, only the issuing path's PC moves, it never splits, it is legal in recipe mode, and it leaves the rewind point valid. -/
def Obligations.JmprRule : Prop :=
  decode 0x0024C000 [] = .ok (.jmpr 12) ∧
  (∀ la sa sb sc : Nat, la < 16 → sa < 64 → sb < 64 → sc < 64 →
    decode (la * 2 ^ 22 + 9 * 2 ^ 18 + sa * 2 ^ 12 + sb * 2 ^ 6 + sc) [] = if la = 0 ∧ sb = 0 ∧ sc = 0 then .ok (.jmpr sa) else .error .nonzeroField) ∧
  ∀ (a : Nat) (s : State),
    ((s.rS a).toNat % 4 = 0 → PathMoves (.jmpr a) s (BitVec.ofNat 57 (s.codeva + (s.rS a).toNat))) ∧
    ((s.rS a).toNat % 4 ≠ 0 → exec (.jmpr a) s = .next s.illop)

/-- R359: `bs` is major 0x02 in format BS with six conditions on the signed value of s[SA] against zero, and 6 and 7 are no instruction; 0x084B_FFFA is `bs gt, s4` to six words back.
Where the condition holds, PC becomes the first byte plus 4 × sext(OFF17), and execution falls through otherwise; the guard has no part in it, it waits while either path's pending access owes s[SA], it never splits, it is legal in recipe mode, and it leaves the rewind point valid. -/
def Obligations.BsRule : Prop :=
  decode 0x084BFFFA [] = .ok (.bs .gt 4 (-6)) ∧
  (∀ sa cond off : Nat, sa < 64 → cond < 8 → off < 2 ^ 17 →
    decode (0x02 * 2 ^ 26 + sa * 2 ^ 20 + cond * 2 ^ 17 + off) [] =
      match [BsCond.z, .nz, .lt, .ge, .le, .gt][cond]? with
      | some c => .ok (.bs c sa (if off < 2 ^ 16 then (off : Int) else (off : Int) - 2 ^ 17))
      | none => .error .reservedSelector) ∧
  ∀ (c : BsCond) (a : Nat) (off : Int) (s : State),
    (bsNum c (s.rS a).toInt → PathMoves (.bs c a off) s (BitVec.ofInt 57 (s.path.pc.toNat + 4 * off))) ∧
    (¬ bsNum c (s.rS a).toInt → PathMoves (.bs c a off) s (s.path.pc + 4)) ∧
    ((∃ p, p ∈ s.w.pend ∧ .s a ∈ p.regs) → ∃ w, s.gate (.bs c a off) = some w)

/-- R353, R354, R405: direct branches by a word offset, the return, and the call with its link in s63. -/
def Obligations.BranchesMoveOnlyThePath : Prop :=
  ∀ (s : State) (off : Int) (a : Nat),
    PathMoves (.bra off) s (BitVec.ofInt 57 (s.path.pc.toNat + 4 * off)) ∧
    ((s.rS a).toNat % 4 = 0 → PathMoves (.ret a) s (BitVec.ofNat 57 (s.codeva + (s.rS a).toNat))) ∧
    ((s.rS a).toNat % 4 ≠ 0 → exec (.ret a) s = .next s.illop) ∧
    (s.recipeBlocks [.s 63] = false → ∃ t, exec (.call off) s = .next t ∧
      t.path.pc = BitVec.ofInt 57 (s.path.pc.toNat + 4 * off) ∧
      t.rS 63 = s.scalarIn (BitVec.ofNat 64 ((s.path.pc.toNat + 2 ^ 57 - s.codeva) % 2 ^ 57 + 4)) ∧ KeptBut [.s 63] s t)

/-- R78: a `vbr` whose lanes agree moves the path; one whose lanes differ splits an undiverged warp into two streams, pushes a serial entry in a split one, and traps ILLOP in recipe mode.
R79: the lanes of a `vswitch` go to the partitions of their case bytes: one partition is a jump, and more become two streams with serial entries for the rest, or serial entries alone in a split warp.
R80: `join` away from a reconvergence address goes on; at its innermost entry's it runs the pending lanes, or merges the lanes that are done; at the top it waits for the other arm, or makes one path of the two. -/
def Obligations.DivergenceAndJoins : Prop := VectorBranchDiverges ∧ VectorSwitchDiverges ∧ JoinReconverges

/-- R81, R363: `exit` completes for every warp that is not in recipe mode, and no lane of its path is live after it (a stack with entries in the spill region, which it may have to read back, is the one form not spoken of here).
A warp that is not split exits, and a barrier that waited for it alone completes (R31); an arm of a split warp ends at the top join, makes one path of the lanes the other arm left there, or exits with the warp;
inside a serial divergence the pending lanes run, the lanes that are done go on after the join, or the entry is popped with nobody left in it.
R462: `yield` puts the path to sleep past the instruction for at most 64 clocks, and raises the warp's timestamp for each die by LEASE + 1 (below 2^40, log entry 16); nothing else differs. -/
def Obligations.ExitAndYield : Prop := ExitEndsLanes ∧ YieldSleepsAndRaisesTimes

/-- R276 to R279, R358, R436: a `trap`, and a `brkpt` of a VF that is not debugged, enter the task's handler with the trap registers written and MODE and FMT at their launch values.
R279, R280: a recoverable trap with no handler, or inside one, kills the task of a block of the grid: none of its blocks is left, and its terminal record is queued.
R290, R358: where debugging is enabled, `brkpt` stops its warp past the instruction, with a stop record; in a check run it does nothing.
R279, R362: `eret` goes back to the trapping path's instruction (past it after SOFT and BREAK), or to a code offset, with MODE and FMT as they were and the other path released; outside a handler it traps ILLOP, and so it does where the handler has split its warp or has not popped its stack entries. That an `eret` in a warp that was split at the trap goes on is the model's reading (DEDUCED, log entry 17: to its letter R362 would trap it). -/
def Obligations.TrapsAreTakenAndReturnedFrom : Prop := SoftwareTrapsEnterTheHandler ∧ UnhandledTrapKillsTheTask ∧ BreakpointStopsOrPasses ∧ EretRestores

/-- R281, R284, R408, R409: `rwp` of an undiverged warp outside a handler makes the rewind point, of its own word and literal at its own address; in a handler or a split warp there is no point after it.
In recipe mode the `rwp` at the point's own address does so and ends the mode, and one at another address traps ILLOP; a v register beyond the allotment traps ILLOP too.
R18, R227, R284, R355, R356, R403, R415: the helper bit, the program's own signature record, and the records written to b registers; each of them traps ILLOP in recipe mode. -/
def Obligations.RewindHelperAndSignatureInstructions : Prop := RewindPointIsMade ∧ HelperSignatureAndRecordWrites

/-- R69, R70, R382: `mode` and `modex` replace one field of MODE, or clear bits of FPFLAGS under selector 8; a reserved field value, a value too wide, or recipe mode traps ILLOP.
R75, R376: `mfmt` writes FMT from a scalar register when every field is legal, and traps ILLOP when one is not or in recipe mode.
R22 to R25, R406: a role that does not grow, or whose growth fits while no other warp of the share waits, is granted at once: allotment, class and entry point, with the registers that stay in the allotment, and new ones that read zero.
A growth that does not fit, or comes after another wait, waits with its allotment whole; the only live warp of its block in its quarter traps ROLE instead. An undefined role, or one in a split warp, traps ROLE. -/
def Obligations.ModeFmtAndRoleWrites : Prop := ModeWritesOneField ∧ FmtWrite ∧ RoleIsGranted

namespace Sys2Proof.Claims

/-! Memory accesses (R19, R116 to R125, R145, R176, R326, R340, R346 to R352, R368 to R372, R395 to R397, R421 to R424) -/

/-- A memory instruction: what it asks of memory, whether its registers and types are ones it may name (R64, R346), and the registers it writes. -/
def memForm (s : State) : Instr → Option (MemIns × Bool × List RegRef)
  | .ld d b i la => some ({ s.laneIns 0 b i la 4 with destKind := 0, dest := d }, s.vWidthOk d s.path.width && s.idxOk b i, vRange d s.path.width)
  | .st b i src la =>
    some ({ s.laneIns 1 b i la 4 with data := s.laneData src (widthRegs s.path.width) fun _ => 0 }, s.vWidthOk src s.path.width && s.idxOk b i, [])
  | .atom op d b i vc nd la =>
    some ({ s.laneIns 2 b i la 8 with
        noWindow := true, op := op, destKind := if nd then 2 else 0, dest := d
        data := s.laneData d (widthRegs s.path.width) fun l => if op = .cas then s.vVal vc (widthRegs s.path.width) l else 0 },
      atomTypeOk op s.path.modeMW s.path.modeET && s.vWidthOk d s.path.width && s.idxOk b i && (op != .cas || s.vWidthOk vc s.path.width), [])
  | .ldu a b c la =>
    some ({ s.uniIns 0 b c la with destKind := 1, dest := a }, s.path.width != 16 || a % 2 == 0, if s.path.width = 16 then [.s a, .s (a + 1)] else [.s a])
  | .stu b c a la =>
    some ({ s.uniIns 1 b c la with data := [(0, ((s.rS a).toNat + (if s.path.width = 16 then (s.rS (a + 1)).toNat * 2 ^ 64 else 0), 0))] },
      s.path.width != 16 || a % 2 == 0, [])
  | .atomu op a b c la =>
    some ({ s.uniIns 2 b c la with
        op := op, destKind := 1, dest := a
        data := [(0, ((s.rS a).toNat % 2 ^ (8 * s.path.width), if op = .cas then (s.rS (a + 1)).toNat % 2 ^ (8 * s.path.width) else 0))] },
      atomTypeOk op s.path.modeMW s.path.modeET && (op != .cas || a % 2 == 0), [])
  | _ => none

/-- The rewind point after an access is begun: a load ends it when it writes a named register, a store or atomic always (R282). -/
def begun (s : State) (kind : Nat) (l : List RegRef) : State := if kind = 0 ∧ s.named l = false then s else s.noPoint

/-- The lanes of an access that reach memory. -/
def reach (m : MemIns) : List (Nat × Nat) := memLanes m.width m.accs m.helpers
/-- The translations of their pages. -/
def pageWalks (s : State) (m : MemIns) : List (Nat × Walk) := (s.walks s.blk.core s.blk.vf (pagesOfAddrs (reach m))).1

/-- The core's copy of a line, if it has one, is of the domain of the page that an access reaches it through, and no error waits in it (R255, R256). -/
def CopyFits (s : State) (w : Walk) (spa : Nat) : Prop :=
  ∀ c, AL.get? s.mm.l1 (l1Key s.blk.core (spa / 256)) = some c → c.dom = w.dom ∧ s.mm.l1Bad.contains (l1Key s.blk.core (spa / 256)) = false

/-- Nothing stands in the way of one lane of an access: its page is held by the core's TLB with the rights it needs, its tag matches at its home and in a copy of its line that the core holds, with no tag on its way (R123),
and a load meets no copy of another domain's and no error in a copy (R255, R256). -/
def LaneClear (s : State) (m : MemIns) (e : Nat × Nat) : Prop :=
  let w := walkAt (pageWalks s m) e.2
  let spa := w.spa e.2
  (∃ t, tlbFind s.mm.tlb1 s.blk.core s.blk.vf (e.2 / 4096 * 4096) = some t ∧ (m.kind ≠ 0 → t.w = true) ∧ (m.noWindow = true → t.win = false)) ∧
  ((m.kind = 1 ∧ recKind (s.rB m.bk) = 2) ∨ spaRemote spa = true ∨ (s.tagSeen [] spa = recTag (s.rB m.bk) ∧ s.tagSeen [spa / 256] spa = recTag (s.rB m.bk) ∧
    s.tagHeld s.bid [spa / 256] = [] ∧ s.tagPending [spa / 256] = [] ∧ s.tagMats [spa / 256] = [])) ∧
  (m.kind = 0 → w.isWin = false → CopyFits s w spa)

/-- The checks on an access's record, ranges, alignment and rights pass (R122), and no earlier `wacq` or `wrel` orders it (R170). -/
def Unhindered (s : State) (m : MemIns) : Prop :=
  accCheck (badRecord m.bk (s.rB m.bk) (s.rB (m.bk + 1))) (recRo (s.rB m.bk)) (m.kind != 0) m.width m.accs m.helpers = none ∧ ∀ doms, s.windowOrders doms = []

/-- Nothing stands in an access's way. -/
def Clear (s : State) (m : MemIns) : Prop := Unhindered s m ∧ ∀ e, e ∈ reach m → LaneClear s m e

/-- The line requests of an access of all lanes but those of a mask, one for each line it performs in, in ascending order; the first has the identifier n + 1 of an instruction numbered n. -/
def sentBut (s : State) (m : MemIns) (n : Nat) (skip : Word) : List LineReq :=
  let perf := (if m.kind = 0 then reach m else (reach m).filter fun e => !m.helpers.getLsbD e.1).filter fun e => !skip.getLsbD e.1
  let data := if m.kind = 1 then (s.injectStores m.width m.data (((Accs.addrs m.real).filter fun e => !skip.getLsbD e.1).map (·.1))).1 else m.data
  let gs := sendGroups (pageWalks s m) perf
  (gs.zip (List.range gs.length)).map fun e =>
    { m with data := data }.req s (n + 1 + e.2) n (if m.kind = 1 then none else some n) e.1

/-- The line requests of an access of all its lanes. -/
def sentLines (s : State) (m : MemIns) : List LineReq := sentBut s m s.nextId 0

/-- The lanes of an access whose pages are not resident: those that reach memory, and those of them that are no helper lanes. -/
def absentLanes (s : State) (m : MemIns) : Word := maskOf (((reach m).filter fun e => (walkAt (pageWalks s m) e.2).isNonres).map (·.1))
def absentReal (s : State) (m : MemIns) : Word := maskOf (((Accs.addrs m.real).filter fun e => (walkAt (pageWalks s m) e.2).isNonres).map (·.1))

/-- The lanes of an access beyond N (R118). -/
def beyondLanes (m : MemIns) : Word := maskOf ((m.real.filter fun e => e.2 == .over).map (·.1))

/-- The predicate registers after an access: the register of MODE.FP also has the lanes listed (R118, R146). -/
def FlagsTake (s t : State) (x : Word) : Prop := ∀ k, t.rP k = if k = s.path.modeFP ∧ k ≠ 0 then s.rP k ||| x else s.rP k

/-- The work an access leaves behind, apart from registers: line requests, identifiers, and flags of lanes beyond N (R118); nothing else of the machine differs, and no byte of memory. -/
def SendsOnly (s t : State) (m : MemIns) (reqs : List LineReq) : Prop :=
  t.mm = { s.mm with reqs := s.mm.reqs ++ reqs } ∧ SameOutside s { t with mm := s.mm, nextId := s.nextId } ∧ (∀ a, t.memByte a = s.memByte a) ∧
  FlagsTake s t (m.flagMask (beyondLanes m)) ∧
  (∀ k, t.rB k = s.rB k) ∧ t.w.live = s.w.live ∧ t.w.fpflags = s.w.fpflags ∧ t.w.role = s.w.role

/-- The value that a lane of a load reads from the L1 copies: the bytes of its line as its block sees them, the pad value, or zero beyond N (R118, R119, R176). -/
def cachedValue (s : State) (m : MemIns) (l : Nat) : Nat :=
  match AL.get? m.accs l with
  | some (.mem a) =>
    if (reach m).any (fun e => e.1 == l) then
      match AL.get? s.mm.l1 (l1Key s.blk.core ((walkAt (pageWalks s m) a).spa a / 256)) with
      | some c => s.overlay s.bid ((walkAt (pageWalks s m) a).spa a / 256) c.bytes (a % 256) m.width
      | none => 0
    else 0
  | some .pad => padValue (s.rB (m.bk + 1)) m.et m.width
  | _ => 0

/-- The block's run is an ordinary one, and its task is not bound by purity. -/
def Ordinary (s : State) : Prop := s.blk.kind = .plain ∧ s.task.pureNow = false

/-- What a lane of a load or atomic that reaches no memory holds: the pad value, or zero (R118, R119, R146). -/
def emptyValue (s : State) (m : MemIns) (l : Nat) : Nat :=
  if m.kind = 0 ∧ AL.get? m.accs l = some .pad then padValue (s.rB (m.bk + 1)) m.et m.width else 0

/-- The destination registers of a load or atomic hold the lanes' values, extended where they are narrow; the others read as before. -/
def ResultsAre (s t : State) (m : MemIns) (val : Nat → Nat) : Prop :=
  (m.destKind = 0 → (∀ k, t.rS k = s.rS k) ∧ ∀ k x, x < 32 → t.rV k x =
    if m.dest ≤ k ∧ k < m.dest + widthRegs m.width ∧ s.acting.getLsbD x = true
    then BitVec.ofNat 32 (loadValue m.et m.width (val x) / 2 ^ (32 * (k - m.dest))) else s.rV k x) ∧
  (m.destKind = 1 → (∀ k x, x < 32 → t.rV k x = s.rV k x) ∧ ∀ k, t.rS k =
    if k = 0 then 0 else if m.width ≠ 16 ∧ k = m.dest then BitVec.ofNat 64 (loadScalar (if m.kind = 2 ∧ m.et ≠ 0 then 1 else m.et) m.width (val 0))
    else if m.width = 16 ∧ k = m.dest then BitVec.ofNat 64 (val 0)
    else if m.width = 16 ∧ k = m.dest + 1 then BitVec.ofNat 64 (val 0 / 2 ^ 64) else s.rS k) ∧
  (m.destKind = 2 → (∀ k x, x < 32 → t.rV k x = s.rV k x) ∧ ∀ k, t.rS k = s.rS k)

/-- No fault injection is armed on the block's core (R244). -/
def NotArmed (s : State) : Prop := bitOf (s.reg Config.pf blkRas (0x1000 + 8 * s.blk.core)).toNat 0 = false

/-- The next identifier is new to the warp. -/
def FreshId (s : State) : Prop := (s.w.pathA.windows ++ s.w.pathB.windows).any (fun x => x.1 == s.nextId) = false ∧ s.w.pend.any (fun p => p.id == s.nextId) = false

/-- The type of the replay-log entry of a load or atomic, its lanes, and the bytes of its payload (R230). -/
def logTyp (m : MemIns) : Nat := if m.kind = 2 then leAtom else leLoad
def logLanes (m : MemIns) : Word :=
  if m.kind = 2 then maskOf ((Accs.addrs m.real).map (·.1))
  else maskOf ((m.accs.filter fun e => match e.2 with
    | .pad => false
    | .over => false
    | _ => true).map (·.1))
def logBytesOf (m : MemIns) : Nat := m.width * popc 32 (logLanes m).toNat

/-- The value that a check run gives a lane: the payload holds those of the entry's lanes in ascending order (R230, R233). -/
def takenValue (s : State) (m : MemIns) (e : LogEntry) (l : Nat) : Nat :=
  if l < 32 ∧ (logLanes m).getLsbD l = true then leNat ((e.payload.drop (m.width * (List.range l).countP (logLanes m).getLsbD)).take m.width) else emptyValue s m l

/-- R123 to R125, R176, R326, R350, R421, R424: a store or atomic whose checks pass goes on at once, having sent one request for each line it writes, with its lanes' data; an atomic's old values stay pending.
No byte of memory changes before the line's home slice is reached. -/
def StoresAndAtomicsAreSentRule : Prop :=
  ∀ (i : Instr) (s : State) (m : MemIns) (l : List RegRef), memForm s i = some (m, true, l) → m.kind ≠ 0 → s.w.recipe = false → Ordinary s → Clear s m →
    ∃ t, exec i s = .next t ∧ SendsOnly s t m (sentLines s m) ∧ t.w.point = none ∧ t.path.pc = s.path.pc + BitVec.ofNat 57 m.len ∧ t.path.st = s.path.st ∧
      t.path.mask = s.path.mask ∧ t.path.mode = s.path.mode ∧ t.path.fmt = s.path.fmt ∧ t.path.stack = s.path.stack ∧
      (m.kind = 1 ∨ sentLines s m ≠ [] → (∀ k, t.rS k = s.rS k) ∧ (∀ k i, i < 32 → t.rV k i = s.rV k i) ∧ t.w.path (!s.curB) = s.w.path (!s.curB)) ∧
      (m.kind = 1 → t.w.pend = s.w.pend ∧ t.path.windows = s.path.windows) ∧
      (m.kind = 2 → sentLines s m ≠ [] → t.path.windows = s.path.windows ++ [(s.nextId, m.la)] ∧
        ∃ p : Pend, t.w.pend = s.w.pend ++ [p] ∧ p.id = s.nextId ∧ p.regs = m.regs ∧ p.waiting = (sentLines s m).map (·.id))

/-- R123, R124, R176, R326, R369, R372: a load whose checks pass goes on at once. Where none of its lines is cached it leaves one request for each line, and its registers pending and as they were;
where every line has a copy that serves it, and no earlier access to the die is open, its registers take the values of the copies, narrow ones extended by the element type. Whatever its lines meet, it goes on, no byte of memory changes, and it leaves no more than a load request for each line. -/
def LoadsAreSentOrAnsweredFromL1Rule : Prop :=
  ∀ (i : Instr) (s : State) (m : MemIns) (l : List RegRef), memForm s i = some (m, true, l) → m.kind = 0 → s.w.recipe = false → Ordinary s → Clear s m →
    let gs := sendGroups (pageWalks s m) (reach m)
    let hit (g : LineGroup) : Option L1Line :=
      if g.win || spaRemote g.spa || s.storeAhead s.cur (g.spa / 256) then none else s.l1Hit s.blk.core g.dom (g.spa / 256) (sectorMask g.lanes) (Tbl.get s.w.pts (homeDie g.spa))
    (∃ t n, exec i s = .next t ∧ t.path.pc = s.path.pc + 4 ∧ t.path.st = s.path.st ∧ t.path.mask = s.path.mask ∧ (∀ a, t.memByte a = s.memByte a) ∧
      t.mm = { s.mm with reqs := s.mm.reqs ++ n } ∧ (∀ r, r ∈ n → r.kind = 0 ∧ r.wid = s.cur ∧ ∃ g, g ∈ gs ∧ r.line = g.spa / 256)) ∧
    (gs ≠ [] → (∀ g, g ∈ gs → hit g = none) →
      ∃ t, exec i s = .next t ∧ SendsOnly s t m (sentLines s m) ∧ t.w.point = (if s.named l then none else s.w.point) ∧ t.path.pc = s.path.pc + 4 ∧ t.path.st = s.path.st ∧
        t.path.mask = s.path.mask ∧ t.path.mode = s.path.mode ∧ t.path.fmt = s.path.fmt ∧ t.path.stack = s.path.stack ∧
        (∀ k, t.rS k = s.rS k) ∧ (∀ k i, i < 32 → t.rV k i = s.rV k i) ∧ t.w.path (!s.curB) = s.w.path (!s.curB) ∧
        t.path.windows = s.path.windows ++ [(s.nextId, m.la)] ∧ ∃ p : Pend, t.w.pend = s.w.pend ++ [p] ∧ p.id = s.nextId ∧ p.regs = m.regs ∧ p.waiting = (sentLines s m).map (·.id)) ∧
    ((∀ g, g ∈ gs → s.unacked s.cur (homeDie g.spa) = [] ∧ ∃ c, hit g = some c) → NotArmed s → FreshId s →
      ∃ t, exec i s = .next t ∧ SendsOnly s t m [] ∧ t.w.point = (if s.named l then none else s.w.point) ∧ t.path.pc = s.path.pc + 4 ∧ t.path.st = s.path.st ∧
        t.w.pend = s.w.pend ∧ t.path.windows = s.path.windows ∧ t.w.path (!s.curB) = s.w.path (!s.curB) ∧ ResultsAre s t m (cachedValue s m))

/-- R118, R146, R147, R151: lanes of a load, store or atomic whose pages are not resident do not trap, and perform nothing: the other lanes are performed as they are without them, the flag register of MODE.FP takes the lanes, the page of each is asked for at the merge table of the core's die,
and a load or atomic gives them zero. Where no lane is performed, the result is there at once. -/
def NonResidentLanesAreFlaggedAndAskedFor : Prop :=
  ∀ (i : Instr) (s : State) (m : MemIns) (l : List RegRef), memForm s i = some (m, true, l) → s.w.recipe = false → Ordinary s → ErrorFree s → Unhindered s m →
    (∀ e, e ∈ reach m → (walkAt (pageWalks s m) e.2).isNonres = true ∨ LaneClear s m e) → absentReal s m ≠ 0 →
    let nr := absentReal s m
    let pages := nonresPages (pageWalks s m) ((Accs.addrs m.real).filter fun e => nr.getLsbD e.1)
    let sent := sentBut s m s.nextId (absentLanes s m)
    let asked (t : State) : Prop := pages.length ≤ ((List.range 256).filter fun k => !AL.has s.mm.merges (dieOf s.blk.core * 256 + k)).length →
      ∀ p, p ∈ pages → ∃ k e, AL.get? t.mm.merges k = some e ∧ k / 256 = dieOf s.blk.core ∧ e.vf = s.blk.vf ∧ (m.kind ≠ 0 → e.write = true) ∧
        ∀ st2 level addr table page, walkAt (pageWalks s m) (p * 4096) = .nonres st2 level addr table page → e.stage2 = st2 ∧ e.addr = addr
    let onward (t : State) : Prop := t.path.pc = s.path.pc + BitVec.ofNat 57 m.len ∧ t.path.st = s.path.st ∧ t.path.mask = s.path.mask ∧ t.path.mode = s.path.mode ∧
      t.w.point = (if m.kind = 0 ∧ s.named l = false then s.w.point else none) ∧ FlagsTake s t (m.flagMask (beyondLanes m ||| nr)) ∧ (∀ k, t.rB k = s.rB k) ∧
      (∀ a, t.memByte a = s.memByte a) ∧ asked t ∧ ∀ k, k ≠ s.cur → t.warpOf k = s.warpOf k
    (∃ t n, exec i s = .next t ∧ onward t ∧ t.mm.reqs = s.mm.reqs ++ n ∧ (∀ r, r ∈ n → r.kind = m.kind ∧ r.wid = s.cur ∧ ∀ x, x ∈ r.lanes → nr.getLsbD x.1 = false) ∧
      (m.kind ≠ 0 → n = sent) ∧
      (m.kind = 2 → sent ≠ [] → ∃ p : Pend, t.w.pend = s.w.pend ++ [p] ∧ p.id = s.nextId ∧ p.regs = m.regs ∧ p.waiting = sent.map (·.id) ∧ ∀ x, nr.getLsbD x = true → AL.get? p.got x = none)) ∧
    (sent = [] → m.kind ≠ 1 → NotArmed s → FreshId s → ∃ t, exec i s = .next t ∧ onward t ∧ t.mm.reqs = s.mm.reqs ∧ t.w.pend = s.w.pend ∧ ResultsAre s t m (emptyValue s m))

/-- R228, R230, R233, R234: memory under redundant execution. A logging mortise run puts an entry for every load through a record with RO = 0 and every atomic, to be filled when the value is there, and none for a load through RO = 1; its accesses are performed as those of any run.
A check run takes the values of such loads and atomics from the next entry of its stream and performs nothing, and diverges where that entry is of another type or other lanes; a tenon run's stores are performed nowhere, and a dowel run's are sent. -/
def MemoryUnderChecks : Prop :=
  ∀ (i : Instr) (s : State) (m : MemIns) (l : List RegRef), memForm s i = some (m, true, l) → s.w.recipe = false → Clear s m →
    let u := begun s m.kind l
    let onward (t : State) : Prop := t.path.pc = s.path.pc + BitVec.ofNat 57 m.len ∧ t.path.st = s.path.st ∧ t.path.mask = s.path.mask ∧ t.path.mode = s.path.mode ∧
      t.w.point = u.w.point ∧ FlagsTake s t (m.flagMask (beyondLanes m)) ∧ (∀ k, t.rB k = s.rB k) ∧ ∀ k, k ≠ s.cur → t.warpOf k = s.warpOf k
    (Logs s (logBytesOf m) → s.task.pureNow = false →
      (m.kind = 1 → ∃ t, exec i s = .next t ∧ onward t ∧ t.mm = { s.mm with reqs := s.mm.reqs ++ sentLines s m } ∧ t.blocks = s.blocks) ∧
      (m.kind = 0 → recRo (s.rB m.bk) = true → ∃ t n, exec i s = .next t ∧ onward t ∧ t.mm = { s.mm with reqs := s.mm.reqs ++ n } ∧ t.blocks = s.blocks) ∧
      (m.kind = 2 ∨ (m.kind = 0 ∧ recRo (s.rB m.bk) = false) → sentLines s m ≠ [] → (m.kind = 0 → ∀ g, g ∈ sendGroups (pageWalks s m) (reach m) → s.l1Lines m [g] = []) →
        ∃ t p, exec i s = .next t ∧ onward t ∧ t.mm = { s.mm with reqs := s.mm.reqs ++ sentLines s m } ∧ (∀ a, t.memByte a = s.memByte a) ∧
          Logged s t (logEntryAt s (logTyp m) (logLanes m) (Nat.log2 m.width) (s.path.accs + 1)) (logBytesOf m) ∧
          t.w.pend = s.w.pend ++ [p] ∧ p.id = s.nextId ∧ p.logType = (if m.kind = 2 then 3 else 1) ∧ p.logSeq = s.path.logSeq ∧ p.logMask = logLanes m)) ∧
    (s.checkRun = true → s.nrTaken = none →
      (∀ e, m.kind = 2 ∨ (m.kind = 0 ∧ recRo (s.rB m.bk) = false) → s.logNext = some e → ¬ (e.typ = leVal ∧ e.lmask = purityMask) →
        (e.is (logTyp m) (logLanes m) = true → NotArmed s →
          ∃ t, exec i s = .next t ∧ onward t ∧ t.mm = s.mm ∧ t.w.pend = s.w.pend ∧ (AL.has s.warps s.cur = true → t.path.logSeq = s.path.logSeq + 1) ∧ ResultsAre s t m (takenValue s m e)) ∧
        (e.is (logTyp m) (logLanes m) = false → ∃ t, exec i s = .next t ∧ t.mm = s.mm ∧ (AL.has s.blocks s.bid = true → t.blk.diverged = true ∧ ∀ k, k ∈ AL.keys t.warps → k / 32 ≠ s.bid))) ∧
      (m.kind = 1 → (∀ e, s.logNext = some e → ¬ (e.typ = leVal ∧ e.lmask = purityMask)) →
        ∃ t, exec i s = .next t ∧ onward t ∧ (∀ a, t.memByte a = s.memByte a) ∧ (recKind (s.rB m.bk) ≠ 2 → t.blocks = s.blocks) ∧
          t.mm = if s.blk.kind = .tenon then s.mm else { s.mm with reqs := s.mm.reqs ++ sentLines s m }))

end Sys2Proof.Claims

/-- R64, R116, R122, R346: an access with a register outside its file or allotment, or a type that does not fit, traps ILLOP; then in this order a bad record or an index out of range traps BOUNDS,
the lowest misaligned lane ALIGN with its address, and a store or atomic through a read-only record ROSTORE, with the address of the first lane that has one (padded lanes and lanes past N have none: the model's choice, DESIGN CHOICE, log entry 88). -/
def Obligations.AccessChecksTrapInOrder : Prop :=
  ∀ (i : Instr) (s : State) (m : MemIns) (ok : Bool) (l : List RegRef), memForm s i = some (m, ok, l) → s.w.recipe = false →
    let bad := badRecord m.bk (s.rB m.bk) (s.rB (m.bk + 1))
    let u := begun s m.kind l
    (ok = false → exec i s = .next s.illop) ∧
    (ok = true → bad = true ∨ (∃ e, e ∈ m.real ∧ e.2 = .bounds) → exec i s = .next (u.trap tcBounds 0)) ∧
    (ok = true → bad = false → (∀ e, e ∈ m.real → e.2 ≠ .bounds) →
      (∀ pre e post, Accs.addrs m.real = pre ++ e :: post → (∀ x, x ∈ pre → x.2 % m.width = 0) → e.2 % m.width ≠ 0 → exec i s = .next (u.trap tcAlign e.2)) ∧
      (∀ e r, Accs.addrs m.real = e :: r → (∀ x, x ∈ e :: r → x.2 % m.width = 0) → m.kind ≠ 0 → recRo (s.rB m.bk) = true → exec i s = .next (u.trap tcRostore e.2)))

/-- R123, R124, R176, R326, R369, R372: a load whose checks pass goes on at once. Where none of its lines is cached it leaves one request for each line, and its registers pending and as they were;
where every line has a copy that serves it, and no earlier access to the die is open, its registers take the values of the copies, narrow ones extended by the element type. Whatever its lines meet, it goes on, no byte of memory changes, and it leaves no more than a load request for each line.
R118, R146, R147, R151: lanes of a load, store or atomic whose pages are not resident do not trap, and perform nothing: the other lanes are performed as they are without them, the flag register of MODE.FP takes the lanes, the page of each is asked for at the merge table of the core's die,
and a load or atomic gives them zero. Where no lane is performed, the result is there at once. -/
def Obligations.LoadsAreSentOrAnsweredFromL1 : Prop := LoadsAreSentOrAnsweredFromL1Rule ∧ NonResidentLanesAreFlaggedAndAskedFor

/-- R123 to R125, R176, R326, R350, R421, R424: a store or atomic whose checks pass goes on at once, having sent one request for each line it writes, with its lanes' data; an atomic's old values stay pending.
No byte of memory changes before the line's home slice is reached.
R228, R230, R233, R234: memory under redundant execution. A logging mortise run puts an entry for every load through a record with RO = 0 and every atomic, to be filled when the value is there, and none for a load through RO = 1; its accesses are performed as those of any run.
A check run takes the values of such loads and atomics from the next entry of its stream and performs nothing, and diverges where that entry is of another type or other lanes; a tenon run's stores are performed nowhere, and a dowel run's are sent. -/
def Obligations.StoresAndAtomicsAreSent : Prop := StoresAndAtomicsAreSentRule ∧ MemoryUnderChecks

/-- R148, R396, R397: `pf` whose checks pass always goes on, having asked at most for lines, and `pgreq` and `pgreq.y` go on where every page they touch is resident; no register and no byte of memory changes.
Where some pages are not resident, each has a live merge entry afterwards while the die's table has room for all: `pgreq` goes on and `pgreq.y` sleeps on them; with no room they wait, and nothing is asked for (log entry 18).
A failing check traps with the code of R122, and a denied page traps. -/
def Obligations.PrefetchAndPageRequests : Prop :=
  ∀ (b i la : Nat) (s : State),
    let as0 := s.accs b i true s.activeGuarded
    let as := Accs.addrs as0
    let check := accCheck (badRecord b (s.rB b) (s.rB (b + 1))) false false s.path.width as0 0
    let past (t : State) : Prop := t.path = { s.path with pc := s.path.pc + 4, waited := false } ∧ t.w.point = s.w.point ∧ RegistersSame s t
    let quiet (t : State) : Prop := (∀ a, t.memByte a = s.memByte a) ∧ SameOutside s { t with mm := s.mm, nextId := s.nextId, free := s.free, rep := s.rep }
    (∀ x, x = .pf b i la ∨ x = .pgreq b i la ∨ x = .pgreqY b i la →
      (s.idxOk b i = false → exec x s = .next s.illop) ∧
      (∀ code a, s.idxOk b i = true → check = some (code, a) → exec x s = .next (s.trap code a))) ∧
    (s.idxOk b i = true → check = none → s.task.readViol (as.map (·.2)) = none ∨ (s.checkRun = false ∧ s.task.pureNow = false) →
      ∃ t, exec (.pf b i la) s = .next t ∧ past t ∧ (ErrorFree s → (∀ ws v, s.walks s.blk.core s.blk.vf (pagesOfAddrs as) = (ws, v) → ∀ e, e ∈ as → (walkAt ws e.2).isWin = false → CopyFits s (walkAt ws e.2) ((walkAt ws e.2).spa e.2)) → quiet t) ∧
        ∃ n, t.mm.reqs = s.mm.reqs ++ n ∧ ∀ r, r ∈ n → r.kind = 0 ∧ r.pend = none ∧ r.eng = none ∧ r.wid = s.cur) ∧
    (s.idxOk b i = true → check = none → ∀ ws u, s.walks s.blk.core s.blk.vf (pagesOfAddrs as) = (ws, u) →
      (∀ pre e post, as = pre ++ e :: post → (∀ x, x ∈ pre → (walkAt ws x.2).denies false = false) → (walkAt ws e.2).denies false = true →
        exec (.pgreq b i la) s = .next (u.denyTrap e.2 false (walkAt ws e.2)) ∧ exec (.pgreqY b i la) s = .next (u.denyTrap e.2 false (walkAt ws e.2))) ∧
      ((∀ e, e ∈ as → (walkAt ws e.2).denies false = false) →
        let pages := nonresPages ws as
        let places := (List.range 256).filter fun k => !AL.has s.mm.merges (dieOf s.blk.core * 256 + k)
        let asked (t : State) : Prop := ∀ p, p ∈ pages → ∃ k e, AL.get? t.mm.merges k = some e ∧ k / 256 = dieOf s.blk.core ∧ e.vf = s.blk.vf ∧ ∀ st2 level addr table page,
          walkAt ws (p * 4096) = .nonres st2 level addr table page → e.stage2 = st2 ∧ e.addr = addr
        (s.checkRun = true ∨ pages = [] → ∀ x, x = .pgreq b i la ∨ x = .pgreqY b i la → ∃ t, exec x s = .next t ∧ past t ∧ (ErrorFree s → quiet t) ∧ t.mm.merges = s.mm.merges) ∧
        (s.checkRun = false → pages ≠ [] → pages.length ≤ places.length →
          (∃ t, exec (.pgreq b i la) s = .next t ∧ past t ∧ (ErrorFree s → quiet t) ∧ asked t) ∧
          ∃ t es, exec (.pgreqY b i la) s = .next t ∧ t.path.st = .sleepPage es none false ∧ es.length = pages.length ∧ (∀ e, e ∈ es → AL.has t.mm.merges e.1 = true ∧ (Tbl.get t.mm.mergeSeq e.1).toNat = e.2) ∧
            t.path.pc = s.path.pc ∧ t.w.point = s.w.point ∧ RegistersSame s t ∧ (ErrorFree s → quiet t) ∧ asked t) ∧
        (s.checkRun = false → (u.raisePages ws pages).1 = none →
          ∀ x, x = .pgreq b i la ∨ x = .pgreqY b i la → ∃ t, exec x s = .next t ∧ t.path.st = .operandWait (.mergeFree (dieOf s.blk.core)) ∧ t.path.pc = s.path.pc ∧ RegistersSame s t ∧ t.mm.merges = s.mm.merges)))

namespace Sys2Proof.Claims

/-! Home slices, answers, write-back and the directory (R126, R140, R161, R171, R173, R176, R177, R184, R252 to R255) -/

/-- No error waits in the sectors of a range of bytes (R254, R255). -/
def CleanRange (s : State) (a n : Nat) : Prop :=
  ∀ sec, sec ∈ sectorsOf a n → CleanSector s sec

/-- A request that its home slice takes now: in this package's memory, in order, on a line that no other block holds, of its own domain, its lanes inside the line and their tags as their record gives them. -/
def Taken (s : State) (id : Nat) (r : LineReq) : Prop :=
  s.lineReq id = some r ∧ s.canServe r = true ∧ spaRemote (r.line * 256) = false ∧ spaHere (r.line * 256) = true ∧ s.reqHeld r = false ∧
  LineFits s r.line r.dom ∧ ∀ l, l ∈ r.lanes → l.2.1 + r.width ≤ 256 ∧ s.laneTagBad r l.2.1 = false

/-- The time a write takes at home (R163, R176): not before its warp's own and those of the warp's earlier writes to the die, and after every lease granted. -/
def writeTime (s : State) (r : LineReq) : Nat := max (s.reqPts r).toNat ((Tbl.get s.mm.rts r.line).toNat + 1)

/-- The bytes of a store by offset in its line, a higher lane winning (R125). -/
def storedBytes (r : LineReq) : List (Nat × Nat) :=
  lineBytes r.width (r.lanes.map fun l => (l.1, (l.2.2.1.toNat, 0))) (r.lanes.map fun l => (l.1, l.2.1))

/-- The bytes an atomic's lanes find. -/
def foundBytes (s : State) (r : LineReq) : AL Nat :=
  (sortNub (r.lanes.flatMap fun l => (List.range r.width).map fun i => l.2.1 + i)).map fun o => (o, (s.memByte (r.line * 256 + o)).toNat)

/-- Lanes' old values, and the bytes after an atomic's lanes in ascending order (R125, R347). -/
def atomOutcome (s : State) (r : LineReq) : AL Rec × AL Nat := atomLanes r.op r.et r.width (foundBytes s r) r.lanes

end Sys2Proof.Claims

/-- R125, R161, R171, R176, R184: a store that its home slice takes makes exactly its bytes visible, at a time later than every lease of the line, sets the tags of a KIND 2 store, and in directory mode leaves no L1 copy of the line;
while another block holds the line it waits, and a line outside the package's memory faults (the model's choice for a request that no translation yields: DESIGN CHOICE, log entry 68). -/
def Obligations.StoresTakeEffectAtHome : Prop :=
  ∀ (id : Nat) (s : State) (r : LineReq),
    (Taken s id r → r.kind = 1 → (s.blockOf r.bid).holds = false → writeTime s r < Config.rebaseAt →
      ∃ t, exec (.homeSliceRequest id) s = .next t ∧
        (∀ a, t.memByte a = if r.line * 256 ≤ a then (match AL.get? (storedBytes r) (a - r.line * 256) with
          | some x => BitVec.ofNat 8 x
          | none => s.memByte a) else s.memByte a) ∧
        (∀ sec, Tbl.get t.mm.tags sec = if r.tagset = true ∧ (storedBytes r).any (fun e => (r.line * 256 + e.1) / 64 == sec) = true then BitVec.ofNat 4 r.tag else Tbl.get s.mm.tags sec) ∧
        (∀ l, Tbl.get t.mm.wts l = if l = r.line then BitVec.ofNat 40 (writeTime s r) else Tbl.get s.mm.wts l) ∧
        (∀ l, Tbl.get t.mm.rts l = if l = r.line then BitVec.ofNat 40 (writeTime s r) else Tbl.get s.mm.rts l) ∧
        (s.inDirMode (homeDie (r.line * 256)) = true → ∀ k, k % 2 ^ 44 = r.line → AL.get? t.mm.l1 k = none) ∧
        (∃ q, t.lineReq id = some q ∧ q.stage = 2 ∧ q.wts = BitVec.ofNat 40 (writeTime s r)) ∧ t.warps = s.warps ∧ t.blocks = s.blocks ∧ t.regs = s.regs) ∧
    (s.lineReq id = some r → s.canServe r = true → spaRemote (r.line * 256) = false → spaHere (r.line * 256) = true → s.reqHeld r = true →
      ¬ (r.kind = 0 ∧ r.pend = none) →
      ∃ t, exec (.homeSliceRequest id) s = .next t ∧ (∃ q, t.lineReq id = some q ∧ q.stage = 1) ∧ (∀ a, t.memByte a = s.memByte a) ∧ t.blocks = s.blocks ∧ t.regs = s.regs) ∧
    (s.lineReq id = some r → s.canServe r = true → spaRemote (r.line * 256) = false → spaHere (r.line * 256) = false → s.reqHeld r = false →
      exec (.homeSliceRequest id) s = .fault (.noSuchAddress (r.line * 256)))

/-- R125, R173, R176, R347: an atomic that its home slice takes performs its lanes in ascending order, each on what the one before left: the bytes it writes become visible, and its request holds each lane's old value.
A load that it takes holds the bytes of its lanes, and no byte changes. -/
def Obligations.AtomicsAndLoadsAtHome : Prop :=
  ∀ (id : Nat) (s : State) (r : LineReq), Taken s id r → (s.blockOf r.bid).set.bytes = [] →
    (∀ l, l ∈ r.lanes → CleanRange s (r.line * 256 + l.2.1) r.width) →
    (2 ≤ r.kind → writeTime s r < Config.rebaseAt →
      ∃ t, exec (.homeSliceRequest id) s = .next t ∧
        (∀ a, t.memByte a = if r.line * 256 ≤ a ∧ (atomWritten r.op r.width r.lanes (atomOutcome s r).1).contains (a - r.line * 256) = true
          then BitVec.ofNat 8 (AL.getD (atomOutcome s r).2 (a - r.line * 256) 0) else s.memByte a) ∧
        (∃ q, t.lineReq id = some q ∧ q.stage = 2 ∧ q.got = (atomOutcome s r).1 ∧ q.wts = BitVec.ofNat 40 (writeTime s r)) ∧
        t.mm.tags = s.mm.tags ∧ t.warps = s.warps ∧ t.regs = s.regs) ∧
    (r.kind = 0 → s.inDirMode (homeDie (r.line * 256)) = true ∨ r.win = true →
      ∃ t, exec (.homeSliceRequest id) s = .next t ∧ (∀ a, t.memByte a = s.memByte a) ∧
        (∃ q, t.lineReq id = some q ∧ q.stage = 2 ∧ q.wts = Tbl.get s.mm.wts r.line ∧ q.rts = Tbl.get s.mm.rts r.line ∧
          q.got = r.lanes.map fun l => (l.1, BitVec.ofNat 128 (leNat (s.memBytes (r.line * 256 + l.2.1) r.width)))) ∧
        t.mm.tags = s.mm.tags ∧ t.mm.wts = s.mm.wts ∧ t.mm.rts = s.mm.rts ∧ t.warps = s.warps ∧ t.blocks = s.blocks ∧ t.regs = s.regs) ∧
    (r.kind = 0 → r.win = false → s.inDirMode (homeDie (r.line * 256)) = false →
      let pts := (s.agentPts r.wid (homeDie (r.line * 256))).toNat
      let rts := max (Tbl.get s.mm.rts r.line).toNat (max (pts + s.lease r.vf) ((Tbl.get s.mm.wts r.line).toNat + s.lease r.vf))
      rts < Config.rebaseAt →
      ∃ t, exec (.homeSliceRequest id) s = .next t ∧ (∀ a, t.memByte a = s.memByte a) ∧ Tbl.get t.mm.rts r.line = BitVec.ofNat 40 rts ∧ t.mm.wts = s.mm.wts ∧
        (∃ q, t.lineReq id = some q ∧ q.stage = 2 ∧ q.wts = Tbl.get s.mm.wts r.line ∧ q.rts = BitVec.ofNat 40 rts ∧
          q.got = r.lanes.map fun l => (l.1, BitVec.ofNat 128 (leNat (s.memBytes (r.line * 256 + l.2.1) r.width)))) ∧
        t.mm.tags = s.mm.tags ∧ t.warps = s.warps ∧ t.blocks = s.blocks ∧ t.regs = s.regs)

/-- R176, R177, R326: an answer ends its request and raises its warp's time for the die to the write's. A load that passed an earlier access of the warp is withheld while that is open (R177 names stores and atomics, and the model takes loads with them: DEDUCED, log entry 46), and performed again when its lease does not reach the time the warp has come to;
otherwise its values reach the pending access, which writes its registers and is complete when its last line has answered. -/
def Obligations.AnswersComplete : Prop :=
  ∀ (id : Nat) (s : State) (r : LineReq), s.lineReq id = some r → r.eng = none → spaRemote (r.line * 256) = false → AL.has s.warps r.wid = true →
    let d := homeDie (r.line * 256)
    let raised (t : State) : Prop := (Tbl.get (t.warpOf r.wid).pts d).toNat = max (Tbl.get (s.warpOf r.wid).pts d).toNat r.wts.toNat
    (r.kind ≠ 0 → r.stage = 2 → ∃ t, exec (.storeAck id) s = .next t ∧ t.lineReq id = none ∧ raised t ∧ (∀ a, t.memByte a = s.memByte a) ∧
      (r.pend = none → t.regs = s.regs ∧ (∀ k, k ≠ r.wid → t.warpOf k = s.warpOf k) ∧
        ∀ k b, AL.get? s.blocks k = some b → ∃ c, AL.get? t.blocks k = some c ∧ c = { b with queues := c.queues } ∧ ∀ q, (c.queue q).entries.map (·.id) = (b.queue q).entries.map (·.id))) ∧
    (r.kind = 0 → r.stage = 2 ∨ r.stage = 3 → (∀ t, exec (.loadResponse id) s = .next t → ∀ x, t.memByte x = s.memByte x) ∧
      (r.pend = none → ∃ t, exec (.loadResponse id) s = .next t ∧ t.lineReq id = none ∧ t.warps = s.warps) ∧
      (r.pend.isSome = true → s.openBefore r ≠ [] → ∃ t q, exec (.loadResponse id) s = .next t ∧ t.lineReq id = some q ∧ q.stage = 3 ∧ q.got = r.got ∧ t.warps = s.warps) ∧
      (r.pend.isSome = true → s.openBefore r = [] → s.stale r = true → ∃ t q, exec (.loadResponse id) s = .next t ∧ t.lineReq id = some q ∧ q.stage = 0 ∧ q.got = [] ∧ t.warps = s.warps) ∧
      (∀ (pid : Nat) (p : Pend), r.pend = some pid → s.openBefore r = [] → s.stale r = false → ((s.warpOf r.wid).pend.find? fun q => q.id == pid) = some p →
        p.waiting = [id] → p.kind = 0 → p.logType = 0 → bitOf (s.reg Config.pf blkRas (0x1000 + 8 * (s.blockOf (s.warpOf r.wid).bid).core)).toNat 0 = false →
        ∃ t, exec (.loadResponse id) s = .next t ∧ t.lineReq id = none ∧ raised t ∧ (t.warpOf r.wid).pend = (s.warpOf r.wid).pend.filter (fun q => q.id != pid) ∧
          (∀ k x, x < 32 → (t.warpOf r.wid).rV k x =
            if p.dest ≤ k ∧ k < p.dest + widthRegs p.width ∧ p.lanes.getLsbD x = true
            then BitVec.ofNat 32 (loadValue p.et p.width ((AL.get? (r.got.foldl (fun (g : AL Rec) (e : Nat × Rec) => AL.put g e.1 e.2) p.got) x).getD 0).toNat / 2 ^ (32 * (k - p.dest)))
            else (s.warpOf r.wid).rV k x) ∧
          (∀ k, (t.warpOf r.wid).rS k = (s.warpOf r.wid).rS k) ∧ (∀ k, (t.warpOf r.wid).rP k = (s.warpOf r.wid).rP k) ∧ ∀ k, k ≠ r.wid → t.warpOf k = s.warpOf k))

/-- R126, R140, R141, R184, R253: a write-back moves a line's dirty bytes to memory, where every byte reads as before; a directory switch holds the die's accesses, and ends with no L1 copy of its lines left;
a completed walk changes no warp, and no byte where no error waits in memory. -/
def Obligations.WriteBackWalksAndDirectory : Prop :=
  ∀ s : State,
    (∀ line : Nat, (∀ k, k < 4 → CleanSector s (line * 4 + k)) →
      let fe := s.fotOf (line / 16)
      let c := s.ctrOf fe.owner (fe.cslot.getD 0)
      c.exhausted = false → c.major.toNat + 4 < 2 ^ 64 →
      ∃ t, exec (.writeBack line) s = .next t ∧ (∀ a, t.memByte a = s.memByte a) ∧ (∀ a, a / 256 = line → AL.get? t.mm.dirty a = none ∧ Tbl.get t.mm.mem a = s.memByte a) ∧
        (∀ a, a / 256 ≠ line → AL.get? t.mm.dirty a = AL.get? s.mm.dirty a ∧ Tbl.get t.mm.mem a = Tbl.get s.mm.mem a) ∧
        t.warps = s.warps ∧ t.blocks = s.blocks ∧ t.regs = s.regs ∧ t.rep = s.rep) ∧
    (∀ die cause : Nat, die < 4 → cause ≤ 4 → s.switchingDie die = false →
      exec (.directoryModeSwitch die cause) s = .next { s with mm := { s.mm with switching := AL.put s.mm.switching die cause } }) ∧
    (∀ die cause : Nat, AL.get? s.mm.switching die = some cause →
      ∃ t, exec (.directorySwitchDone die) s = .next t ∧ t.inDirMode die = (cause != 0) ∧ t.switchingDie die = false ∧
        (∀ d, d ≠ die → t.inDirMode d = s.inDirMode d ∧ t.switchingDie d = s.switchingDie d) ∧
        (∀ k, AL.get? t.mm.l1 k = if spaRemote (k % 2 ^ 44 * 256) = false ∧ homeDie (k % 2 ^ 44 * 256) = die then none else AL.get? s.mm.l1 k) ∧
        (∀ a, t.memByte a = s.memByte a) ∧ t.warps = s.warps ∧ t.blocks = s.blocks ∧ t.regs = s.regs) ∧
    ∀ core vf va : Nat, ∃ t, exec (.walkComplete core vf va) s = .next t ∧ t.warps = s.warps ∧ t.blocks = s.blocks ∧ t.tasks = s.tasks ∧ (ErrorFree s → (∀ a, t.memByte a = s.memByte a) ∧ t.regs = s.regs) ∧
      (∀ spa w x win size dom, (s.translate core vf (va % 2 ^ 57)).1 = .ok spa w x win size dom → 0 < size → (tlbFind t.mm.tlb1 core vf (va % 2 ^ 57)).isSome = true)

namespace Sys2Proof.Claims

/-! Fences, barriers and tiles (R128 to R135, R165 to R170, R341 to R345, R365, R401, R402, R425 to R435, R460) -/

/-- Nothing is left for a fence of a scope to wait for (R165): this package's accesses of the warp to its own die are performed, with no value withheld; at package scope its accesses to this package are complete, and at system scope all are, write-backs in a matrix queue among them (R199);
its accesses to tiles that wait themselves are done, and past block scope its tile messages are delivered. -/
def FenceDone (s : State) (scope : Nat) : Prop :=
  (∀ r, r ∈ s.mm.reqs → r.wid = s.cur → ¬ (r.kind = 0 ∧ r.pend = none) →
    if spaRemote (r.line * 256) = true then scope < 4 else (homeDie (r.line * 256) = s.die → r.stage = 2 ∧ (r.kind ≠ 0 ∨ r.withheld = [])) ∧ scope < 3) ∧
  (∀ m, m ∈ s.queuedMats s.cur s.nextId → m.storesTo (onDie s.die) = false ∧ (3 ≤ scope → m.storesTo (fun l => !spaRemote (l * 256)) = false) ∧ scope < 4) ∧
  (1 ≤ scope → ∀ m, m ∈ s.eng.tileMsgs → m.wid ≠ s.cur) ∧
  ∀ x, x ∈ s.w.slow → (∃ l, x.op = .tld l) ∨ (∃ eb l, x.op = .tst eb l) ∨ (∃ op et eb l, x.op = .tatom op et eb l) → scope = 0 ∧ s.gangHandle s.bid x.handle = true

/-- A barrier's wait is over: as a fence's, and at a gang barrier no tile store of a warp of the block that has exited is on its way (R135, R342); or the wait has ended. -/
def FenceOver (s : State) (scope : Nat) : Prop :=
  s.waitDone = true ∨ (FenceDone s scope ∧ (scope = 1 → ∀ m, m ∈ s.eng.tileMsgs → m.src = s.bid → (s.warpOf m.wid).exited = false))

/-- An instruction issues and waits beside its path, with its operands read, and up to LA later ones may issue (R326). -/
def IssuesSlow (s t : State) (la h : Nat) (w : Wait) (op : SlowOp) (n : Nat) : Prop :=
  t.w.slow = s.w.slow ++ [⟨s.nextId, s.curB, s.path.pc, h, w, op⟩] ∧ t.path.windows = s.path.windows ++ [(s.nextId, la)] ∧
  t.path.pc = s.path.pc + BitVec.ofNat 57 n ∧ t.path.st = s.path.st ∧ RegistersSame s t ∧ ∀ k, k ≠ s.cur → t.warpOf k = s.warpOf k

/-- The use of barrier n of the block that an arrival joins or begins (R342). -/
def barUse (s : State) (n k : Nat) : Barrier :=
  (AL.get? s.blk.bars n).getD ⟨barForm k, (barForm k).getD (s.liveWarps s.bid).length, 0, 0⟩

/-- The warp's other path. -/
def otherPath (s : State) : Path := s.w.path (!s.curB)

/-- The issuing path arrives for its warp (R344): the warp is not split, or its other path has ended or stands at the same barrier in the same form. -/
def ArrivesAlone (s : State) (n kk : Nat) : Prop := s.w.split = false ∨ (otherPath s).st = .ended ∨ (otherPath s).st = .barrier n kk false

/-- An arrival that is counted now: no recipe, and nothing to wait for. -/
def MayArrive (s : State) (n kk scope : Nat) : Prop :=
  s.w.recipe = false ∧ ArrivesAlone s n kk ∧ FenceOver s scope ∧ AL.has s.blocks s.bid = true ∧ s.bid = s.cur / 32

/-- The issuing path, and the other path where it stands at the barrier too, are left in one way. -/
def BothPaths (s t : State) (left : Path → Path → Prop) : Prop :=
  left s.path t.path ∧ (s.w.split = true → (otherPath s).st ≠ .ended → left (otherPath s) (t.w.path (!s.curB)))

/-- A path that waits at a barrier, or is past it. -/
def atBar (n kk : Nat) (counted : Bool) (p q : Path) : Prop := q.st = .barrier n kk counted ∧ q.pc = p.pc
def pastBar (p q : Path) : Prop := q.st = .ready ∧ q.pc = p.pc + 4

/-- A warp that waits at barrier n, its arrival counted, is past it. -/
def Released (s t : State) (n wid : Nat) : Prop :=
  (s.warpOf wid).pathA.barCounted n = true → (t.warpOf wid).pathA.st = .ready ∧ (t.warpOf wid).pathA.pc = (s.warpOf wid).pathA.pc + 4

/-- An access to a usable tile that may go on: its index register lies in the allotment, no lane's index is beyond the tile, and no queued matrix work and no earlier access that waits itself comes before it (R133, R198, R434). -/
def TileReady (s : State) (h i : Nat) (x : Nat) (tile : Tile) : Prop :=
  x = (s.rS h).toNat ∧ s.blk.tile? x = some tile ∧ s.vOk i = true ∧ (∀ e, e ∈ s.elemIdx i s.realLanes → e.2 < tileElems tile.desc) ∧
  s.tileWait s.bid x = .tile [] [] [] ∧ Ordinary s ∧ s.w.recipe = false

/-- Nothing but one tile of the current block and the registers listed differs. -/
def TileKeptBut (l : List RegRef) (x : Nat) (s t : State) : Prop :=
  SameOutside s { t with blocks := s.blocks } ∧ (∀ k, .s k ∉ l → t.rS k = s.rS k) ∧ (∀ k i, i < 32 → .v k ∉ l → t.rV k i = s.rV k i) ∧
  (∀ k, t.rP k = s.rP k) ∧ (∀ k, t.rB k = s.rB k) ∧ t.w.fpflags = s.w.fpflags ∧ t.w.live = s.w.live ∧ t.path.mode = s.path.mode ∧
  (∀ b, b ≠ s.bid → t.blockOf b = s.blockOf b) ∧ (∀ y, y ≠ x → AL.get? t.blk.tiles y = AL.get? s.blk.tiles y)

/-- The current warp's registers but those listed, its masks and modes, and memory, read as before. -/
def WarpKeptBut (l : List RegRef) (s t : State) : Prop :=
  (∀ k, .s k ∉ l → t.rS k = s.rS k) ∧ (∀ k i, i < 32 → .v k ∉ l → t.rV k i = s.rV k i) ∧ (∀ k, t.rP k = s.rP k) ∧ (∀ k, t.rB k = s.rB k) ∧
  t.w.fpflags = s.w.fpflags ∧ t.w.live = s.w.live ∧ t.path.mode = s.path.mode ∧ (∀ a, t.memByte a = s.memByte a) ∧ ∀ k, k ≠ s.cur → t.warpOf k = s.warpOf k

/-- An instruction goes on past itself with no register written. -/
def GoesPast (s t : State) (n : Nat) : Prop := t.path.pc = s.path.pc + BitVec.ofNat 57 n ∧ t.w.point = s.w.point ∧ RegistersSame s t

/-- R165, R166, R180, R326, R365: a fence is complete at once when what its scope names is done, and waits for it beside its path otherwise, with later accesses of its warp waiting for it; its wait is over exactly when all of that is done.
`fence.sc` at package scope also joins the warp's times with GSC, and at system scope asks the order point for a ticket: where no route leads there, the request is refused and its task is killed. In a tenon or dowel run fences order nothing. That GSC stays below 2^40 is the model's choice (DEDUCED, log entry 16). -/
def FencesWaitForTheirScope : Prop :=
  ∀ (sc : Scope) (la : Nat) (s : State),
    let code := scopeCode sc
    let n := s.fenceNeeds s.cur code
    let ask : Flit := ⟨s.pkgid, s.ordpt, s.pkey s.blk.vf, 4, 0, [], 0, s.nextId + 1, 0, none⟩
    (s.checkRun = true ∨ FenceDone s code → PathMoves (.fence sc la) s (s.path.pc + 4)) ∧
    (s.checkRun = true ∨ (FenceDone s code ∧ code ≤ 2) → PathMoves (.fenceSc sc la) s (s.path.pc + 4)) ∧
    (∀ x isSc, (x = .fence sc la ∧ isSc = false) ∨ (x = .fenceSc sc la ∧ isSc = true) → s.checkRun = false → ¬ FenceDone s code →
      ∃ t, exec x s = .next t ∧ IssuesSlow s t la 0 (.fence n.1 n.2.1 n.2.2) (.fence code isSc) 4 ∧ t.w.point = s.w.point ∧ SameOutside s { t with nextId := s.nextId }) ∧
    (∀ (x : Slow) (isSc : Bool), x.op = .fence code isSc → x.wait = .fence n.1 n.2.1 n.2.2 → (s.slowOver s.cur x = true ↔ FenceDone s code)) ∧
    (∀ (x : Slow) (c : Nat) (isSc : Bool) (i : Instr) (m : MemIns) (ok : Bool) (l : List RegRef), x ∈ s.w.slow → x.op = .fence c isSc → memForm s i = some (m, ok, l) → ∃ w, s.gate i = some w) ∧
    (s.checkRun = false → FenceDone s code → sc = .package →
      ∃ t, exec (.fenceSc sc la) s = .next t ∧ GoesPast s t 4 ∧ SameOutside s { t with gsc := s.gsc } ∧
        t.gsc.toNat = min (2 ^ 40 - 1) (max s.gsc.toNat s.w.maxPts + 1) ∧ (AL.has s.warps s.cur = true → ∀ d, d < 4 → Tbl.get t.w.pts d = t.gsc)) ∧
    (s.checkRun = false → FenceDone s code → sc = .system → (∀ y, y ∈ s.w.slow → y.id ≠ s.nextId) → s.ticketSlow (s.nextId + 1) = none →
      (s.ordpt = s.pkgid ∨ s.routed 16 s.ordpt = true →
        ∃ t, exec (.fenceSc sc la) s = .next t ∧ IssuesSlow s t la 0 (.ticket (s.nextId + 1)) (.fence 4 true) 4 ∧ t.w.point = s.w.point ∧ (∀ a, t.memByte a = s.memByte a) ∧
          (s.ordpt = s.pkgid → t.agenda = s.agenda ++ [.scTicketRequest s.pkgid (s.nextId + 1)] ∧ t.fab = s.fab) ∧
          (s.ordpt ≠ s.pkgid → t.agenda = s.agenda ∧ t.fab = (s.sendOut ask).fab)) ∧
      (s.ordpt ≠ s.pkgid → s.routed 16 s.ordpt = false → s.blk.kind = .plain → s.taskLive s.blk.vf s.blk.task = true →
        ∃ t, exec (.fenceSc sc la) s = .next t ∧ t.taskBlocks s.blk.vf s.blk.task = [] ∧ t.fab = s.fab))

/-- R168, R170, R179, R401, R402, R460: `qfence` always goes on, having ordered the named queues after their entries so far, with those a former one named; `qwait` is complete when they are empty, taking the times of completed entries, waits beside its path for their entries, or traps a queue's fault;
`wacq` and `wrel` check their record and window, and are complete when none of the warp's accesses to it that they order is open; otherwise they wait for those beside their path. -/
def QueueAndWindowOrdering : Prop :=
  ∀ (m n la : Nat) (s : State),
    (s.checkRun = true → PathMoves (.qfence m la) s (s.path.pc + 4) ∧ PathMoves (.qwait m la) s (s.path.pc + 4)) ∧
    (s.checkRun = false → ∃ t, exec (.qfence m la) s = .next t ∧ GoesPast s t 4 ∧ SameOutside s { t with blocks := s.blocks } ∧ (∀ b, b ≠ s.bid → t.blockOf b = s.blockOf b) ∧
      (AL.has s.blocks s.bid = true → ∀ q,
        (q ∉ queuesOf m → t.blk.queue q = s.blk.queue q) ∧
        (q ∈ queuesOf m → (t.blk.queue q).entries = (s.blk.queue q).entries ∧ (t.blk.queue q).faulted = (s.blk.queue q).faulted ∧ (t.blk.queue q).pts = joinPts (s.blk.queue q).pts (s.blk.endedPts (queuesOf m)) ∧
          ∀ x, x ∈ (t.blk.queue q).fence ↔ x ∈ (s.blk.queue q).fence ∨ ∃ e, e ∈ s.blk.entriesOf (queuesOf m) ∧ e.id = x))) ∧
    (s.checkRun = false →
      (∀ f, ((queuesOf m).findSome? fun q => (s.blk.queue q).faulted) = some f → exec (.qwait m la) s = .next (s.queueTrap f)) ∧
      ((∀ q, q ∈ queuesOf m → (s.blk.queue q).faulted = none) →
        (s.blk.entriesOf (queuesOf m) = [] →
          ∃ t, exec (.qwait m la) s = .next t ∧ GoesPast s t 4 ∧ SameOutside s t ∧ t.w.pts = joinPts s.w.pts (s.blk.endedPts (queuesOf m))) ∧
        (s.blk.entriesOf (queuesOf m) ≠ [] →
          ∃ t, exec (.qwait m la) s = .next t ∧ IssuesSlow s t la 0 (.copies ((s.blk.entriesOf (queuesOf m)).map (·.id))) (.qwait m) 4 ∧ t.w.point = s.w.point ∧ SameOutside s { t with nextId := s.nextId } ∧
            t.w.pts = joinPts s.w.pts (s.blk.endedPts (queuesOf m))))) ∧
    ∀ x, x = .wacq n la ∨ x = .wrel n la →
      let va := recBase (s.rB n)
      let goesOn : Prop := ∃ t, exec x s = .next t ∧ t.path.st = s.path.st ∧ GoesPast s t 4 ∧
        (ErrorFree s → SameOutside s { t with mm := s.mm, free := s.free } ∧ ∀ a, t.memByte a = s.memByte a)
      (badRecord n (s.rB n) (s.rB (n + 1)) = true → exec x s = .next (s.trap tcBounds 0)) ∧
      (badRecord n (s.rB n) (s.rB (n + 1)) = false → ∀ r u, s.translate s.blk.core s.blk.vf va = (r, u) →
        (∀ spa w ex size dom, r = .ok spa w ex false size dom → exec x s = .next (u.trap tcWindow va)) ∧
        (∀ spa w ex size dom, r = .ok spa w ex true size dom →
          (s.checkRun = true → goesOn) ∧
          (x = .wacq n la → s.windowReqs dom true = [] → goesOn) ∧
          (x = .wrel n la → s.windowReqs dom false = [] → (∀ c, c ∈ s.blk.entriesOf (List.range 8) → c.wid = s.cur → s.copyWrites c dom = false) → goesOn) ∧
          (x = .wacq n la → s.checkRun = false → s.windowReqs dom true ≠ [] →
            ∃ t, exec x s = .next t ∧ IssuesSlow s t la 0 (.both (s.windowReqs dom true) []) (.wacq dom) 4 ∧ t.w.point = s.w.point ∧ (ErrorFree s → ∀ a, t.memByte a = s.memByte a)) ∧
          (x = .wrel n la → s.checkRun = false →
            let cs := ((s.blk.entriesOf (List.range 8)).filter fun c => c.wid == s.cur && s.copyWrites c dom).map (·.id)
            s.windowReqs dom false ≠ [] ∨ cs ≠ [] →
            ∃ t, exec x s = .next t ∧ IssuesSlow s t la 0 (.both (s.windowReqs dom false) cs) (.wrel dom) 4 ∧ t.w.point = s.w.point ∧ (ErrorFree s → ∀ a, t.memByte a = s.memByte a))) ∧
        (∀ st2 level addr table page, r = .nonres st2 level addr table page →
          (s.checkRun = true → goesOn) ∧
          (s.checkRun = false → ∀ e v, u.raise (dieOf s.blk.core) s.blk.core s.blk.vf s.blk.task va 1 false r = (some e, v) → exec x s = .next (v.wait (.sleepPage [e] none true)))) ∧
        (r.denies false = true → exec x s = .next (u.denyTrap va false r)))

/-- R31, R341 to R344: an arrival at a block's barrier counts its warp once, for both of its paths where both stand there; `bar` then waits and `arrive` goes on, and the arrival that completes the use releases every warp that waits and ends the use. A path whose warp's other path runs on waits for it,
and a warp that has arrived already waits with its new arrival uncounted. A count above the block's warps, a form other than the use's of a warp that has not arrived, and another barrier for the other path trap ILLOP. -/
def BlockBarriers : Prop :=
  ∀ (n k : Nat) (waits : Bool) (s : State),
    let i : Instr := if waits then .bar n k else .arrive n k
    let kk := if waits then k else k + 100
    (s.blk.nwarps < k ∨ s.w.recipe = true → exec i s = .next s.illop) ∧
    (k ≤ s.blk.nwarps → s.w.recipe = false →
      (s.w.split = true → (otherPath s).st ≠ .ended → (∀ m j, (otherPath s).st ≠ .barrier m j false) → exec i s = .next (s.noPoint.wait (.barrier n kk false))) ∧
      (∀ m j, s.w.split = true → (otherPath s).st = .barrier m j false → ¬ (m = n ∧ j = kk) → exec i s = .next s.noPoint.illop) ∧
      (ArrivesAlone s n kk → ¬ FenceOver s 0 → ∃ c, exec i s = .next (s.noPoint.wait (.operandWait c)))) ∧
    (k ≤ s.blk.nwarps → MayArrive s n kk 0 →
      let u := barUse s n k
      let kept (t : State) : Prop := t.w.point = none ∧ RegistersSame s t ∧ (∀ a, t.memByte a = s.memByte a)
      let only (t : State) : Prop := (∀ j, j ≠ s.cur → t.warpOf j = s.warpOf j) ∧ SameOutside s { t with blocks := s.blocks } ∧ ∀ j, j ≠ n → AL.get? t.blk.bars j = AL.get? s.blk.bars j
      (u.count ≠ barForm k → u.arrived.getLsbD s.w.idx = false → exec i s = .next s.noPoint.illop) ∧
      (u.arrived.getLsbD s.w.idx = true → ∃ t, exec i s = .next t ∧ BothPaths s t (atBar n kk false) ∧ kept t ∧ only t ∧ AL.get? t.blk.bars n = AL.get? s.blk.bars n) ∧
      (u.count = barForm k → u.arrived.getLsbD s.w.idx = false → u.arrivals + 1 ≠ u.expected →
        ∃ t v, exec i s = .next t ∧ BothPaths s t (if waits then atBar n kk true else pastBar) ∧ kept t ∧ only t ∧
          AL.get? t.blk.bars n = some v ∧ v.arrivals = u.arrivals + 1 ∧ v.expected = u.expected ∧ v.count = u.count ∧ v.arrived = setLane u.arrived s.w.idx true) ∧
      (u.count = barForm k → u.arrived.getLsbD s.w.idx = false → u.arrivals + 1 = u.expected → s.blk.kind = .plain →
        ∃ t, exec i s = .next t ∧ BothPaths s t pastBar ∧ kept t ∧ AL.get? t.blk.bars n = none ∧ ∀ j, j ∈ s.warpsOf s.bid → j ≠ s.cur → Released s t n j))

/-- R31, R233, R342 to R344: `gbar` counts its warp among its gang's arrivals and waits, or completes the barrier and releases every warp of the gang that waits; the block of a task without gangs is a gang of its own. In a tenon or dowel run it goes on at once, and in recipe mode it traps ILLOP. -/
def GangBarrier : Prop :=
  ∀ (s : State),
    (s.w.recipe = true → exec .gbar s = .next s.illop) ∧
    (s.w.recipe = false → s.checkRun = true → ∃ t, exec .gbar s = .next t ∧ t.path.pc = s.path.pc + 4 ∧ t.w.point = none ∧ RegistersSame s t ∧ SameOutside s t) ∧
    (s.w.recipe = false → s.checkRun = false →
      (s.w.split = true → (otherPath s).st ≠ .ended → (∀ m j, (otherPath s).st ≠ .barrier m j false) → exec .gbar s = .next (s.noPoint.wait (.barrier 16 0 false))) ∧
      (∀ m j, s.w.split = true → (otherPath s).st = .barrier m j false → ¬ (m = 16 ∧ j = 0) → exec .gbar s = .next s.noPoint.illop) ∧
      (ArrivesAlone s 16 0 → ¬ FenceOver s 1 → ∃ c, exec .gbar s = .next (s.noPoint.wait (.operandWait c)))) ∧
    (MayArrive s 16 0 1 → s.checkRun = false → s.bid ∈ (s.gangOf s.bid).bids →
      let g := s.gangOf s.bid
      let exp := if g.arrived.isEmpty = true then (g.bids.flatMap s.liveWarps).length else g.expected
      (g.arrived.contains s.cur = true → ∃ t, exec .gbar s = .next t ∧ BothPaths s t (atBar 16 0 false) ∧ t.w.point = none ∧ RegistersSame s t ∧ SameOutside s t) ∧
      (g.arrived.contains s.cur = false → g.arrived.length + 1 ≠ exp → ∃ t h, exec .gbar s = .next t ∧ BothPaths s t (atBar 16 0 true) ∧ t.w.point = none ∧ RegistersSame s t ∧
        AL.get? t.gangs (s.gangKey s.blk) = some h ∧ h.arrived = g.arrived ++ [s.cur] ∧ h.expected = exp ∧ h.bids = g.bids ∧ SameOutside s { t with gangs := s.gangs }) ∧
      (g.arrived.contains s.cur = false → g.arrived.length + 1 = exp → ∃ t h, exec .gbar s = .next t ∧ BothPaths s t pastBar ∧ t.w.point = none ∧ RegistersSame s t ∧
        AL.get? t.gangs (s.gangKey s.blk) = some h ∧ h.arrived = [] ∧ h.bids = g.bids ∧ (∀ a, t.memByte a = s.memByte a) ∧
        ∀ j, j ∈ g.bids.flatMap s.warpsOf → j ≠ s.cur → Released s t 16 j))

/-- R128 to R133, R425 to R428: `talloc` always completes with a handle or a failure: the lowest free handle with a new tile of the descriptor at the first place it fits, pinned in its slice at level 2, or, for a gang's tile, the highest handle that is free in every live block, which each block takes in its turn. A NOHANDLE, and a level-1 NOBUDGET, is returned to every later block as well, and a BADSHAPE does not count as an allocation: both are the model's choice (DESIGN CHOICE, log entries 85 and 33).
`tfree` ends a handle at once, and its storage goes when no queued work and no earlier access that waits names it, beside its path; the last block of a gang to free a handle frees it everywhere. `tinfo` describes a usable tile, and answers 0 for another. -/
def TilesAreAllocatedFreedAndDescribed : Prop :=
  ∀ (d a la : Nat) (s : State), Ordinary s →
    let desc := s.rS a
    let x := (s.rS a).toNat
    let gives (v : DWord) (t : State) : Prop := exec (.talloc d a la) s = .next t ∧ t.rS d = (if d = 0 then 0 else s.scalarIn v) ∧ t.path.pc = s.path.pc + 4 ∧ t.w.point = none
    let fails (code : Nat) : Prop := ∃ t, gives (tileFail code) t ∧ TileKeptBut [.s d] 64 s t ∧ t.blocks = s.blocks
    (s.w.recipe = true → exec (.talloc d a la) s = .next s.illop ∧ exec (.tfree a la) s = .next s.illop) ∧
    (s.w.recipe = false →
      (∃ t v, gives v t ∧ WarpKeptBut [.s d] s t ∧ (tileGang desc = false → v.toNat < 64 ∨ ∃ code, 1 ≤ code ∧ code ≤ 5 ∧ v = tileFail code)) ∧
      (badShape desc s.task.gang = true → fails 4) ∧
      (badShape desc s.task.gang = false → tileGang desc = false → AL.has s.blocks s.bid = true →
        ((∀ h, h < 64 → AL.has s.blk.tiles h = true) → fails 1) ∧
        (∀ h, h < 64 → AL.has s.blk.tiles h = false → (∀ j, j < h → AL.has s.blk.tiles j = true) →
          let made (base : Nat) : Prop := ∃ t tile, gives (BitVec.ofNat 64 h) t ∧ TileKeptBut [.s d] h s { t with nextId := s.nextId } ∧
            t.blk.tile? h = some tile ∧ tile.desc = desc ∧ tile.base = base ∧ tile.owner = s.bid ∧ tile.bytes = [] ∧ (tileLevel desc = 2 → tile.slice = s.tileSliceOf s.bid h)
          (tileLevel desc = 0 → (s.fit s.bid desc = none → fails 2) ∧ ∀ base, s.fit s.bid desc = some base → made base) ∧
          (tileLevel desc = 2 → (s.pinFits (s.partD s.blk.vf) (s.tileSliceOf s.bid h) (tileGran desc) = false → fails 3) ∧
            (s.pinFits (s.partD s.blk.vf) (s.tileSliceOf s.bid h) (tileGran desc) = true → made 0)))) ∧
      (badShape desc s.task.gang = false → tileGang desc = true → AL.has s.blocks s.bid = true → s.bid ∈ s.gangLive s.bid →
        let k := s.blk.gwCount
        let g := s.gangOf s.bid
        let live := s.gangLive s.bid
        let fits : Bool := if tileMirror desc then live.all fun b => (s.fit b desc).isSome else (s.fit s.bid desc).isSome
        (∀ d0 h st ret freed, g.allocs[k]? = some (d0, h, st, ret, freed) →
          (d0 ≠ desc → ∃ t, gives (tileFail 5) t) ∧ (d0 = desc → st ≠ 0 → ∃ t, gives (tileFail st) t) ∧
          (∀ tile, d0 = desc → st = 0 → h < 64 → AL.get? s.blk.tiles h = some tile → ∃ t, gives (BitVec.ofNat 64 h) t ∧ t.blk.tile? h = some { tile with returned := true })) ∧
        (g.allocs[k]? = none → k = g.allocs.length →
          ((∀ h, h < 64 → ∃ b, b ∈ live ∧ AL.has (s.blockOf b).tiles h = true) → ∃ t, gives (tileFail 1) t) ∧
          ∀ h, h < 64 → (∀ b, b ∈ live → AL.has (s.blockOf b).tiles h = false) → (∀ j, h < j → j < 64 → ∃ b, b ∈ live ∧ AL.has (s.blockOf b).tiles j = true) →
            (fits = false → ∃ t, gives (tileFail 2) t) ∧
            (fits = true → (∀ b, b ∈ live → AL.has s.blocks b = true) → ∃ t, gives (BitVec.ofNat 64 h) t ∧ (∃ tile, t.blk.tile? h = some tile ∧ tile.desc = desc) ∧
              ∀ b, b ∈ live → ∃ tile, AL.get? (t.blockOf b).tiles h = some tile ∧ tile.desc = desc ∧ tile.bytes = [] ∧ tile.owner = if tileMirror desc then b else s.bid))) ∧
      (64 ≤ x → exec (.tfree a la) s = .next s.noPoint.illop) ∧
      (∀ tile, s.blk.tile? x = some tile →
        let slows := s.slowTilesOf s.bid fun y => y.handle == x
        (s.copiesNaming s.bid x ≠ [] ∨ s.matsNaming s.bid x ≠ [] ∨ slows ≠ [] →
          ∃ t, exec (.tfree a la) s = .next t ∧ IssuesSlow s t la x (.tile (s.matsNaming s.bid x) slows (s.copiesNaming s.bid x)) .tfree 4 ∧ t.w.point = none ∧ t.blk.tile? x = none ∧
            (AL.has s.blocks s.bid = true → AL.get? t.blk.tiles x = some { tile with returned := false, freeing := some s.freer }) ∧ WarpKeptBut [] s t) ∧
        (s.copiesNaming s.bid x = [] → s.matsNaming s.bid x = [] → slows = [] →
          (∃ t, exec (.tfree a la) s = .next t ∧ t.path.pc = s.path.pc + 4 ∧ t.w.point = none ∧ t.blk.tile? x = none ∧ WarpKeptBut [] s t) ∧
          (tile.gangwide = false → ∃ t, exec (.tfree a la) s = .next t ∧ AL.get? t.blk.tiles x = none ∧ TileKeptBut [] x s t) ∧
          ∀ i g d0 ret freed, tile.gangwide = true → AL.get? s.gangs (s.gangKey s.blk) = some g → g.current x = some i → g.allocs[i]? = some (d0, x, 0, ret, freed) → s.bid ∈ ret →
            (∀ b, b ∈ s.gangLive s.bid → b = s.bid ∨ b ∈ freed) → ∃ t, exec (.tfree a la) s = .next t ∧ ∀ b, b ∈ s.gangLive s.bid → AL.get? (t.blockOf b).tiles x = none)) ∧
      (x < 64 → s.blk.tile? x = none → exec (.tfree a la) s = .next (s.noPoint.trap tcHandle 0))) ∧
    (s.recipeBlocks [.s d] = false →
      (∀ tile, s.blk.tile? x = some tile → ScalarAnswers (.tinfo d a la) s d (tileInfo tile) 4) ∧
      (s.blk.tile? x = none → ScalarAnswers (.tinfo d a la) s d 0 4))

/-- R134, R135, R430 to R435: a tile access by a lane index reads, writes or exchanges the tile's elements, lanes in ascending order, with a narrow element extended by the element type; a store to a gang's tile goes to its other holders by messages, in order, and a gang's atomics are performed at its first holder.
An access waits beside its path for queued matrix work, and for earlier accesses that wait themselves, that come before it at the tile; a register that names no usable tile traps HANDLE, and an index beyond the tile BOUNDS. -/
def TileAccesses : Prop :=
  ∀ (d h i la : Nat) (s : State),
    (s.vOk d = true → s.vOk i = true → s.w.recipe = false → s.blk.tile? (s.rS h).toNat = none →
      exec (.tld d h i la) s = .next (s.trap tcHandle 0) ∧ exec (.tst h i d la) s = .next (s.noPoint.trap tcHandle 0)) ∧
    (∀ tile, s.blk.tile? (s.rS h).toNat = some tile → s.vOk d = true → s.vOk i = true → s.w.recipe = false → s.vRegsOk d (widthRegs (tileElem tile.desc)) = true →
      (∀ pre e post, s.elemIdx i s.realLanes = pre ++ e :: post → (∀ x, x ∈ pre → x.2 < tileElems tile.desc) → tileElems tile.desc ≤ e.2 →
        exec (.tld d h i la) s = .next (s.trap tcBounds e.2) ∧ exec (.tst h i d la) s = .next (s.noPoint.trap tcBounds e.2)) ∧
      ((∀ e, e ∈ s.elemIdx i s.realLanes → e.2 < tileElems tile.desc) → Ordinary s → s.tileWait s.bid (s.rS h).toNat ≠ .tile [] [] [] →
        let x := (s.rS h).toNat
        let eb := tileElem tile.desc
        (∃ t, exec (.tst h i d la) s = .next t ∧ t.w.point = none ∧ t.w.pend = s.w.pend ∧ (∀ a, t.memByte a = s.memByte a) ∧ t.blocks = s.blocks ∧
          IssuesSlow s t la x (s.tileWait s.bid x) (.tst eb ((s.elemIdx i s.realLanes).map fun e => (e.2, s.vVal d (widthRegs eb) e.1 % 2 ^ (8 * eb)))) 4) ∧
        ∃ t p, exec (.tld d h i la) s = .next t ∧ t.w.pend = s.w.pend ++ [p] ∧ p.id = s.nextId ∧ p.regs = destRegs d (widthRegs eb) ∧ p.dest = d ∧ p.width = eb ∧ p.lanes = s.acting ∧
          (∀ a, t.memByte a = s.memByte a) ∧ t.blocks = s.blocks ∧
          IssuesSlow s t la x (s.tileWait s.bid x) (.tld ((s.elemIdx i (lanesOf s.acting)).filter fun e => e.2 < tileElems tile.desc)) 4)) ∧
    ∀ x tile, TileReady s h i x tile →
      let eb := tileElem tile.desc
      let n := widthRegs eb
      let cells := (s.elemIdx i s.realLanes).map fun e => (e.2, s.vVal d n e.1 % 2 ^ (8 * eb))
      let near := s.ownStoresFirst s.bid x
      let loaded (l : Nat) : Nat := loadValue s.path.modeET eb (if (s.rV i l).toNat < tileElems tile.desc then near.elemAt s.bid x (s.rV i l).toNat else 0)
      (s.vOk d = true → s.vRegsOk d n = true →
        (∃ t, exec (.tld d h i la) s = .next t ∧ t.path.pc = s.path.pc + 4 ∧ WarpKeptBut (destRegs d n) s t ∧
          ∀ j l, j < n → l < 32 → t.rV (d + j) l = if s.acting.getLsbD l = true then BitVec.ofNat 32 (s.laneIn n l (loaded l) / 2 ^ (32 * j)) else s.rV (d + j) l) ∧
        ((∀ m, m ∈ s.eng.tileMsgs → ¬ (m.src = s.bid ∧ m.dst = tile.owner)) → VectorAnswers (.tld d h i la) s d n 4 s.acting (fun l => .exact (loaded l)))) ∧
      (s.vOk d = true → s.vRegsOk d n = true → AL.has s.blocks s.bid = true →
        (tileGang tile.desc = false → ∃ t, exec (.tst h i d la) s = .next t ∧ t.path.pc = s.path.pc + 4 ∧ t.w.point = none ∧ TileKeptBut [] x s { t with nextId := s.nextId } ∧
          AL.get? t.blk.tiles x = some (cells.foldl (fun (t : Tile) e => t.put (e.1 * eb) (leBytes eb e.2)) tile)) ∧
        (tileGang tile.desc = true →
          let dsts := if tileMirror tile.desc then (s.gangLive s.bid).filter (· != s.bid) else if tile.owner = s.bid then [] else [tile.owner]
          ∃ t msgs, exec (.tst h i d la) s = .next t ∧ t.path.pc = s.path.pc + 4 ∧ t.w.point = none ∧ WarpKeptBut [] s t ∧ t.eng.tileMsgs = s.eng.tileMsgs ++ msgs ∧
            msgs.map (fun m => (m.wid, m.src, m.dst, m.handle, m.off, m.bytes)) = cells.flatMap fun c => dsts.map fun b => (s.cur, s.bid, b, x, c.1 * eb, leBytes eb c.2)) ∧
        ∀ (op : AtomOp) (vc : Nat) (nd : Bool), atomTypeOk op (tileEb tile.desc) s.path.modeET = true → (op = .cas → s.vOk vc = true ∧ s.vRegsOk vc n = true) →
          let place := s.atomPlace s.bid x
          ∀ kept, AL.get? (s.blockOf place).tiles x = some kept → (∀ m, m ∈ s.eng.tileMsgs → ¬ (m.dst = place ∧ m.handle = x)) →
            let r := tileAtoms op s.path.modeET eb kept (s.tileAtomLanes d i vc eb (op == .cas))
            ∃ t, exec (.tatom op d h i vc nd la) s = .next t ∧ t.path.pc = s.path.pc + 8 ∧ t.w.point = none ∧ WarpKeptBut (destRegs d n) s t ∧
              (tileGang tile.desc = false → TileKeptBut (destRegs d n) x s { t with nextId := s.nextId } ∧ AL.get? t.blk.tiles x = some (r.2.foldl (fun (t : Tile) e => t.put (e.1 * eb) (leBytes eb e.2)) tile)) ∧
              ∀ j l, j < n → l < 32 → t.rV (d + j) l =
                if nd = false ∧ s.acting.getLsbD l = true then BitVec.ofNat 32 (s.laneIn n l (AL.getD r.1 l 0) / 2 ^ (32 * j)) else s.rV (d + j) l)

end Sys2Proof.Claims

/-- R165, R166, R180, R326, R365: a fence is complete at once when what its scope names is done, and waits for it beside its path otherwise, with later accesses of its warp waiting for it; its wait is over exactly when all of that is done.
`fence.sc` at package scope also joins the warp's times with GSC, and at system scope asks the order point for a ticket: where no route leads there, the request is refused and its task is killed. In a tenon or dowel run fences order nothing. That GSC stays below 2^40 is the model's choice (DEDUCED, log entry 16).
R168, R170, R179, R401, R402, R460: `qfence` always goes on, having ordered the named queues after their entries so far, with those a former one named; `qwait` is complete when they are empty, taking the times of completed entries, waits beside its path for their entries, or traps a queue's fault;
`wacq` and `wrel` check their record and window, and are complete when none of the warp's accesses to it that they order is open; otherwise they wait for those beside their path. -/
def Obligations.FencesAndOrdering : Prop := FencesWaitForTheirScope ∧ QueueAndWindowOrdering

/-- R31, R341 to R344: an arrival at a block's barrier counts its warp once, for both of its paths where both stand there; `bar` then waits and `arrive` goes on, and the arrival that completes the use releases every warp that waits and ends the use. A path whose warp's other path runs on waits for it,
and a warp that has arrived already waits with its new arrival uncounted. A count above the block's warps, a form other than the use's of a warp that has not arrived, and another barrier for the other path trap ILLOP.
R31, R233, R342 to R344: `gbar` counts its warp among its gang's arrivals and waits, or completes the barrier and releases every warp of the gang that waits; the block of a task without gangs is a gang of its own. In a tenon or dowel run it goes on at once, and in recipe mode it traps ILLOP. -/
def Obligations.Barriers : Prop := BlockBarriers ∧ GangBarrier

/-- R128 to R133, R425 to R428: `talloc` always completes with a handle or a failure: the lowest free handle with a new tile of the descriptor at the first place it fits, pinned in its slice at level 2, or, for a gang's tile, the highest handle that is free in every live block, which each block takes in its turn. A NOHANDLE, and a level-1 NOBUDGET, is returned to every later block as well, and a BADSHAPE does not count as an allocation: both are the model's choice (DESIGN CHOICE, log entries 85 and 33).
`tfree` ends a handle at once, and its storage goes when no queued work and no earlier access that waits names it, beside its path; the last block of a gang to free a handle frees it everywhere. `tinfo` describes a usable tile, and answers 0 for another.
R134, R135, R430 to R435: a tile access by a lane index reads, writes or exchanges the tile's elements, lanes in ascending order, with a narrow element extended by the element type; a store to a gang's tile goes to its other holders by messages, in order, and a gang's atomics are performed at its first holder.
An access waits beside its path for queued matrix work, and for earlier accesses that wait themselves, that come before it at the tile; a register that names no usable tile traps HANDLE, and an index beyond the tile BOUNDS. -/
def Obligations.Tiles : Prop := TilesAreAllocatedFreedAndDescribed ∧ TileAccesses

namespace Sys2Proof.Claims

/-! Copies and streams (R206 to R218, R360, R361, R400, R404, R414) -/

/-- The registers and the completion of a `cpy` are in order (R207). -/
def cpyFieldsOk (s : State) (c : CpyArgs) : Bool :=
  s.vOk c.vsrc && s.vOk c.vdst && !(c.done == 1 && (s.rS c.scont).toNat % 4 != 0) && !(c.done == 2 && decide (0xFFFFF < (s.rS c.scont).toNat))

/-- The tiles that a `cpy` names are usable. -/
def cpyTilesOk (s : State) (c : CpyArgs) : Bool :=
  !(c.stile && (s.blk.tile? (s.rS c.bsrc).toNat).isNone) && !(c.dtile && (s.blk.tile? (s.rS c.bdst).toNat).isNone)

/-- The records of a `cpy` are sound, or it names a tile there. -/
def cpyRecordsOk (s : State) (c : CpyArgs) : Bool := !s.cpyBadRec c.stile c.bsrc && !s.cpyBadRec c.dtile c.bdst

/-- The places of the lanes on the source side and on the destination side. -/
def cpySrc (s : State) (c : CpyArgs) : List (Option CopyLoc) := s.cpySide c.stile c.bsrc c.vsrc (cpyWs c)
def cpyDst (s : State) (c : CpyArgs) : List (Option CopyLoc) := s.cpySide c.dtile c.bdst c.vdst (cpyWd c)

/-- A `cpy` whose checks before that of its queue pass (R208): whole warp, registers and completion in order, usable tiles, sound records, every lane in range and aligned, a writable destination. -/
def CopyReady (s : State) (c : CpyArgs) (src dst : List CopyLoc) : Prop :=
  s.wholeWarp = true ∧ cpyFieldsOk s c = true ∧ s.w.recipe = false ∧ cpyTilesOk s c = true ∧ cpyRecordsOk s c = true ∧ cpySrc s c = src.map some ∧ cpyDst s c = dst.map some ∧
  cpyAlign src (cpyWs c) dst (cpyWd c) = none ∧ (c.dtile = false → recRo (s.rB c.bdst) = false)

/-- Where a block reaches an address in memory: the place, the domain and the right to write of a page that its core's TLB holds. -/
def heldPage (s : State) (bid addr : Nat) : Option (Nat × Nat × Bool) :=
  (tlbFind s.mm.tlb1 (s.blockOf bid).core (s.blockOf bid).vf addr).map fun e => (e.spa + (addr - e.va), e.dom, e.w)

/-- The place of such an address, and its domain. -/
def heldSpa (s : State) (bid addr : Nat) : Nat := ((heldPage s bid addr).map (·.1)).getD 0
def heldDom (s : State) (bid addr : Nat) : Nat := ((heldPage s bid addr).map (·.2.1)).getD 0

/-- An engine of a block reaches an address: its page is held and lies in this package, it may be written where that is asked, and its line is of the page's domain. -/
def Reached (s : State) (bid addr : Nat) (write : Bool) : Prop :=
  (heldPage s bid addr).isSome = true ∧ spaRemote (heldSpa s bid addr) = false ∧ (write = true → (heldPage s bid addr).any (·.2.2) = true) ∧
  LineFits s (heldSpa s bid addr / 256) (heldDom s bid addr)

/-- Addresses on one line are reached for one domain. -/
def OneDomain (s : State) (bid : Nat) (as : List Nat) : Prop :=
  ∀ a, a ∈ as → ∀ b, b ∈ as → heldSpa s bid a / 256 = heldSpa s bid b / 256 → heldDom s bid a = heldDom s bid b

/-- An address is read with no stop: reached, on one line, its tag as the record gives it, and no error waiting in its bytes (R211). -/
def Readable (s : State) (bid addr width tag : Nat) : Prop :=
  Reached s bid addr false ∧ heldSpa s bid addr % 256 + width ≤ 256 ∧ s.ownTag bid (heldSpa s bid addr) = tag ∧ CleanRange s (heldSpa s bid addr) width

/-- A lane's destination in memory is written with no stop: reached with the right to write, its tag as the record gives it or to be set, and its page's counters not used up (R211, R253). -/
def Writable (s : State) (bid : Nat) (e : CopyEntry) (addr : Nat) : Prop :=
  Reached s bid addr true ∧ (e.tagset = true ∨ s.ownTag bid (heldSpa s bid addr) = e.dstTag) ∧ s.pageExhausted (heldSpa s bid addr / 4096) = false

/-- The head entry of a queue, and the entries after it. -/
def HeadIs (s : State) (bid q : Nat) (e : CopyEntry) (r : List CopyEntry) : Prop := ((s.blockOf bid).queue q).entries = e :: r

/-- The core's next transfer is one of the lanes of entry e, at the head of queue k of a block, on a side: false the source, true the destination. -/
def NextTransfer (s : State) (core k bid : Nat) (e : CopyEntry) (r : List CopyEntry) (side : Bool) (lanes : List Nat) : Prop :=
  s.copyNext core = some (k, bid) ∧ HeadIs s bid (k % 8) e r ∧ e.nextSide = some (side, lanes)

/-- A transfer of the core leaves entry e' at the head of the queue, with the same entries after it, no byte of memory changed that `w` does not give, and the rotation at queue k. -/
def Transferred (s t : State) (core k bid : Nat) (r : List CopyEntry) (e' : CopyEntry) (w : Nat → Option Nat) : Prop :=
  (∃ r', HeadIs t bid (k % 8) e' r' ∧ r'.map (·.id) = r.map (·.id)) ∧ (∀ a, t.memByte a = match w a with
    | some x => BitVec.ofNat 8 x
    | none => s.memByte a) ∧
  t.regs = s.regs ∧ AL.get? t.eng.copyRot core = some k

/-- The bytes of a stream's record in a tile. -/
def recordIn (s : State) (x off : Nat) : BitVec 512 := BitVec.ofNat 512 (leNat ((List.range 64).map fun i => ((s.tileStore s.bid x).byte (off + i)).toNat))

/-- The current warp with its queues left out: everything but its stream queues reads as before. -/
def QueuesOnly (n : Nat) (s t : State) : Prop := RegistersSame s t ∧ t.w.point = none ∧ (∀ j, j ≠ n → AL.get? t.w.q j = AL.get? s.w.q j)

/-- The issuing path's instruction reads its tile now, its wait for earlier work being over. -/
def LookedFor (s : State) : Prop := (s.w.slow.any fun y => y.looks s.curB s.path.pc) = true

/-- The wait for the earlier work that names a tile an instruction reads at its PC: the path waits there, and the work is listed once (R326, R414, R438). -/
def looking (s : State) (h : Nat) : State :=
  (({ s with nextId := s.nextId + 1 }).modW fun w => { w with slow := w.slow ++ [Slow.mk s.nextId s.curB s.path.pc h (s.tileWait s.bid h) .look] }).wait (.operandWait (s.tileWait s.bid h))

end Sys2Proof.Claims

/-- R206 to R208, R210, R212, R360: a `cpy` whose checks pass puts one entry with its lanes' places at the end of its queue and goes on, or sleeps for a yield completion; a full queue makes it wait, and a faulted one traps. A check that fails traps in this order: PARTIAL for a partial warp,
ILLOP for its registers, completion or recipe mode, HANDLE for a tile, BOUNDS for a record or a lane out of range, ALIGN for the lowest lane with a misaligned side, ROSTORE for a read-only destination. -/
def Obligations.CopiesAreQueued : Prop :=
  ∀ (c : CpyArgs) (s : State),
    (s.wholeWarp = false → exec (.cpy c) s = .next (s.trap tcPartial 0)) ∧
    (s.wholeWarp = true → cpyFieldsOk s c = false ∨ s.w.recipe = true → exec (.cpy c) s = .next s.illop) ∧
    (s.wholeWarp = true → cpyFieldsOk s c = true → s.w.recipe = false →
      (cpyTilesOk s c = false → exec (.cpy c) s = .next (s.noPoint.trap tcHandle 0)) ∧
      (cpyTilesOk s c = true → cpyRecordsOk s c = false ∨ none ∈ cpySrc s c ∨ none ∈ cpyDst s c → exec (.cpy c) s = .next (s.noPoint.trap tcBounds 0)) ∧
      (∀ src dst, cpyTilesOk s c = true → cpyRecordsOk s c = true → cpySrc s c = src.map some → cpyDst s c = dst.map some →
        (∀ a, cpyAlign src (cpyWs c) dst (cpyWd c) = some a → exec (.cpy c) s = .next (s.noPoint.trap tcAlign a)) ∧
        (cpyAlign src (cpyWs c) dst (cpyWd c) = none → c.dtile = false → recRo (s.rB c.bdst) = true →
          exec (.cpy c) s = .next (s.noPoint.trap tcRostore ((dst.head?.map (·.addr)).getD 0))))) ∧
    ∀ src dst, CopyReady s c src dst →
      (∀ f, (s.blk.queue c.queue).faulted = some f → exec (.cpy c) s = .next (s.noPoint.queueTrap f)) ∧
      ((s.blk.queue c.queue).faulted = none → Ordinary s →
        (16 ≤ (s.blk.queue c.queue).entries.length → exec (.cpy c) s = .next (s.noPoint.wait (.operandWait (.copyPlace s.bid c.queue)))) ∧
        ((s.blk.queue c.queue).entries.length < 16 →
          ∃ t, exec (.cpy c) s = .next t ∧ t.path.pc = s.path.pc + 8 ∧ t.path.st = (if c.done = 1 then .sleepCopy s.nextId (s.rS c.scont).toNat else s.path.st) ∧ t.w.point = none ∧
            RegistersSame s t ∧ (∀ a, t.memByte a = s.memByte a) ∧ SameOutside s { t with blocks := s.blocks, nextId := s.nextId } ∧ (∀ b, b ≠ s.bid → t.blockOf b = s.blockOf b) ∧
            (AL.has s.blocks s.bid = true → (t.blk.queue c.queue).entries = (s.blk.queue c.queue).entries ++ [s.cpyEntry c s.nextId src dst none none] ∧
              (t.blk.queue c.queue).pts = joinPts s.w.pts (s.blk.queue c.queue).pts ∧ ∀ q, q ≠ c.queue → t.blk.queue q = s.blk.queue q)))

/-- R125, R179, R209 to R212: a line transfer of the core's next queue reads the lanes of one line into its entry, or writes those of one destination line, converted, the higher lane winning, once the checks of every destination pass; every other byte reads as before.
An entry performed whole leaves its queue, the warps and queues that wait for it take its times, and a path that sleeps on it goes on at its continuation;
one that found a stop leaves its queue faulted and empty once the lanes before the stop are written, reports an invalid host page to the PF (R156), and traps a path that sleeps on it. -/
def Obligations.CopyEngine : Prop :=
  ∀ (s : State) (core k bid : Nat) (e : CopyEntry) (r : List CopyEntry),
    (s.copyNext core = none → exec (.copyLineTransfer core) s = .next s) ∧
    (∀ lanes, NextTransfer s core k bid e r false lanes →
      ((∀ i, i ∈ lanes → (laneLoc e.src i).tile = true) → (∀ m, m ∈ s.eng.tileMsgs → m.src ≠ bid) →
        ∃ t e', exec (.copyLineTransfer core) s = .next t ∧ Transferred s t core k bid r e' (fun _ => none) ∧ t.warps = s.warps ∧
          e' = lanes.foldl (fun (x : CopyEntry) i => x.gotLane i ((List.range e.ws).map fun j => ((s.tileStore bid (laneLoc e.src i).handle).byte ((laneLoc e.src i).addr + j)).toNat)) e) ∧
      ((∀ i, i ∈ lanes → (laneLoc e.src i).tile = false ∧ Readable s bid (laneLoc e.src i).addr e.ws e.srcTag) → OneDomain s bid (lanes.map fun i => (laneLoc e.src i).addr) →
        ∃ t e', exec (.copyLineTransfer core) s = .next t ∧ Transferred s t core k bid r e' (fun _ => none) ∧ ((∀ d, s.inDirMode d = true) → t.warps = s.warps) ∧
          e'.buf = (lanes.foldl (fun (x : CopyEntry) i => x.gotLane i (s.ownBytes bid (heldSpa s bid (laneLoc e.src i).addr) e.ws)) e).buf ∧
          e'.readLanes = lanes.foldl (fun l i => insSorted i l) e.readLanes)) ∧
    (∀ i lanes, NextTransfer s core k bid e r true (i :: lanes) → (s.blockOf bid).holds = false →
      e.checked = true ∨ (∀ j, j < 32 → (laneLoc e.dst j).tile = true ∨ Writable s bid e (laneLoc e.dst j).addr) →
      let l := laneLoc e.dst i
      let spa := heldSpa s bid l.addr
      (l.tile = false → Writable s bid e l.addr → max (Tbl.get e.pts (homeDie spa)).toNat ((Tbl.get s.mm.rts (spa / 256)).toNat + 1) < Config.rebaseAt →
        ∃ t e', exec (.copyLineTransfer core) s = .next t ∧ Transferred s t core k bid r e' (fun a => if spa / 256 * 256 ≤ a then AL.get? (e.lineOut (i :: lanes)) (a - spa / 256 * 256) else none) ∧
          t.warps = s.warps ∧ e'.wroteLanes = (i :: lanes).foldl (fun l i => insSorted i l) e.wroteLanes) ∧
      (∀ tile, l.tile = true → (∀ j, j ∈ lanes → (laneLoc e.dst j).handle = l.handle) → AL.get? (s.blockOf bid).tiles l.handle = some tile → tileGang tile.desc = false →
        ∃ t e', exec (.copyLineTransfer core) s = .next t ∧ Transferred s t core k bid r e' (fun _ => none) ∧ t.warps = s.warps ∧
          e'.wroteLanes = (i :: lanes).foldl (fun l i => insSorted i l) e.wroteLanes ∧
          AL.get? (t.blockOf bid).tiles l.handle = some ((i :: lanes).foldl (fun (x : Tile) j => x.put (laneLoc e.dst j).addr (e.outBytes j)) tile))) ∧
    (∀ q, HeadIs s bid q e r → s.copyDone bid q = true →
      (e.done ≤ 1 → ∃ t, exec (.copyEntryComplete bid q) s = .next t ∧ ((t.blockOf bid).queue q).entries.map (·.id) = r.map (·.id) ∧
        (e.readSeq = none → e.doneSeq = none → ∀ a, t.memByte a = s.memByte a) ∧ t.regs = s.regs ∧ (∀ b, b ≠ bid → t.blockOf b = s.blockOf b) ∧
        (∀ w d, w ∈ s.warpsOf bid → (s.warpOf w).awaits e.id = true ∨ (e.done = 1 ∧ w = e.wid ∧ ((s.warpOf w).path e.pathB).st = .sleepCopy e.id e.scont) → d < 4 →
          max (Tbl.get (s.warpOf w).pts d).toNat (Tbl.get e.pts d).toNat ≤ (Tbl.get (t.warpOf w).pts d).toNat) ∧
        (((s.warpOf e.wid).path e.pathB).st ≠ .sleepCopy e.id e.scont → ∀ w, t.warpOf w = { s.warpOf w with pts := (t.warpOf w).pts }) ∧
        (∀ w, w ≠ e.wid → t.warpOf w = { s.warpOf w with pts := (t.warpOf w).pts })) ∧
      (e.done = 1 → ((s.warpOf e.wid).path e.pathB).st = .sleepCopy e.id e.scont →
        ∃ t, exec (.copyEntryComplete bid q) s = .next t ∧ ((t.warpOf e.wid).path e.pathB).st = .ready ∧
          ((t.warpOf e.wid).path e.pathB).pc = BitVec.ofNat 57 ((s.taskOf (s.blockOf bid).vf (s.blockOf bid).task).codeva + e.scont)) ∧
      (e.done = 2 → ∃ u : State, exec (.copyEntryComplete bid q) s = .next (u.decOrLose (s.blockOf bid).vf e.scont) ∧ ((u.blockOf bid).queue q).entries.map (·.id) = r.map (·.id) ∧ (e.readSeq = none → e.doneSeq = none → ∀ a, u.memByte a = s.memByte a) ∧
        u.tasks = s.tasks ∧ u.regs = s.regs)) ∧
    ∀ q lane code cause addr, HeadIs s bid q e r → e.stop = some (lane, code, cause, addr) →
      (e.wroteLanes.length < lane → exec (.copyEntryStop bid q) s = .next s) ∧
      (lane ≤ e.wroteLanes.length →
        ∃ u : State, ((u.blockOf bid).queue q).entries = [] ∧ ((u.blockOf bid).queue q).faulted = some (code, e.xpc) ∧ (∀ a, u.memByte a = s.memByte a) ∧ u.warps = s.warps ∧
          u.rep = (match e.stopAt with
            | (level, _, some gpa) => (s.queueTerm Config.pf (termRecord (s.blockOf bid).vf (s.partD (s.blockOf bid).vf) tcAccess 2 false level 1 addr gpa 0 (s.blockOf bid).task (s.blockOf bid).core) none).rep
            | _ => s.rep) ∧
          (((s.warpOf e.wid).path e.pathB).st ≠ .sleepCopy e.id e.scont → exec (.copyEntryStop bid q) s = .next u) ∧
          (((s.warpOf e.wid).path e.pathB).st = .sleepCopy e.id e.scont →
            exec (.copyEntryStop bid q) s = .next ((u.sendFault (u.blockOf bid) (code, e.xpc)).trapAt e.wid e.pathB code e.xpc ((s.warpOf e.wid).path e.pathB).pc (BitVec.ofNat 57 addr) TermInfo.none)))

/-- R169, R179, R214 to R218, R400, R404, R414: `sattach` binds a queue to the record its tile holds, at the warp's times and after the warp's accesses so far; `qdrop` unbinds it; `qpop` gives each active lane the head entry's element and 0 with its flag to a lane whose page was not resident,
and the engine appends the next entry's elements and wakes a path that waits for them; an unbound or finished queue traps QUEUE, an empty one makes the pop wait, and an entry that failed traps what it met, with a record to the PF where that is an invalid host page (R156). A record that is read while its warp's buffers are taken binds its queue beside the path, once four are free (R326). -/
def Obligations.Streams : Prop :=
  ∀ (d n a b la : Nat) (s : State),
    (s.w.recipe = true → exec (.sattach n a b la) s = .next s.illop ∧ exec (.qdrop n la) s = .next s.illop) ∧
    (s.w.recipe = false →
      (¬ LookedFor s → s.blk.tile? (s.rS a).toNat = none → exec (.sattach n a b la) s = .next (s.noPoint.trap tcHandle 0)) ∧
      (∃ t, exec (.qdrop n la) s = .next t ∧ AL.get? t.w.q n = none ∧ QueuesOnly n s t ∧ t.path.pc = s.path.pc + 4 ∧ SameOutside s t) ∧
      ∀ x tile, x = (s.rS a).toNat → s.blk.tile? x = some tile →
        let off := (s.rS b).toNat
        let near := s.noPoint.endLook.ownStoresFirst s.bid x
        let r := recordIn near x off
        (¬ LookedFor s → off % 64 ≠ 0 ∨ tileBytes tile.desc < off + 64 → exec (.sattach n a b la) s = .next (s.noPoint.trap tcBounds 0)) ∧
        (¬ LookedFor s → off % 64 = 0 → off + 64 ≤ tileBytes tile.desc → s.tileWait s.bid x ≠ .tile [] [] [] → exec (.sattach n a b la) s = .next (looking s.noPoint x)) ∧
        (LookedFor s ∨ (off % 64 = 0 ∧ off + 64 ≤ tileBytes tile.desc ∧ s.tileWait s.bid x = .tile [] [] []) → Ordinary s →
          (∀ c, strBad r = some c → exec (.sattach n a b la) s = .next (near.trap c 0)) ∧
          (strBad r = none → (near.dropQueue n).freeBuffers near.blk.core < 4 → s.path.st ≠ .queueWait n →
            ∃ t, exec (.sattach n a b la) s = .next t ∧ IssuesSlow near t la 0 (.buffers near.blk.core) (.bind n r) 4 ∧ AL.get? t.w.q n = none ∧ QueuesOnly n s t) ∧
          (strBad r = none → 4 ≤ (near.dropQueue n).freeBuffers near.blk.core →
            ∃ t, exec (.sattach n a b la) s = .next t ∧ AL.get? t.w.q n = some ⟨r, 0, [], s.w.pts, s.outstanding s.cur, none⟩ ∧ QueuesOnly n s t ∧ t.path.pc = s.path.pc + 4 ∧
              (∀ a, t.memByte a = s.memByte a) ∧ ((∀ m, m ∈ s.eng.tileMsgs → m.src ≠ s.bid) → SameOutside s t)))) ∧
    (let u := if s.named [.v d] then s.noPoint else s
     (s.vOk d = false → exec (.qpop d n) s = .next s.illop) ∧
     (s.vOk d = true → s.recipeBlocks [.v d] = false →
      (AL.get? s.w.q n = none → exec (.qpop d n) s = .next (u.trap tcQueue 0)) ∧
      ∀ q, AL.get? s.w.q n = some q →
        (strEntries q.record ≤ q.pops → exec (.qpop d n) s = .next (u.trap tcQueue 0)) ∧
        (q.pops < strEntries q.record → q.bufs = [] → exec (.qpop d n) s = .next (u.wait (.queueWait n))) ∧
        ∀ e l, q.pops < strEntries q.record → q.bufs = e :: l → Ordinary s ∨ e.violFirst = none →
          (∀ x, e.fail = some x → s.strLogged s.cur q = false →
            (x.gpa = none → exec (.qpop d n) s = .next (u.trapInfo x.code x.addr ⟨x.cause, x.level, x.stage, false, none, none⟩)) ∧
            (∀ gpa, x.gpa = some gpa → exec (.qpop d n) s = .next ((u.trapInfo x.code x.addr ⟨x.cause, x.level, x.stage, false, none, some gpa⟩).queueTerm Config.pf
              (termRecord s.blk.vf ((u.trapInfo x.code x.addr ⟨x.cause, x.level, x.stage, false, none, some gpa⟩).partD s.blk.vf) tcAccess 2 false x.level 1 x.addr gpa 0 s.blk.task s.blk.core) none))) ∧
          (e.fail = none → s.blk.kind = .plain →
            let nr := maskOf e.nonres &&& s.activeGuarded
            ∃ t, exec (.qpop d n) s = .next t ∧ AL.get? t.w.q n = some { q with pops := q.pops + 1, bufs := l } ∧ t.path.pc = s.path.pc + 4 ∧
              (∀ i, i < 32 → t.rV d i = if s.activeGuarded.getLsbD i = true
                then BitVec.ofNat 32 (s.laneIn 1 i (if nr.getLsbD i then 0 else (strValue q.record (AL.getD e.elems i 0).toNat).toNat)) else s.rV d i) ∧
              (∀ k, t.rP k = if k = s.path.modeFP ∧ k ≠ 0 then s.rP k ||| nr else s.rP k) ∧
              (∀ k i, i < 32 → k ≠ d → t.rV k i = s.rV k i) ∧ (∀ k, t.rS k = s.rS k) ∧ (∀ k, t.rB k = s.rB k) ∧ SameOutside s t))) ∧
    ∀ wid, (s.canFetch wid n = false → exec (.streamFetch wid n) s = .next s) ∧
      ∀ q, s.canFetch wid n = true → AL.get? (s.warpOf wid).q n = some q →
        let j := q.pops + q.bufs.length
        let bid := (s.warpOf wid).bid
        let places := (strElems q.record j).filterMap (strAddr q.record)
        (∃ t q', exec (.streamFetch wid n) s = .next t ∧ AL.get? (t.warpOf wid).q n = some q' ∧ q'.record = q.record ∧ q'.pops = q.pops ∧
          ((q'.coming = none ∧ q'.bufs.length = q.bufs.length + 1) ∨ (q'.coming ≠ none ∧ q'.bufs = q.bufs))) ∧
        ((s.blockOf bid).isCheck = false → (∀ i, i ∈ strElems q.record j → ∃ va, strPlace q.record i = .mem va ∧ va % 2 ^ strEw q.record = 0 ∧ Readable s bid va (2 ^ strEw q.record) (recTag (strRec q.record))) →
          OneDomain s bid places →
          ∃ t e q', exec (.streamFetch wid n) s = .next t ∧ AL.get? (t.warpOf wid).q n = some q' ∧ q'.record = q.record ∧ q'.pops = q.pops ∧ q'.bufs = q.bufs ++ [e] ∧ e.fail = none ∧ e.nonres = [] ∧
            (∀ i va, i ∈ strElems q.record j → strPlace q.record i = .mem va → AL.get? e.elems (i % 32) = some (BitVec.ofNat 32 (leNat (s.ownBytes bid (heldSpa s bid va) (2 ^ strEw q.record))))) ∧
            (∀ a, t.memByte a = s.memByte a) ∧ t.regs = s.regs ∧ ((s.warpOf wid).pathA.st = .queueWait n → (t.warpOf wid).pathA.st = .ready)) ∧
        ((s.blockOf bid).isCheck = true → recRo (strRec q.record) = false → (s.warpOf wid).recipe = false →
          ∃ t e q', exec (.streamFetch wid n) s = .next t ∧ AL.get? (t.warpOf wid).q n = some q' ∧ q'.record = q.record ∧ q'.pops = q.pops ∧ q'.bufs = q.bufs ++ [e] ∧ e.elems = [] ∧ e.nonres = [] ∧
            (∀ i va, i ∈ strElems q.record j → strPlace q.record i = .mem va → va % 2 ^ strEw q.record = 0 → Reached s bid va false → s.ownTag bid (heldSpa s bid va) ≠ recTag (strRec q.record) → e.fail ≠ none) ∧
            (∀ a, t.memByte a = s.memByte a) ∧ t.regs = s.regs)

namespace Sys2Proof.Claims

/-! The matrix unit (R60, R61, R105 to R113, R187 to R204, R373 to R390) -/

/-- The operations of the matrix arrays: opcode, the word of handles, the register named by SB, the duplication map, the table, and the lookahead. -/
def mmaForm (s : State) : Instr → Option (Nat × DWord × Nat × DWord × DWord × Nat)
  | .mma a b la => some (0, s.rS a, b, s.rS b, 0, la)
  | .mmag a b c la => some (1, s.rS a, b, s.rS b, s.rS c, la)
  | .mmas a c la => some (2, s.rS a, 0, 0, s.rS c, la)
  | _ => none

/-- The instructions of the matrix unit that take a place in its queue. -/
def isMatrix : Instr → Bool
  | .mma .. | .mmag .. | .mmas .. | .mbld .. | .mbldPair .. | .mwb .. | .mqnt .. => true
  | _ => false

/-- The checks of R378 on the words and FMT of an operation. -/
def MmaWords (s : State) (op : Nat) (wa : DWord) (sb : Nat) : Prop :=
  let f := s.path.fmt
  onlyBits wa.toNat [(5, 0), (13, 8), (18, 16), (24, 24)] = true ∧ fmtCombo f = true ∧ (if op = 2 then fmtSpn f ≠ 0 ∧ fmtDup f = false else fmtSpn f = 0) ∧
  (fmtDup f = true → fmtAf f ≤ 1) ∧ (fmtPair f = true → s.blk.pair ≠ .none) ∧ (fmtDup f = false → sb = 0)

/-- The checks of R378 on the tiles of an operation, and on the table and map they give. -/
def MmaTiles (s : State) (op : Nat) (wa map tab : DWord) : Prop :=
  ∃ a c, s.blk.tile? (bits wa.toNat 5 0) = some a ∧ s.blk.tile? (bits wa.toNat 13 8) = some c ∧ (op ≠ 0 → (s.blk.tile? tab.toNat).isSome = true) ∧
    mmaShapeBad s.path.fmt op a c (bits wa.toNat 5 0) (bits wa.toNat 13 8) tab.toNat (if op = 0 then none else s.blk.tile? tab.toNat) = false ∧
    s.mmaTablesBad s.bid op s.path.fmt (tileRows a.desc) map.toNat tab.toNat = false

/-- A matrix instruction may be issued (R191): the whole warp, a task that may, and no recipe, on a core of the package. Its entry's identifier is a new one. -/
def MatrixMay (s : State) : Prop :=
  s.wholeWarp = true ∧ s.task.nomatrix = false ∧ s.w.recipe = false ∧ Ordinary s ∧ s.blk.core < Config.cores ∧ ∀ q m, q ∈ s.eng.matq → m ∈ q.2 → m.id ≠ s.nextId

/-- A matrix instruction has not issued whole: its operation waits for a start token, or stands behind the other core's share of a paired operation (R60, R201). -/
def HeldUp (s : State) (e : MatEntry) : Prop := e.token ≠ none ∨ ∃ m, m ∈ s.matQueue s.blk.core ∧ m.follower = true

/-- Where a matrix instruction that has entered its queue leaves its path (R62, R326, R373): past it; while it stands, at most LA further instructions issue, and with LA 0 the path waits. -/
def LeavesPath (s t : State) (e : MatEntry) (la : Nat) : Prop :=
  t.path.pc = s.path.pc + 4 ∧
  (¬ HeldUp s e → t.path.st = s.path.st ∧ t.path.windows = s.path.windows) ∧
  (HeldUp s e → la = 0 → t.path.st = .operandWait (.token e.id) ∧ t.path.windows = s.path.windows) ∧
  (HeldUp s e → la ≠ 0 → t.path.st = s.path.st ∧ t.path.windows = s.path.windows ++ [(e.id, la)])

/-- A matrix instruction puts one entry at the end of its core's queue and goes on; nothing but the queues, the tokens and the scoreboard differs. -/
def MatQueued (i : Instr) (s : State) (e : MatEntry) (la : Nat) (more : State → Prop) : Prop :=
  ∃ t, exec i s = .next t ∧ t.matQueue s.blk.core = s.matQueue s.blk.core ++ [e] ∧ LeavesPath s t e la ∧ t.w.point = none ∧ RegistersSame s t ∧
    SameOutside s { t with eng := s.eng, nextId := s.nextId } ∧ t.nextId = s.nextId + 1 ∧ more t

/-- The queues of some cores have room for an entry of the current block: none is full, and no operation of the block that was withdrawn has still to enter before it (R61, R187). -/
def HasRoom (s : State) (cores : List Nat) : Prop := (∀ c, c ∈ cores → (s.matQueue c).length < 4) ∧ s.matQueue (heldQueue s.bid) = []

/-- No other queue, and no token request, differs. -/
def OneQueue (s t : State) : Prop := (∀ c, c ≠ s.blk.core → t.matQueue c = s.matQueue c) ∧ t.eng.tokens = s.eng.tokens ∧ t.eng.active = s.eng.active

/-- What an instruction of one queue does once its checks pass: it waits for a place, or enters as the entry and goes on. -/
def EntersQueue (i : Instr) (s : State) (e : MatEntry) (la : Nat) (more : State → Prop) : Prop :=
  (¬ HasRoom s [s.blk.core] → exec i s = .next (s.noPoint.wait (.operandWait (.matrixPlace [s.blk.core])))) ∧
  (HasRoom s [s.blk.core] → MatQueued i s e la fun t => OneQueue s t ∧ more t)

/-- An address of a write-back that nothing stands in the way of: its page is resident, writable and no window's, and its tag matches and stays, or is to be set (R122, R123). -/
def WriteBackMay (u : State) (r : Rec) (ws : List (Nat × Walk)) (a : Nat) : Prop :=
  let spa := (walkAt ws a).spa a
  (walkAt ws a).isOk = true ∧ (walkAt ws a).denies true = false ∧ (walkAt ws a).isWin = false ∧
  (recKind r = 2 ∨ spaRemote spa = true ∨ (u.tagSeen [] spa = recTag r ∧ u.tagHeld u.bid [spa / 256] = [] ∧ u.tagPending [spa / 256] = [] ∧ u.tagMats [spa / 256] = []))

/-- The head entry of a core can be performed on the spot: its slots stand in the B stage, its warp is its block's, the block's run is plain and its task not pure, and no fault is injected into the core. -/
def StepReady (s : State) (core : Nat) (e : MatEntry) : Prop :=
  s.matReady core = some e ∧ (∀ x, x ∈ s.entrySlots e → ∃ i, i < 8 ∧ AL.get? s.eng.bphys (x.1 * 8 + i) = some (e.bid, x.2)) ∧
  (s.warpOf e.wid).bid = e.bid ∧ AL.has s.blocks e.bid = true ∧ (s.blockOf e.bid).kind = .plain ∧
  s.regBits Config.pf blkRas (0x1000 + 8 * (s.blockOf e.bid).core) 0 0 = 0

/-- A queue step answers: the entry leaves its core's queue, memory and every other warp and block are as before. -/
def Stepped (s : State) (core : Nat) (e : MatEntry) (more : State → Prop) : Prop :=
  ∃ t, exec (.matrixQueueStep core) s = .next t ∧ t.matQueue core = (s.matQueue core).filter (fun m => m.id != e.id) ∧ (∀ a, t.memByte a = s.memByte a) ∧
    (∀ w, w ≠ e.wid → t.warpOf w = s.warpOf w) ∧ (∀ b, b ≠ e.bid → t.blockOf b = s.blockOf b) ∧ t.tasks = s.tasks ∧ more t

/-- A tile of a block after elements of some bytes are put into it, every other tile as before. -/
def TileTakes (s t : State) (bid h eb : Nat) (l : List (Nat × Nat)) : Prop :=
  (∀ tile, AL.get? (s.blockOf bid).tiles h = some tile → AL.get? (t.blockOf bid).tiles h = some (l.foldl (fun (t : Tile) x => t.put (x.1 * eb) (leBytes eb x.2)) tile)) ∧
  ∀ y, y ≠ h → AL.get? (t.blockOf bid).tiles y = AL.get? (s.blockOf bid).tiles y

/-- Byte i of stored row t and column n of a slot with one byte to an element and 64 rows (R196): quarter t / 16 of the slot's 8 KiB. -/
def slotElem8 (b : Block) (slot t n : Nat) : Byte := AL.getD b.bstage (slot * 8192 + t / 16 * 2048 + t % 16 * 64 + n) 0

/-- Four bytes of a tile as a number modulo 2^32. -/
def tileWord (t : Tile) (i : Nat) : BitVec 32 :=
  BitVec.ofNat 32 ((t.byte i).toNat + 256 * (t.byte (i + 1)).toNat + 65536 * (t.byte (i + 2)).toNat + 16777216 * (t.byte (i + 3)).toNat)

/-- A tile of the block's own that is no gang's. -/
def OwnTile (s : State) (bid h : Nat) : Prop := ∃ tile, AL.get? (s.blockOf bid).tiles h = some tile ∧ tileGang tile.desc = false

end Sys2Proof.Claims

/-- R60, R62, R187, R190, R191, R199, R373 to R378, R386 to R390: a matrix instruction of a partial warp traps PARTIAL, and one of a task with NOMATRIX or in recipe mode ILLOP, as one with a wrong word does; a handle of no usable tile traps HANDLE and a shape that does not fit BOUNDS;
one whose checks pass waits for a place in its queue, or puts one entry there and goes on, an operation on a core at rest with a request for a start token. While it waits for the token, or stands behind the other core's share of a paired operation, at most LA further instructions of its path issue, and with LA 0 the path waits (DEDUCED, log entry 83); a handle field above 63 names no tile (DEDUCED, log entry 34).
A write-back to memory that meets a page that is not resident is complete with nothing written and every lane's flag set. -/
def Obligations.MatrixWorkIsQueued : Prop :=
  (∀ (i : Instr) (s : State), isMatrix i = true →
    (s.wholeWarp = false → exec i s = .next (s.trap tcPartial 0)) ∧ (s.wholeWarp = true → s.task.nomatrix = true ∨ s.w.recipe = true → exec i s = .next s.illop)) ∧
  (∀ (i : Instr) (s : State) (op sb : Nat) (wa map tab : DWord) (la : Nat), mmaForm s i = some (op, wa, sb, map, tab, la) → MatrixMay s →
    (¬ MmaWords s op wa sb → exec i s = .next s.illop) ∧
    (MmaWords s op wa sb →
      (s.blk.tile? (bits wa.toNat 5 0) = none ∨ s.blk.tile? (bits wa.toNat 13 8) = none ∨ (op ≠ 0 ∧ s.blk.tile? tab.toNat = none) → exec i s = .next (s.noPoint.trap tcHandle 0)) ∧
      ((s.blk.tile? (bits wa.toNat 5 0)).isSome = true → (s.blk.tile? (bits wa.toNat 13 8)).isSome = true → (op ≠ 0 → (s.blk.tile? tab.toNat).isSome = true) → ¬ MmaTiles s op wa map tab →
        exec i s = .next (s.noPoint.trap tcBounds 0)) ∧
      (MmaTiles s op wa map tab →
        let paired := fmtPair s.path.fmt && s.blk.pair == .paired
        let cores := s.entryCores paired
        let rest := cores.filter fun c => !AL.has s.eng.active c
        let e := { s.matEntry s.nextId op wa map tab 0 paired with token := if rest = [] then none else some s.nextId }
        (¬ HasRoom s cores → exec i s = .next (s.noPoint.wait (.operandWait (.matrixPlace cores)))) ∧
        (HasRoom s cores →
          MatQueued i s e la fun t =>
            (paired = true → t.matQueue (partner s.blk.core) = s.matQueue (partner s.blk.core) ++ [{ e with follower := true }]) ∧ (∀ c, c ∉ cores → t.matQueue c = s.matQueue c) ∧
            t.eng.tokens = s.eng.tokens ++ (if rest = [] then [] else [⟨s.nextId, s.die, s.partD s.blk.vf, rest, s.cur⟩]) ∧
            ∀ c, AL.get? t.eng.active c = if c ∈ rest then some s.now else AL.get? s.eng.active c)))) ∧
  (∀ (a la : Nat) (s : State), MatrixMay s →
    let w := (s.rS a).toNat
    let ok := onlyBits w [(5, 0), (10, 8), (27, 16), (43, 32)]
    let fits (tile : Tile) : Bool := tileEb tile.desc == (if fmtBf s.path.fmt = 2 then 1 else 0) && bits w 27 16 + kstOf s.path.fmt ≤ tileRows tile.desc && bits w 43 32 + 64 ≤ tileCols tile.desc
    ∀ (i : Instr) (op : Nat), (i = .mbld a la ∧ op = 3) ∨ (i = .mbldPair a la ∧ op = 4) →
      (ok = false ∨ (op = 4 ∧ s.blk.pair = .none) → exec i s = .next s.illop) ∧
      (ok = true → (op = 4 → s.blk.pair ≠ .none) →
        (s.blk.tile? (bits w 5 0) = none → exec i s = .next (s.noPoint.trap tcHandle 0)) ∧
        ∀ tile, s.blk.tile? (bits w 5 0) = some tile →
          (fits tile = false → exec i s = .next (s.noPoint.trap tcBounds 0)) ∧
          (fits tile = true → EntersQueue i s (s.matEntry s.nextId op (s.rS a) 0 0 0 false) la fun _ => True))) ∧
  (∀ (a b c la : Nat) (s : State), MatrixMay s →
    let wa := (s.rS a).toNat
    let wb := (s.rS b).toNat
    let mem := bitOf wa 8
    let i : Instr := .mwb a b c la
    let ok := onlyBits wa [(5, 0), (8, 8), (20, 16), (29, 24)] && onlyBits wb [(6, 0), (14, 8)] && (mem || onlyBits (s.rS c).toNat [(11, 0), (27, 16)])
    let cs := s.scaleOf wb 0 6
    let rs := s.scaleOf wb 8 14
    let d := if mem then none else s.blk.tile? (bits wa 29 24)
    let r := s.rB (bits wa 20 16)
    (ok = false → exec i s = .next s.illop) ∧
    (ok = true → s.blk.tile? (bits wa 5 0) = none ∨ (mem = false ∧ d = none) ∨ cs = some none ∨ rs = some none → exec i s = .next (s.noPoint.trap tcHandle 0)) ∧
    ∀ acc, ok = true → s.blk.tile? (bits wa 5 0) = some acc → (mem = false → d.isSome = true) → cs ≠ some none → rs ≠ some none →
      (mwbShapeBad s.path.fmt (s.rS a) (s.rS b) (s.rS c) acc d cs rs (recKind r == 1) = true → exec i s = .next (s.noPoint.trap tcBounds 0)) ∧
      (mwbShapeBad s.path.fmt (s.rS a) (s.rS b) (s.rS c) acc d cs rs (recKind r == 1) = false →
        (mem = false → EntersQueue i s (s.matEntry s.nextId 5 (s.rS a) (s.rS b) (s.rS c) 0 false) la fun _ => True) ∧
        (mem = true →
          let accs : Accs := (List.range (tileElems acc.desc)).map fun k => (k, linearLane r (mwbIndex (s.rS c).toNat (tileCols acc.desc) k))
          let as := Accs.addrs accs
          let check := accCheck (recMalformed r) (recRo r) true (ofBytes s.path.fmt) accs 0
          (∀ code x, check = some (code, x) → exec i s = .next (s.noPoint.trap code x)) ∧
          ∀ ws u, check = none → s.noPoint.walks s.blk.core s.blk.vf (pagesOfAddrs as) = (ws, u) →
            (∀ pre e post, as = pre ++ e :: post → (∀ x, x ∈ pre → (walkAt ws x.2).denies true = false) → (walkAt ws e.2).denies true = true → exec i s = .next (u.denyTrap e.2 true (walkAt ws e.2))) ∧
            ((∀ x, x ∈ as → (walkAt ws x.2).denies true = false ∧ (walkAt ws x.2).isWin = false) → (∃ x, x ∈ as ∧ (walkAt ws x.2).isNonres = true) →
              ∃ t, exec i s = .next t ∧ t.path.pc = s.path.pc + 4 ∧ t.w.point = none ∧ t.eng.matq = s.eng.matq ∧ (∀ k, t.rP k = if k = s.path.modeFP ∧ k ≠ 0 then 0xFFFFFFFF#32 else s.rP k) ∧
                (ErrorFree s → ∀ a, t.memByte a = s.memByte a)) ∧
            ((∀ x, x ∈ as → WriteBackMay u r ws x.2) →
              (¬ HasRoom s [s.blk.core] → exec i s = .next (u.wait (.operandWait (.matrixPlace [s.blk.core])))) ∧
              (HasRoom s [s.blk.core] → u.nextId = s.nextId →
                ∃ t, exec i s = .next t ∧ LeavesPath s t (s.matEntry s.nextId 5 0 0 0 0 false) la ∧ t.w.point = none ∧ RegistersSame s t ∧ (ErrorFree s → ∀ a, t.memByte a = s.memByte a) ∧
                  t.matQueue s.blk.core = u.matQueue s.blk.core ++ [{ s.matEntry u.nextId 5 (s.rS a) (s.rS b) (s.rS c) 0 false with
                    elems := as.map fun x => (x.2, (walkAt ws x.2).spa x.2, (walkAt ws x.2).dom, true), tag := recTag r, tagset := recKind r == 2 }]))))) ∧
  ∀ (a b c la : Nat) (s : State), MatrixMay s →
    let w := (s.rS a).toNat
    let i : Instr := .mqnt a b c la
    let ok := onlyBits w [(5, 0), (13, 8), (21, 16)] && decide (fmtAf s.path.fmt ≤ 1)
    (ok = false → exec i s = .next s.illop) ∧
    (ok = true → s.blk.tile? (bits w 5 0) = none ∨ s.blk.tile? (bits w 13 8) = none ∨ s.blk.tile? (bits w 21 16) = none → exec i s = .next (s.noPoint.trap tcHandle 0)) ∧
    ∀ (x q t : Tile), ok = true → s.blk.tile? (bits w 5 0) = some x → s.blk.tile? (bits w 13 8) = some q → s.blk.tile? (bits w 21 16) = some t →
      (mqntShapeBad w x q t = true → exec i s = .next (s.noPoint.trap tcBounds 0)) ∧
      (mqntShapeBad w x q t = false → EntersQueue i s { s.matEntry s.nextId 6 (s.rS a) (s.rS b) 0 c false with pend := some s.nextId } la fun u =>
        ∃ p, u.w.pend = s.w.pend ++ [p] ∧ p.id = s.nextId ∧ p.regs = if c = 0 then [] else [.s c])

/-- R106 to R113, R192 to R200: the head entry of a matrix queue is performed as one step. An operation writes the C tile's elements, a load fills its B slot, a write-back converts the accumulator into its tile or makes its stores,
and the quantiser writes the rows, the scales and the map. A dense operation on integers adds to each element of C, or to 0, its row of A times its column of the slot, modulo 2^32 (R109),
and a write-back of an unscaled integer accumulator to i8 clamps each element with SAT = 1 and takes its low 8 bits with SAT = 0 (R110): these two are said in numbers. -/
def Obligations.MatrixQueueSteps : Prop :=
  ∀ (core : Nat) (s : State) (e : MatEntry), (s.matReady core = none → exec (.matrixQueueStep core) s = .next s) ∧ (StepReady s core e →
    let w := e.wa.toNat
    let tables : Prop := e.op = 1 ∨ e.op = 2 → s.mmaTablesBad e.bid e.op e.fmt (tileRows (s.tileStore e.bid (bits w 5 0)).desc) 0xFFFFFFFFFFFFFFFF (bits e.wc.toNat 5 0) = false
    (e.op ≤ 6 → tables → ∃ t, exec (.matrixQueueStep core) s = .next t ∧ t.matQueue core = (s.matQueue core).filter (fun m => m.id != e.id) ∧ (∀ a, t.memByte a = s.memByte a) ∧ t.tasks = s.tasks) ∧
    (e.op ≤ 2 → OwnTile s e.bid (bits w 13 8) → tables →
      Stepped s core e fun t => TileTakes s t e.bid (bits w 13 8) 4 (s.mmaResult (s.blockOf e.bid) e) ∧
        (t.warpOf e.wid).fpflags = if s.tw8Flag (s.blockOf e.bid) e = true ∧ (s.warpOf e.wid).exited = false then (s.warpOf e.wid).fpflags ||| 0x20#6 else (s.warpOf e.wid).fpflags) ∧
    (∀ a c, e.op = 0 → OwnTile s e.bid (bits w 13 8) → a = s.tileStore e.bid (bits w 5 0) → AL.get? (s.blockOf e.bid).tiles (bits w 13 8) = some c →
      fmtAf e.fmt = 3 → fmtBf e.fmt = 3 → fmtCf e.fmt = 1 → fmtDup e.fmt = false → fmtSpn e.fmt = 0 → fmtPair e.fmt = false →
      tileEb a.desc = 0 → tileCols a.desc = 64 → tileEb c.desc = 2 → tileCols c.desc = 64 →
      Stepped s core e fun t => ∃ c', AL.get? (t.blockOf e.bid).tiles (bits w 13 8) = some c' ∧ c'.desc = c.desc ∧ ∀ r n, r < tileRows a.desc → n < 64 →
        tileWord c' ((r * 64 + n) * 4) = (if bitOf w 24 then 0 else tileWord c ((r * 64 + n) * 4)) +
          ((List.range 64).map fun k => BitVec.ofInt 32 ((a.byte (r * 64 + k)).toInt * (slotElem8 (s.blockOf e.bid) (bits w 18 16) k n).toInt)).foldl (· + ·) 0) ∧
    (∀ a d, e.op = 5 → bitOf w 8 = false → OwnTile s e.bid (bits w 29 24) → a = s.tileStore e.bid (bits w 5 0) → AL.get? (s.blockOf e.bid).tiles (bits w 29 24) = some d →
      fmtCf e.fmt = 1 → fmtOf e.fmt = 3 → e.wb = 0 → e.wc = 0 → tileLevel d.desc = 0 → tileCols d.desc = tileCols a.desc →
      Stepped s core e fun t => ∃ d', AL.get? (t.blockOf e.bid).tiles (bits w 29 24) = some d' ∧ d'.desc = d.desc ∧ ∀ r n, r < tileRows a.desc → n < tileCols a.desc →
        let x := (tileWord a ((r * tileCols a.desc + n) * 4)).toInt
        d'.byte (r * tileCols a.desc + n) = if bitOf e.mode.toNat 18 then BitVec.ofInt 8 (max (-128) (min 127 x)) else BitVec.ofInt 8 x) ∧
    (e.op = 3 ∨ e.op = 4 → e.pend = none → (∀ m, m ∈ s.eng.tileMsgs → m.src ≠ e.bid) →
      let slot := bits w 10 8 + if e.op = 4 then 8 else 0
      let eb := bBytes e.fmt
      let tile := s.tileStore e.bid (bits w 5 0)
      let place (r j : Nat) : Nat := slot * 8192 + slotAt (kstOf e.fmt) eb r 0 + j
      Stepped s core e fun t =>
        (∀ r j, r < kstOf e.fmt → j < 64 * eb → AL.getD (t.blockOf e.bid).bstage (place r j) 0 = tile.byte (((bits w 27 16 + r) * tileCols tile.desc + bits w 43 32) * eb + j)) ∧
        ∀ k, (∀ r j, r < kstOf e.fmt → j < 64 * eb → k ≠ place r j) → AL.getD (t.blockOf e.bid).bstage k 0 = AL.getD (s.blockOf e.bid).bstage k 0) ∧
    (e.op = 5 → bitOf w 8 = false → OwnTile s e.bid (bits w 29 24) →
      let vals := s.mwbValues e
      let cols := tileCols (s.tileStore e.bid (bits w 5 0)).desc
      Stepped s core e fun t => TileTakes s t e.bid (bits w 29 24) (ofBytes e.fmt) ((List.range vals.length).map fun k =>
        ((bits e.wc.toNat 11 0 + k / cols) * tileCols (s.tileStore e.bid (bits w 29 24)).desc + bits e.wc.toNat 27 16 + k % cols, vals.getD k 0))) ∧
    (e.op = 5 → bitOf w 8 = true →
      Stepped s core e fun t => ∃ l, t.mm.reqs = s.mm.reqs ++ l ∧ l.length = (sortNub ((e.elems.zip (s.mwbValues e)).map fun x => x.1.1 / 256)).length ∧
        ∀ r, r ∈ l → r.kind = 1 ∧ r.wid = e.wid ∧ r.pathB = e.pathB ∧ r.pend = none ∧ r.tag = e.tag ∧ r.tagset = e.tagset) ∧
    (e.op = 6 → OwnTile s e.bid (bits w 13 8) → OwnTile s e.bid (bits w 21 16) → bits w 13 8 ≠ bits w 21 16 →
      let x := s.tileStore e.bid (bits w 5 0)
      let r := quantise (fmtAf e.fmt) (bits e.mode.toNat 17 15) (bitOf e.mode.toNat 18) (tileRows x.desc) x.at_ (f32F.read (e.wb.toNat % 2 ^ 32))
      Stepped s core e fun t =>
        (∀ q, AL.get? (s.blockOf e.bid).tiles (bits w 13 8) = some q → AL.get? (t.blockOf e.bid).tiles (bits w 13 8) =
          some (((r.1.flatMap id).zip (List.range (72 * tileRows x.desc))).foldl (fun (t : Tile) y => t.put (y.2 * 1) (leBytes 1 y.1)) q)) ∧
        (∀ q, AL.get? (s.blockOf e.bid).tiles (bits w 21 16) = some q → AL.get? (t.blockOf e.bid).tiles (bits w 21 16) =
          some ((r.2.1.zip (List.range (tileRows x.desc))).foldl (fun (t : Tile) y => t.put (y.2 * 4) (leBytes 4 y.1)) q)) ∧
        (t.warpOf e.wid).rS e.sc = (if e.sc = 0 then 0 else BitVec.ofNat 64 r.2.2) ∧ ∀ p, p ∈ (t.warpOf e.wid).pend → p.id ≠ e.id))

/-- R60, R61, R201 to R204, R383 to R385: `mpair` pairs the block with its partner core and answers 1, or leaves it and answers 0; `munpair` ends a pair, and drops the upper slots once no queued work uses them, and has no effect without one; a start token goes to the request the arbiter takes next,
whose path goes on and whose lookahead window ends; and a core comes to rest after 256 clocks without an operation. The rotation of the arbiter from partition 0, and a request for two tokens that waits at its head where one is left, are the model's choice (DESIGN CHOICE, log entry 83). -/
def Obligations.PairsAndTokens : Prop :=
  (∀ (d la : Nat) (s : State), s.task.nomatrix = false → s.w.recipe = false → Ordinary s → AL.has s.blocks s.bid = true →
    ∃ t, exec (.mpair d la) s = .next t ∧ t.rS d = (if d = 0 then 0 else s.scalarIn (if s.pairTry then 1 else 0)) ∧
      t.blk.pair = (if s.pairTry then .paired else s.blk.pair) ∧ t.path.pc = s.path.pc + 4 ∧ t.w.point = none ∧
      KeptBut [.s d] s { t with blocks := s.blocks } ∧ ∀ b, b ≠ s.bid → t.blockOf b = s.blockOf b) ∧
  (∀ (s : State), s.pairTry = true ↔ s.blk.pair = .paired ∨ (s.blk.core % 2 = 0 ∧ s.coreFenced (s.blk.core + 1) = false ∧ s.arrayFenced s.blk.core = false ∧ s.arrayFenced (s.blk.core + 1) = false ∧
    ∀ e, e ∈ s.blocks → e.1 ≠ s.bid → e.2.core = s.blk.core → e.2.pair ≠ .paired)) ∧
  (∀ (d la : Nat) (s : State), s.task.nomatrix = true ∨ s.w.recipe = true → exec (.mpair d la) s = .next s.illop ∧ exec (.munpair la) s = .next s.illop) ∧
  (∀ (la : Nat) (s : State), s.task.nomatrix = false → s.w.recipe = false →
    (s.waitDone = false → s.blk.pair = .none → ∃ t, exec (.munpair la) s = .next t ∧ t.path.pc = s.path.pc + 4 ∧ t.w.point = none ∧ RegistersSame s t ∧ SameOutside s t) ∧
    (AL.has s.blocks s.bid = true → s.waitDone = true ∨ (s.blk.pair ≠ .none ∧ s.pairEntries s.bid = []) →
      ∃ t, exec (.munpair la) s = .next t ∧ (s.waitDone = false → t.blk.pair = .none) ∧ t.path.pc = s.path.pc + 4 ∧ t.w.point = none ∧ RegistersSame s t ∧
        (∀ k, t.blk.bsaved.contains k = (decide (k < 8) && s.blk.bsaved.contains k)) ∧ (∀ k, AL.getD t.blk.bstage k 0 = if k < 8 * 8192 then AL.getD s.blk.bstage k 0 else 0) ∧
        SameOutside s { t with blocks := s.blocks, eng := s.eng } ∧ ∀ b, b ≠ s.bid → t.blockOf b = s.blockOf b) ∧
    (AL.has s.blocks s.bid = true → s.blk.pair ≠ .none → s.pairEntries s.bid ≠ [] → s.waitDone = false →
      ∃ t, exec (.munpair la) s = .next t ∧ t.blk.pair = .none ∧ t.path.st = .operandWait (.mats (s.pairEntries s.bid)) ∧ t.path.pc = s.path.pc ∧ RegistersSame s t ∧ ∀ a, t.memByte a = s.memByte a)) ∧
  (∀ (die : Nat) (s : State), s.tokenNext die = none → exec (.startTokenGrant die) s = .next s) ∧
  (∀ (die : Nat) (s : State) (r : TokenReq), s.tokenNext die = some r →
    ∃ t n, exec (.startTokenGrant die) s = .next t ∧ t.eng.tokens = s.eng.tokens.filter (fun x => x.id != r.id) ∧ (∀ c m, m ∈ t.matQueue c → m.token ≠ some r.id) ∧
      AL.get? t.eng.granted die = some (s.now / 32, n) ∧ r.cores.length ≤ n ∧ n ≤ 8 ∧
      ((s.warpOf r.wid).pathA.st = .operandWait (.token r.id) → (t.warpOf r.wid).pathA.st = .ready ∧ (t.warpOf r.wid).pathA.pc = (s.warpOf r.wid).pathA.pc) ∧
      (∀ x, x ∈ (t.warpOf r.wid).pathA.windows ++ (t.warpOf r.wid).pathB.windows → x.1 ≠ r.id) ∧
      (∀ a, t.memByte a = s.memByte a) ∧ t.blocks = s.blocks ∧ t.regs = s.regs) ∧
  ∀ (core n : Nat) (s : State), (AL.get? s.eng.active core = none → exec (.coreRest core) s = .next s) ∧ (AL.get? s.eng.active core = some n →
    (n + 256 ≤ s.now → (∀ m, m ∈ s.matQueue core → 2 < m.op) → (∀ r, r ∈ s.eng.tokens → core ∉ r.cores) →
      exec (.coreRest core) s = .next { s with eng := { s.eng with active := AL.del s.eng.active core } }) ∧
    (s.now < n + 256 ∨ (∃ m, m ∈ s.matQueue core ∧ m.op ≤ 2) ∨ (∃ r, r ∈ s.eng.tokens ∧ core ∈ r.cores) → exec (.coreRest core) s = .next s))

namespace Sys2Proof.Claims

/-! Tasks (R38 to R54, R272, R364, R437 to R440) -/

/-- Every store, atomic and copy-engine write of the warp is visible to every agent (R46), and no scheduler operation of it is still to be performed. -/
def StoresSent (s : State) : Prop :=
  (∀ r, r ∈ s.mm.reqs → r.wid = s.cur → r.kind = 0) ∧ s.queuedMats s.cur s.nextId = [] ∧ (∀ q e, q ∈ s.blk.queues → e ∈ q.2.entries → e.wid ≠ s.cur) ∧ ∀ x, x ∈ s.sends → x.line ≠ 2 ^ 61 + s.cur

/-- A scheduler operation that waits for the warp's stores: s[SD] is pending under a new identifier, up to LA later instructions issue, and where no other operation waits it alone is left to perform (R326, R439). -/
def SentLater (i : Instr) (s : State) (d la : Nat) (is : HtsOp → Prop) : Prop :=
  ∃ t p, exec i s = .next t ∧ t.w.pend = s.w.pend ++ [p] ∧ p.id = s.nextId ∧ p.regs = (if d = 0 then [] else [.s d]) ∧ p.pathB = s.curB ∧ t.path.pc = s.path.pc + 4 ∧ t.path.st = s.path.st ∧
    t.path.windows = s.path.windows ++ [(s.nextId, la)] ∧ t.w.point = none ∧ RegistersSame s t ∧
    (s.sends = [] → ∃ x, t.sends = [x] ∧ x.vf = s.blk.vf ∧ x.ret = some s.nextId ∧ x.op.wid = s.cur ∧ is x.op ∧ p.waiting = [s.nextId] ∧ t.tasks = s.tasks ∧ ∀ a, t.memByte a = s.memByte a)

/-- A scheduler instruction goes on with some status (R42). -/
def HtsGoesOn (i : Instr) (s : State) (d : Nat) : Prop :=
  ∃ t code, exec i s = .next t ∧ code ≤ 10 ∧ t.rS d = (if d = 0 then 0 else s.scalarIn (BitVec.ofNat 64 code)) ∧ t.path.pc = s.path.pc + 4 ∧ t.w.point = none ∧
    (∀ k, k ≠ d → t.rS k = s.rS k) ∧ (∀ k i, i < 32 → t.rV k i = s.rV k i) ∧ (ErrorFree s → ∀ a, t.memByte a = s.memByte a)

/-- A scheduler instruction answers with a status; nothing but its register, the path and the task table differs. -/
def HtsAnswers (i : Instr) (s : State) (d code : Nat) (more : State → Prop) : Prop :=
  ∃ t, exec i s = .next t ∧ t.rS d = (if d = 0 then 0 else s.scalarIn (BitVec.ofNat 64 code)) ∧ t.path.pc = s.path.pc + 4 ∧ t.w.point = none ∧
    KeptBut [.s d] s { t with tasks := s.tasks } ∧ more t

/-- One task of the table takes a value, and no other differs. -/
def TaskBecomes (s : State) (k : Nat) (x : Task) (t : State) : Prop := AL.get? t.tasks k = some x ∧ ∀ j, j ≠ k → AL.get? t.tasks j = AL.get? s.tasks j

/-- What `tskdec` (or, with `add`, `tskadd`) of name n by k answers (R42, R43, R438): an unknown name, a task past waiting, a k or a counter out of range, or the new counter, with which a task that is not pure becomes Ready at zero. -/
def HtsCounts (s : State) (add : Bool) (i : Instr) (d n k : Nat) : Prop :=
  let key := taskKey s.blk.vf n
  (n = 0 ∨ 2 ^ 20 ≤ n ∨ AL.get? s.tasks key = none → HtsAnswers i s d 8 fun t => t.tasks = s.tasks) ∧
  ∀ x, n ≠ 0 → n < 2 ^ 20 → AL.get? s.tasks key = some x →
    (x.st = .killed → HtsAnswers i s d 8 fun t => t.tasks = s.tasks) ∧
    (x.st = .ready ∨ x.st = .running ∨ x.st = .held → HtsAnswers i s d 9 fun t => t.tasks = s.tasks) ∧
    (x.st = .waiting → k = 0 ∨ 65535 < k → HtsAnswers i s d 10 fun t => t.tasks = s.tasks) ∧
    (x.st = .waiting → k ≠ 0 → k ≤ 65535 → add = true →
      (x.counter + k ≤ 65535 → HtsAnswers i s d 0 (TaskBecomes s key { x with counter := x.counter + k })) ∧
      (65535 < x.counter + k → HtsAnswers i s d 10 fun t => t.tasks = s.tasks)) ∧
    (x.st = .waiting → k ≠ 0 → k ≤ 65535 → add = false →
      (k < x.counter → HtsAnswers i s d 0 (TaskBecomes s key { x with counter := x.counter - k })) ∧
      (x.counter < k → HtsAnswers i s d 10 fun t => t.tasks = s.tasks) ∧
      (k = x.counter → x.f 0x20 3 3 = 0 → HtsAnswers i s d 0 (TaskBecomes s key { x with st := .ready, counter := 0, readyAt := s.now })))

/-- A task record in a tile. -/
def taskIn (s : State) (x off : Nat) : BitVec 2048 := BitVec.ofNat 2048 (leNat ((List.range 256).map fun i => ((s.tileStore s.bid x).byte (off + i)).toNat))

/-- A posted record that is not pure is a live task of its VF: Waiting on its counter, or Ready at once (R38, R41, R42). -/
def Posted (s : State) (vf : Nat) (r : BitVec 2048) (x : Task) : Prop :=
  x.vf = vf ∧ x.record = s.htsRecord vf r ∧ x.counter = recBits r 0x20 31 16 ∧ x.st = (if recBits r 0x20 31 16 = 0 then .ready else .waiting) ∧ x.placed = 0 ∧ x.retired = 0 ∧ x.pureNow = false

/-- No pending task waits for its first notice that it can never be placed (R54). -/
def NoneBlocked (s : State) : Prop := ∀ e, e ∈ s.tasks → e.2.pending = true → e.2.blockedSent = true ∨ s.unplaceable e.2 = false

/-- A block of a partition's gangs holds its slot, and the last block of its cluster's gang has been placed (R51, R52). -/
def GangDue (s : State) (p : Nat) (b : Block) : Prop := b.st = .starting ∧ s.partOf b.vf = some p ∧ AL.getD s.clusterNext (clusterOf b.core) 0 ≤ s.now + 1

/-- R14, R50, R51, R63, R222, R238: a distributor in service places a check run that waits for a core before any unit, and otherwise the block that heads its ranking on the eligible core with the fewest warps whose cluster takes no other block in this cycle, with its warps at their launch state;
one out of service, or with no work, places nothing. The order among several check runs that can have a core is the model's choice (DESIGN CHOICE, log entry 84), and that a partition with EN = 0 places nothing is DEDUCED (log entry 50). -/
def BlocksArePlaced : Prop :=
  ∀ (p : Nat) (s : State), NoneBlocked s →
    (s.partEn p = false → exec (.blockPlace p) s = .next s) ∧
    (∀ w, s.partEn p = true → s.nextCheck p = some w → exec (.blockPlace p) s = .next (s.placeCheck p w)) ∧
    (s.partEn p = true → s.nextCheck p = none → s.ranked p = [] → exec (.blockPlace p) s = .next { s with placers := AL.del s.placers p }) ∧
    ∀ (vf name g lin core : Nat) (r : List WorkUnit) (x : Task), s.partEn p = true → s.nextCheck p = none → s.ranked p = ⟨false, vf, name, g, [lin]⟩ :: r →
      AL.get? s.tasks (taskKey vf name) = some x → x.vf = vf → x.name = name → x.gang ≤ 1 → s.bestCore x ((s.partCores p).filter s.clusterFree) = some core →
      ∃ t b y, exec (.blockPlace p) s = .next t ∧ AL.get? t.blocks s.nextId = some b ∧ b.vf = vf ∧ b.task = name ∧ b.lin = lin ∧ b.core = core ∧ b.st = .resident ∧ b.kind = (s.runKind p x lin).1 ∧
        b.nwarps = x.nwarps ∧ b.slot = s.freeSlot core ∧ b.started = s.now ∧ b.banks = x.banks ∧
        (∀ i, i < x.nwarps → t.warpOf (s.nextId * 32 + i) = launchWarp x s.nextId i s.now) ∧
        (∀ j, j ≠ s.nextId → AL.get? t.blocks j = AL.get? s.blocks j) ∧ (∀ w, w / 32 ≠ s.nextId → AL.get? t.warps w = AL.get? s.warps w) ∧
        AL.get? t.tasks (taskKey vf name) = some y ∧ y.placed = x.placed + 1 ∧ y.st = (if x.st = .ready then .running else x.st) ∧ y.record = x.record ∧
        (∀ k, k ≠ taskKey vf name → AL.get? t.tasks k = AL.get? s.tasks k) ∧ t.nextId = s.nextId + 1 ∧ (∀ a, t.memByte a = s.memByte a) ∧ t.regs = s.regs ∧ t.clusterFree core = false

/-- R52, R53: a gang whose blocks hold their slots starts as a whole, and a gang that has headed its partition for 4,096 cycles takes the first window with the most eligible cores as its target. -/
def GangsStartAndWait : Prop :=
  (∀ (p : Nat) (s : State), ∃ t, exec (.gangStart p) s = .next t ∧ t = { s with blocks := t.blocks, warps := t.warps } ∧
    (∀ bid b, AL.get? s.blocks bid = some b → GangDue s p b → AL.get? t.blocks bid = some { b with st := .resident, started := s.now }) ∧
    (∀ bid, (∀ b, (bid, b) ∈ s.blocks → ¬ GangDue s p b) → AL.get? t.blocks bid = AL.get? s.blocks bid) ∧
    ∀ w, (t.warpOf w).v = (s.warpOf w).v ∧ (t.warpOf w).s = (s.warpOf w).s ∧ (t.warpOf w).pathA.pc = (s.warpOf w).pathA.pc ∧ (t.warpOf w).pathA.st = (s.warpOf w).pathA.st) ∧
  ∀ (p : Nat) (s : State),
    (∀ vf name g n, (s.placer p).head = some (vf, name, g, n) → s.now < n + 4096 → exec (.gangTargetWindow p) s = .next s) ∧
    ((s.placer p).head = none ∨ (s.placer p).target ≠ none ∨ s.ranked p = [] → exec (.gangTargetWindow p) s = .next s) ∧
    (∀ u r, s.ranked p = u :: r → (s.placer p).isHead u = false → exec (.gangTargetWindow p) s = .next s) ∧
    ∀ vf name g n c cs pre post u r, AL.get? s.placers p = some ⟨some (vf, name, g, n), none⟩ → n + 4096 ≤ s.now → s.ranked p = u :: r → u.vf = vf → u.name = name → u.gang = g →
      let t := s.taskOf vf name
      let room (w : List Nat) : Nat := (w.filter (s.eligible t)).length
      (s.windows p t.gang).filter (fun w => w.all fun c => !s.coreFenced c) = pre ++ (c :: cs) :: post → (∀ w, w ∈ pre → room w < room (c :: cs)) → (∀ w, w ∈ post → room w ≤ room (c :: cs)) →
      exec (.gangTargetWindow p) s = .next { s with placers := AL.put s.placers p ⟨some (vf, name, g, n), some (c, t.gang)⟩ }

end Sys2Proof.Claims

/-- R42, R43, R46, R47, R326, R437 to R440: in a plain run the scheduler instructions answer the status and change the task they name, once the warp's stores are visible: until then s[SD] is pending, and up to LA later instructions issue;
`tskpost` posts the record its tile holds, read once the earlier work that names the tile has ended, and `tskq` reads a task's state and counter. A tenon run performs none of them and answers 0, a run that holds its stores holds the operation too and answers 0, and a checked run that holds none answers 0. -/
def Obligations.SchedulerInstructions : Prop :=
  (∀ (d n k o la : Nat) (s : State) (i : Instr), i = .tskpost d n o la ∨ i = .tskdec d n k la ∨ i = .tskadd d n k la → s.w.recipe = true → exec i s = .next s.illop) ∧
  (∀ (d n k la : Nat) (s : State) (i : Instr) (add : Bool), i = (if add then .tskadd d n k la else .tskdec d n k la) → s.w.recipe = false →
    (Ordinary s →
      (StoresSent s → HtsCounts s add i d (s.rS n).toNat (s.rS k).toNat ∧ HtsGoesOn i s d) ∧
      ((s.rS n).toNat = 0 ∨ 2 ^ 20 ≤ (s.rS n).toNat → HtsAnswers i s d 8 fun t => t.tasks = s.tasks) ∧
      (¬ StoresSent s → (s.rS n).toNat ≠ 0 → (s.rS n).toNat < 2 ^ 20 →
        SentLater i s d la fun o => o.op = (if add then 2 else 1) ∧ o.name = (s.rS n).toNat ∧ o.k = (s.rS k).toNat)) ∧
    (s.task.pureNow = false → s.task.f 0x20 3 3 = 0 → s.blk.kind = .mortise ∨ s.blk.kind = .dowel → s.blk.holds = false →
      ∃ t, exec i s = .next t ∧ t.rS d = (if d = 0 then 0 else s.scalarIn 0) ∧ t.path.pc = s.path.pc + 4 ∧ t.w.point = none) ∧
    (s.task.pureNow = false → s.task.f 0x20 3 3 = 0 → s.blk.kind = .tenon ∨ s.blk.holds = true → HtsGoesOn i s d ∧
      ∃ t, exec i s = .next t ∧ t.rS d = (if d = 0 then 0 else s.scalarIn 0) ∧ t.tasks = s.tasks ∧
        (AL.has s.blocks s.bid = true → s.blk.holds = true → (s.rS n).toNat ≠ 0 → (s.rS n).toNat < 2 ^ 20 →
          ∃ x, t.blk.set.ops = s.blk.set.ops ++ [x] ∧ x.op = (if add then 2 else 1) ∧ x.name = (s.rS n).toNat ∧ x.k = (s.rS k).toNat ∧ x.wid = s.cur))) ∧
  (∀ (d h o la : Nat) (s : State), s.w.recipe = false →
    let x := (s.rS h).toNat
    (¬ LookedFor s → s.blk.tile? x = none → exec (.tskpost d h o la) s = .next (s.noPoint.trap tcHandle 0)) ∧
    ∀ tile, s.blk.tile? x = some tile →
      let off := (s.rS o).toNat
      let near := s.noPoint.endLook.ownStoresFirst s.bid x
      let r := taskIn near x off
      (¬ LookedFor s → off % 64 ≠ 0 ∨ tileBytes tile.desc < off + 256 → exec (.tskpost d h o la) s = .next (s.noPoint.trap tcBounds 0)) ∧
      (¬ LookedFor s → off % 64 = 0 → off + 256 ≤ tileBytes tile.desc → s.tileWait s.bid x ≠ .tile [] [] [] → exec (.tskpost d h o la) s = .next (looking s.noPoint x)) ∧
      (LookedFor s ∨ (off % 64 = 0 ∧ off + 256 ≤ tileBytes tile.desc ∧ s.tileWait s.bid x = .tile [] [] []) → Ordinary s →
        (¬ StoresSent s → SentLater (.tskpost d h o la) s d la fun o => o.op = 0 ∧ o.record = r) ∧
        (StoresSent s →
          HtsGoesOn (.tskpost d h o la) s d ∧
          ((∀ m, m ∈ s.eng.tileMsgs → m.src ≠ s.bid) →
            (∀ code, s.htsValidate s.blk.vf r = code → code ≠ 0 → HtsAnswers (.tskpost d h o la) s d code fun t => t.tasks = s.tasks) ∧
            (s.htsValidate s.blk.vf r = 0 → recBits r 0x20 3 3 = 0 →
              HtsAnswers (.tskpost d h o la) s d 0 fun t => ∃ x, Posted s s.blk.vf r x ∧ TaskBecomes s (taskKey s.blk.vf (recBits r 8 19 0)) x t))))) ∧
  ∀ (d n la : Nat) (s : State), Ordinary s → s.recipeBlocks [.s d] = false →
    let x := (s.rS n).toNat
    (x = 0 ∨ 2 ^ 20 ≤ x ∨ s.taskLive s.blk.vf x = false → ScalarAnswers (.tskq d n la) s d 0 4) ∧
    ∀ t c, x ≠ 0 → x < 2 ^ 20 → AL.get? s.tasks (taskKey s.blk.vf x) = some t → [(TaskState.waiting, 1), (.ready, 2), (.running, 3), (.held, 4)].find? (fun e => decide (e.1 = t.st)) = some c →
      ScalarAnswers (.tskq d n la) s d (BitVec.ofNat 64 (c.2 * 65536 + t.counter)) 4

/-- R42, R48, R49: a POST takes a snapshot of the posting window, or is answered BUSY while one is being validated; the validation puts its code and the next sequence number into the window's status and makes the task live when the code is OK. -/
def Obligations.PostingWindow : Prop :=
  ∀ (vf : Nat) (s : State),
    (s.blkActive vf blkPostwin = false → exec (.post vf) s = .next s) ∧
    (s.blkActive vf blkPostwin = true →
      (AL.has s.posts vf = true → ∃ t, exec (.post vf) s = .next t ∧ t.regBits vf blkPostwin 0x108 7 0 = 11 ∧
        t.regBits vf blkPostwin 0x108 23 8 = (s.regBits vf blkPostwin 0x108 23 8 + 1) % 2 ^ 16 ∧ t = { s with regs := t.regs } ∧ ∀ k, k ≠ regKey vf blkPostwin 0x108 → AL.get? t.regs k = AL.get? s.regs k) ∧
      (AL.has s.posts vf = false → ∃ t r, exec (.post vf) s = .next t ∧ AL.get? t.posts vf = some r ∧ (∀ i, i < 32 → recBits r (8 * i) 63 0 = (s.reg vf blkPostwin (8 * i)).toNat) ∧
        t.regBits vf blkPostwin 0x108 24 24 = 1 ∧ t = { s with regs := t.regs, posts := t.posts } ∧ (∀ v, v ≠ vf → AL.get? t.posts v = AL.get? s.posts v) ∧
        ∀ k, k ≠ regKey vf blkPostwin 0x108 → AL.get? t.regs k = AL.get? s.regs k)) ∧
    (AL.get? s.posts vf = none → exec (.taskPostValidated vf) s = .next s) ∧
    ∀ r, AL.get? s.posts vf = some r →
      let code := s.htsValidate vf r
      let status (t : State) : Prop := AL.get? t.posts vf = none ∧ t.regBits vf blkPostwin 0x108 7 0 = code ∧ t.regBits vf blkPostwin 0x108 24 24 = 0 ∧
        t.regBits vf blkPostwin 0x108 23 8 = (s.regBits vf blkPostwin 0x108 23 8 + 1) % 2 ^ 16
      (∃ t, exec (.taskPostValidated vf) s = .next t ∧ status t) ∧
      (NoneBlocked s → code ≠ 0 → ∃ t, exec (.taskPostValidated vf) s = .next t ∧ status t ∧ t = { s with regs := t.regs, posts := t.posts }) ∧
      (NoneBlocked s → code = 0 → recBits r 0x20 3 3 = 0 → (∀ x : Task, x.vf = vf → x.record = s.htsRecord vf r → s.unplaceable x = false) → ∃ t x, exec (.taskPostValidated vf) s = .next t ∧ status t ∧ AL.get? t.tasks (taskKey vf (recBits r 8 19 0)) = some x ∧ x.record = s.htsRecord vf r ∧
        x.st = (if recBits r 0x20 31 16 = 0 then .ready else .waiting) ∧ x.counter = recBits r 0x20 31 16)

/-- R14, R50, R51, R63, R222, R238: a distributor in service places a check run that waits for a core before any unit, and otherwise the block that heads its ranking on the eligible core with the fewest warps whose cluster takes no other block in this cycle, with its warps at their launch state;
one out of service, or with no work, places nothing. The order among several check runs that can have a core is the model's choice (DESIGN CHOICE, log entry 84), and that a partition with EN = 0 places nothing is DEDUCED (log entry 50).
R52, R53: a gang whose blocks hold their slots starts as a whole, and a gang that has headed its partition for 4,096 cycles takes the first window with the most eligible cores as its target. -/
def Obligations.BlocksArePlacedAndGangsStart : Prop := BlocksArePlaced ∧ GangsStartAndWait

/-- R28, R45, R212, R235, R272, R364: a block whose warps have exited and that has nothing open leaves its core, held for its vote or retired; the last block retires its task, whose name is free and whose successors count down;
a jig hit's task retires once its copies are done, and no sooner than 640 clocks after it became Ready. -/
def Obligations.BlocksAndTasksEnd : Prop :=
  (∀ (bid : Nat) (s : State),
    (s.blockDone bid = false ∨ (s.blockOf bid).isCheck = true → exec (.blockComplete bid) s = .next s) ∧
    ∀ x, s.blockDone bid = true → (s.blockOf bid).isCheck = false →
      let b := s.blockOf bid
      AL.get? s.tasks (taskKey b.vf b.task) = some x →
      ((∃ q, q ∈ b.queues ∧ q.2.faulted.isSome = true) → x.st ≠ .killed → ∃ t, exec (.blockComplete bid) s = .next t ∧ AL.has t.blocks bid = false ∧ s.taskLive b.vf b.task = true ∧ t.taskLive b.vf b.task = false) ∧
      ((∀ q, q ∈ b.queues → q.2.faulted = none) → b.holds = true → x.retired ≠ x.nblocks →
        ∃ t, exec (.blockComplete bid) s = .next t ∧ (t.blockOf bid).st = .held ∧ (t.blockOf bid).heldAt = s.now ∧ (t.blockOf bid).tiles = [] ∧ (t.blockOf bid).set = b.set ∧ (t.blockOf bid).log = b.log ∧
          (∀ w, w / 32 = bid → AL.get? t.warps w = none) ∧ ∀ a, t.memByte a = s.memByte a) ∧
      ((∀ q, q ∈ b.queues → q.2.faulted = none) → b.holds = false →
        (x.retired + 1 ≠ x.nblocks → ∃ t y, exec (.blockComplete bid) s = .next t ∧ AL.has t.blocks bid = false ∧ (∀ w, w / 32 = bid → AL.get? t.warps w = none) ∧
          AL.get? t.tasks (taskKey b.vf b.task) = some y ∧ y.retired = x.retired + 1 ∧ y.record = x.record ∧ ∀ a, t.memByte a = s.memByte a) ∧
        (x.retired + 1 = x.nblocks → x.st ≠ .killed → x.f 0x20 3 3 = 0 → (∀ n, n ∈ recSuccs x.record → n = 0) →
          ∃ t, exec (.blockComplete bid) s = .next t ∧ AL.has t.blocks bid = false ∧ (∀ w, w / 32 = bid → AL.get? t.warps w = none) ∧ t.tasks = AL.del s.tasks (taskKey b.vf b.task) ∧ ∀ a, t.memByte a = s.memByte a))) ∧
  ∀ (vf name : Nat) (s : State) (x : Task), AL.get? s.tasks (taskKey vf name) = some x →
    (s.now < x.readyAt + 640 ∨ x.st ≠ .ready ∨ x.hitCopies = none → exec (.jigHitRetire vf name) s = .next s) ∧
    (∀ l, x.hitCopies = some l → l ≠ [] → exec (.jigHitRetire vf name) s = .next s) ∧
    (x.readyAt + 640 ≤ s.now → x.st = .ready → x.hitCopies = some [] → exec (.jigHitRetire vf name) s = .next (s.retireTask vf name)) ∧
    (x.hitCopies.isSome = true →
      ((∀ n, n ∈ recSuccs x.record → n = 0) → s.retireTask vf name = { s with tasks := AL.del s.tasks (taskKey vf name) }) ∧
      ∀ n y, recSuccs x.record = [n, 0, 0, 0] → n ≠ 0 → taskKey vf n ≠ taskKey vf name → AL.get? s.tasks (taskKey vf n) = some y → y.st = .waiting → 1 < y.counter →
        s.retireTask vf name = { s with tasks := AL.put (AL.del s.tasks (taskKey vf name)) (taskKey vf n) { y with counter := y.counter - 1 } })

namespace Sys2Proof.Claims

/-! Issue (R24, R55 to R59, R462) -/

/-- The Ready paths of a quarter. -/
def readyPaths (s : State) (core q : Nat) : List (Nat × Bool) := (pathsOf (s.quarterWarps core q)).filter s.issuable

/-- A VF's deficit in a slot, its weight added: the one the quarter holds for it, or for a VF new to the quarter the one in force in this round (R55). -/
def creditIn (s : State) (q : Quarter) (v : Nat) : Int := AL.getD q.deficit v 0 + ((AL.get? q.weight v).getD (s.weightNow v) : Nat)

/-- A path that R56 puts before every other of a set. -/
def FirstOf (s : State) (x : Nat × Bool) (p : Nat × Bool → Prop) : Prop := p x ∧ ∀ y, p y → y ≠ x → s.before x y = true

/-- The debugger has no part in a path's issue: the warp is in a debug step, or no stop of its block is asked for and the path stands at no breakpoint. -/
def NoDebugStop (s : State) (x : Nat × Bool) : Prop :=
  (s.warpOf x.1).stepping.isSome = true ∨ ((s.blockOf (s.warpOf x.1).bid).stopBlk.contains (s.warpOf x.1).idx = false ∧ s.breakpoint x = none)

/-- A slot gives a path to the step: only the quarter's state and the stall counters differ otherwise. -/
def SlotTaken (s : State) (core q : Nat) (x : Nat × Bool) (more : Quarter → Prop) : Prop :=
  ∃ t r, exec (.issueSlot core q) s = .next t ∧ t.issue = some x ∧ t = { s with issue := some x, quarters := t.quarters, regs := t.regs } ∧
    AL.get? t.quarters (quarterKey core q) = some r ∧ more r ∧ ∀ k, k ≠ quarterKey core q → AL.get? t.quarters k = AL.get? s.quarters k

/-- R55 to R57: a slot with no Ready path issues nothing; a slot of the reservation goes to the first of the check runs' paths; otherwise the VF with the largest deficit, or the one promoted, gives the slot to its first path: the most urgent class, the longest Ready, the longest since its issue, the lowest number. The last two are the model's choice (DESIGN CHOICE, log entry 79). -/
def IssueSlotsChooseAPath : Prop :=
  ∀ (core q : Nat) (s : State),
    let k := s.quarterOf' (quarterKey core q)
    let isReady (x : Nat × Bool) : Prop := x ∈ readyPaths s core q
    (∃ t, exec (.issueSlot core q) s = .next t ∧ (∀ a, t.memByte a = s.memByte a) ∧ (t.issue = s.issue ∨ ∃ x, t.issue = some x ∧ isReady x)) ∧
    (readyPaths s core q = [] → ∃ t, exec (.issueSlot core q) s = .next t ∧ t = { s with quarters := t.quarters, regs := t.regs }) ∧
    (∀ x, FirstOf s x (fun y => isReady y ∧ s.checkPath y = true) → k.reserved < 16 → NoDebugStop s x → SlotTaken s core q x fun r => r.reserved = k.reserved + 1) ∧
    ∀ x v, FirstOf s x (fun y => isReady y ∧ s.vfOfPath y = v) → NoDebugStop s x → 16 ≤ k.reserved ∨ (∀ y, isReady y → s.checkPath y = false) →
      ((∀ u, u ∈ k.promoted → ∀ y, isReady y → s.vfOfPath y ≠ u) ∧ (∀ y, isReady y → s.vfOfPath y = v ∨ creditIn s k (s.vfOfPath y) < creditIn s k v ∨ (creditIn s k (s.vfOfPath y) = creditIn s k v ∧ v < s.vfOfPath y)))
        ∨ (∃ pre post, k.promoted = pre ++ v :: post ∧ ∀ u, u ∈ pre → ∀ y, isReady y → s.vfOfPath y ≠ u) →
      SlotTaken s core q x fun r => r.reserved = k.reserved ∧ v ∉ r.promoted ∧
        (∀ y, isReady y → s.vfOfPath y ≠ v → AL.getD r.deficit (s.vfOfPath y) 0 = creditIn s k (s.vfOfPath y)) ∧
        ((∀ y, isReady y → s.vfOfPath y = v) → AL.getD r.deficit v 0 = AL.getD k.deficit v 0)

/-- R24, R55 to R57, R462: promotions after 4,096 and 1,024 clocks, the round boundary every 256 clocks, the end of a yield, and the grant of a role to the oldest waiter of its share, each with no effect before its time. A waiter that the debugger has stopped is not granted meanwhile (DESIGN CHOICE, log entry 79). -/
def PromotionsRoundsAndWakes : Prop :=
  (∀ (core q vf : Nat) (s : State), AL.get? (s.quarterOf' (quarterKey core q)).readySince vf = none → exec (.issueVfPromote core q vf) s = .next s) ∧
  (∀ (core q vf n : Nat) (s : State) (k : Quarter), AL.get? s.quarters (quarterKey core q) = some k → AL.get? k.readySince vf = some n →
    (s.now < n + 4096 ∨ vf ∈ k.promoted → exec (.issueVfPromote core q vf) s = .next s) ∧
    (n + 4096 ≤ s.now → vf ∉ k.promoted → exec (.issueVfPromote core q vf) s = .next { s with quarters := AL.put s.quarters (quarterKey core q) { k with promoted := insSorted vf k.promoted } })) ∧
  (∀ (wid : Nat) (b : Bool) (s : State) (w : Warp), AL.get? s.warps wid = some w →
    (s.issuable (wid, b) = false ∨ s.now < (w.path b).since + 1024 ∨ (w.path b).promoted = true → exec (.issuePathPromote wid b) s = .next s) ∧
    (s.issuable (wid, b) = true → (w.path b).since + 1024 ≤ s.now → (w.path b).promoted = false →
      exec (.issuePathPromote wid b) s = .next { s with warps := AL.put s.warps wid (w.setPath b { w.path b with promoted := true }) }) ∧
    (∀ n, (w.path b).st = .sleepYield n → s.now < n → exec (.yieldWake wid b) s = .next s) ∧
    ((∀ n, (w.path b).st ≠ .sleepYield n) → exec (.yieldWake wid b) s = .next s) ∧
    (∀ n, (w.path b).st = .sleepYield n → n ≤ s.now →
      exec (.yieldWake wid b) s = .next { s with warps := AL.put s.warps wid (w.setPath b { w.path b with st := .ready, since := s.now, waited := false }) })) ∧
  (∀ (core q : Nat) (s : State), AL.get? s.quarters (quarterKey core q) = none → exec (.issueRoundBoundary core q) s = .next s) ∧
  (∀ (core q : Nat) (s : State) (k : Quarter), AL.get? s.quarters (quarterKey core q) = some k →
    (s.now % 256 ≠ 0 → exec (.issueRoundBoundary core q) s = .next s) ∧
    (s.now % 256 = 0 → exec (.issueRoundBoundary core q) s =
      .next { s with quarters := AL.put s.quarters (quarterKey core q) { k with reserved := 0, weight := k.weight.map fun e => (e.1, s.weightNow e.1) } })) ∧
  ∀ (wid n : Nat) (s : State) (w : Warp), AL.get? s.warps wid = some w →
    let b := s.blockOf w.bid
    let task := s.taskOf b.vf b.task
    ((∀ m, w.pathA.st ≠ .roleWait m) → exec (.roleGrant wid) s = .next s) ∧
    (w.pathA.st = .roleWait n → s.oldestRole w.bid (quarterOf wid) ≠ some wid ∨ w.allot + s.freeShare w.bid (quarterOf wid) < task.roleV n → exec (.roleGrant wid) s = .next s) ∧
    (w.pathA.st = .roleWait n → b.st = .resident ∨ b.st = .saving → w.saved = none → w.dbg = false → s.oldestRole w.bid (quarterOf wid) = some wid → task.roleV n ≤ w.allot + s.freeShare w.bid (quarterOf wid) →
      (∃ t, exec (.roleGrant wid) s = .next t ∧ (t.warpOf wid).allot = task.roleV n ∧ (t.warpOf wid).role = n ∧ (t.warpOf wid).prio = rolePrio task.record n ∧ (t.warpOf wid).pathA.st = .ready ∧
        (t.warpOf wid).pathA.pc = BitVec.ofNat 57 (task.codeva + roleEntry task.record n)) ∧
      (b.kind = .plain → exec (.roleGrant wid) s = .next { s with warps := AL.put s.warps wid { w with
        v := w.v.filter (fun e => decide (e.1 / 32 < min w.allot (task.roleV n))), allot := task.roleV n, role := n, prio := rolePrio task.record n
        pathA := { w.pathA with st := .ready, since := s.now, waited := false, pc := BitVec.ofNat 57 (task.codeva + roleEntry task.record n) } } }))

end Sys2Proof.Claims

/-- R55 to R57: a slot with no Ready path issues nothing; a slot of the reservation goes to the first of the check runs' paths; otherwise the VF with the largest deficit, or the one promoted, gives the slot to its first path: the most urgent class, the longest Ready, the longest since its issue, the lowest number. The last two are the model's choice (DESIGN CHOICE, log entry 79).
R24, R55 to R57, R462: promotions after 4,096 and 1,024 clocks, the round boundary every 256 clocks, the end of a yield, and the grant of a role to the oldest waiter of its share, each with no effect before its time. A waiter that the debugger has stopped is not granted meanwhile (DESIGN CHOICE, log entry 79). -/
def Obligations.IssueSlotsPromotionsAndWakes : Prop := IssueSlotsChooseAPath ∧ PromotionsRoundsAndWakes

namespace Sys2Proof.Claims

/-! Redundant execution (R222 to R247, R407) -/

/-- The memory that a version set leaves when it is released: its bytes stand in the place of the visible ones (R171, R240). -/
def SetReleased (s t : State) (v : VersionSet) : Prop := ∀ a, t.memByte a = (AL.get? v.bytes a).getD (s.memByte a)

/-- A version set that lists no byte twice, of this package's memory alone, and holds no task operation. -/
def PlainSet (v : VersionSet) : Prop := (AL.keys v.bytes).Nodup ∧ (∀ a, a ∈ AL.keys v.bytes → spaRemote a = false) ∧ v.ops = []

/-- A unit's points and its mark as a suspect (R241). -/
def Charged (s t : State) (points unit : Nat) : Prop :=
  (Tbl.get t.chk.demerit unit).toNat = min 255 ((Tbl.get s.chk.demerit unit).toNat + points) ∧ unit ∈ t.chk.suspect

/-- A checked block is released: the run and the block are gone, the set's bytes are visible, the block counts towards its task, and the outcome is counted. -/
def VoteReleases (s t : State) (run m : Nat) (v : VersionSet) (x : Task) (outcome : Nat) : Prop :=
  AL.has t.blocks run = false ∧ AL.has t.blocks m = false ∧ SetReleased s t v ∧
  (∃ y, AL.get? t.tasks (taskKey (s.blockOf m).vf (s.blockOf m).task) = some y ∧ y.retired = x.retired + 1 ∧ y.record = x.record) ∧
  Tbl.get t.chk.health outcome = Tbl.get s.chk.health outcome + 1

/-- A checked block's vote ends its task (R239). -/
def VoteKills (s t : State) (run m : Nat) : Prop := AL.has t.blocks run = false ∧ AL.has t.blocks m = false ∧ t.taskLive (s.blockOf m).vf (s.blockOf m).task = false

/-- A check run of a block has ended, its block's task goes on after it, and the charge of some units fences none. -/
def VoteReady (s : State) (run m : Nat) (x : Task) (points : Nat) (units : List Nat) : Prop :=
  run ≠ m ∧ (s.blockOf run).origin = m ∧ AL.has s.blocks m = true ∧ AL.get? s.tasks (taskKey (s.blockOf m).vf (s.blockOf m).task) = some x ∧ x.st ≠ .killed ∧ x.retired + 1 ≠ x.nblocks ∧
  ∀ u, u ∈ units → (Tbl.get s.chk.demerit u).toNat + points < s.thresh (s.partD (s.blockOf m).vf) ∧ (Tbl.get s.chk.demerit u).toNat + points < 256

end Sys2Proof.Claims

/-- R237, R238: a held block's tenon run, and a voting block's dowel run, start as a single block on a core its other runs did not use, no earlier than the waits of R237 allow; when no core can be found for 16,384 clocks one block is pre-empted to make room,
and a check run that has waited for its role for 2^20 clocks diverges. That the 16,384 clocks then count afresh, and the free choice among blocks that are all clamped, are DEDUCED (log entry 61); a core that starts a check run gives up its L1 copies by the model's choice (DESIGN CHOICE, log entry 84). -/
def Obligations.CheckRunsStart : Prop :=
  (∀ (bid p core : Nat) (dowel : Bool) (s : State) (m : Block), AL.get? s.blocks bid = some m → s.partOf m.vf = some p → bid ≠ s.nextId → (s.taskOf m.vf m.task).vf = m.vf →
    let task := s.taskOf m.vf m.task
    let start := if dowel then Instr.dowelStart bid else .tenonStart bid
    (m.st ≠ (if dowel then .voting else .held) ∨ m.phase ≠ (if dowel then 2 else 0) ∨ s.now < m.checkFrom ∨ s.partEn p = false → exec start s = .next s) ∧
    (s.coreForCheck p bid dowel [] = some core → core ≠ m.core ∧ (dowel = true → core ≠ m.tenonCore) ∧ m.voidCore ≠ some core ∧ core ∈ s.partCores p ∧ s.eligible task core = true ∧ s.clusterFree core = true) ∧
    (s.coreForCheck p bid dowel [] = none → exec start s = .next s) ∧
    (m.st = (if dowel then .voting else .held) → m.phase = (if dowel then 2 else 0) → m.checkFrom ≤ s.now → s.partEn p = true → s.coreForCheck p bid dowel [] = some core →
      ∃ t b, exec start s = .next t ∧ AL.get? t.blocks s.nextId = some b ∧ b.kind = (if dowel then .dowel else .tenon) ∧ b.origin = bid ∧ b.core = core ∧ b.vf = m.vf ∧ b.lin = m.lin ∧ b.nwarps = task.nwarps ∧
        b.set = ⟨[], [], []⟩ ∧ (∀ i, i < task.nwarps → t.warpOf (s.nextId * 32 + i) = launchWarp task s.nextId i s.now) ∧
        AL.get? t.blocks bid = some (if dowel then { m with phase := 3, dowelCore := core, voidCore := none } else { m with phase := 1, tenonCore := core, voidCore := none }) ∧
        t.clusterFree core = false ∧ (∀ a, t.memByte a = s.memByte a) ∧ t = { s with blocks := t.blocks, warps := t.warps, nextId := s.nextId + 1, clusterNext := t.clusterNext, quarters := t.quarters, mm := (s.dropCoreL1 core).mm })) ∧
  (∀ (p : Nat) (s : State), (∀ e, e ∈ s.checkWaiters p → s.now < e.2 + 16384) → s.roomDue p = none ∧ exec (.checkRoomPreempt p) s = .next s) ∧
  (∀ (p w : Nat) (s : State), s.roomDue p = some w → (∀ e, e ∈ s.residents p → AL.get? s.blocks e.1 = some e.2) →
    let single (b : Block) : Prop := b.isCheck = false ∧ (s.taskOf b.vf b.task).gang ≤ 1
    let goes (q : Nat × Block → Prop) : Prop := ∃ t e, exec (.checkRoomPreempt p) s = .next t ∧ e ∈ s.residents p ∧ q e ∧ (t.blockOf e.1).st = .saving ∧ (t.blockOf e.1).pre = some (s.now, false) ∧
      (∀ m, AL.get? s.blocks w = some m → (t.blockOf w).waitFrom = s.now) ∧ ∀ a, t.memByte a = s.memByte a
    ((∃ e, e ∈ s.residents p ∧ s.allClamped e.1 = true) → goes fun e => s.allClamped e.1 = true) ∧
    ((∀ e, e ∈ s.residents p → s.allClamped e.1 = false) → (∃ e, e ∈ s.residents p ∧ single e.2) → goes fun e => single e.2 ∧ ∀ f, f ∈ s.residents p → single f.2 → f.2.started < 2 ^ 64 → f.2.started ≤ e.2.started) ∧
    ((∀ e, e ∈ s.residents p → s.allClamped e.1 = false ∧ ¬ single e.2) → exec (.checkRoomPreempt p) s = .next (s.updBlock w fun b => { b with waitFrom := s.now }))) ∧
  ∀ (wid : Nat) (s : State) (w : Warp) (b : Block), AL.get? s.warps wid = some w → AL.get? s.blocks w.bid = some b →
    (b.isCheck = false ∨ (∀ n, w.pathA.st ≠ .roleWait n) ∨ s.now < w.roleSince + 2 ^ 20 → exec (.checkRoleTimeout wid) s = .next s) ∧
    (b.isCheck = true → (∃ n, w.pathA.st = .roleWait n) → w.exited = false → w.roleSince + 2 ^ 20 ≤ s.now →
      exec (.checkRoleTimeout wid) s = .next { s with blocks := AL.put s.blocks w.bid { b with diverged := true }, warps := s.warps.filter fun e => e.1 / 32 != w.bid })

/-- R239 to R241, R243: a tenon run that agrees releases the block's stores, and one that differs sends the vote to a dowel run; the dowel run decides which stores are released and whose unit is charged, or the task dies;
a set held for its age limit is released unverified. -/
def Obligations.VotesDecide : Prop :=
  (∀ (run m : Nat) (s : State) (x : Task), s.checkEnded run .tenon = true → VoteReady s run m x 0 [] →
    let g := s.blockSig run
    let v := (s.blockOf m).sig
    let agree := (s.blockOf run).diverged = false ∧ g.ss = v.ss ∧ g.vs = v.vs ∧ g.ms = v.ms
    (agree → PlainSet (s.blockOf m).set → ∃ t, exec (.tenonEnd run) s = .next t ∧ VoteReleases s t run m (s.blockOf m).set x 0x460) ∧
    (¬ agree → ∃ t, exec (.tenonEnd run) s = .next t ∧ AL.has t.blocks run = false ∧ (t.blockOf m).st = .voting ∧ (t.blockOf m).phase = 2 ∧ (t.blockOf m).set = (s.blockOf m).set ∧
      (t.blockOf m).tenonSig = (if (s.blockOf run).diverged then none else some g) ∧ ∀ a, t.memByte a = s.memByte a)) ∧
  (∀ (run : Nat) (s : State), s.checkEnded run .tenon = false → exec (.tenonEnd run) s = .next s) ∧
  (∀ (run m : Nat) (s : State), run ≠ m → (s.blockOf run).origin = m →
    (s.checkEnded run .tenon = true → ∃ t, exec (.tenonEnd run) s = .next t ∧ AL.has t.blocks run = false) ∧
    (s.checkEnded run .dowel = true → ∃ t, exec (.dowelEnd run) s = .next t ∧ AL.has t.blocks run = false)) ∧
  (∀ (run : Nat) (s : State), s.checkEnded run .dowel = false → exec (.dowelEnd run) s = .next s) ∧
  (∀ (run m : Nat) (s : State) (x : Task), s.checkEnded run .dowel = true →
    let d := s.blockOf run
    let b := s.blockOf m
    let g : Option Sig := if d.diverged then none else some (s.blockSig run)
    let tenonUnit := loserUnit b.tenonCore b.sig b.tenonSig
    (d.unver = true → VoteReady s run m x 0 [] → ∃ t, exec (.dowelEnd run) s = .next t ∧ VoteKills s t run m) ∧
    (d.unver = false → sigsAgree (some b.sig) g = true → VoteReady s run m x 4 [tenonUnit] → PlainSet b.set →
      ∃ t, exec (.dowelEnd run) s = .next t ∧ VoteReleases s t run m b.set x 0x468 ∧ Charged s t 4 tenonUnit) ∧
    (d.unver = false → sigsAgree (some b.sig) g = false → ∀ dg, g = some dg → sigsAgree b.tenonSig g = true →
      let unit := loserUnit b.core dg (some b.sig)
      VoteReady s run m x 4 [unit] →
      (b.sig.asig = dg.asig → PlainSet d.set → ∃ t, exec (.dowelEnd run) s = .next t ∧ VoteReleases s t run m d.set x 0x470 ∧ Charged s t 4 unit) ∧
      (b.sig.asig ≠ dg.asig → ∃ t, exec (.dowelEnd run) s = .next t ∧ VoteKills s t run m ∧ Charged s t 4 unit)) ∧
    (d.unver = false → sigsAgree (some b.sig) g = false → ∀ dg, g = some dg → sigsAgree b.tenonSig g = false →
      let arrays := dg.sameSV b.sig && b.tenonSig.any fun t => t.sameSV b.sig
      let units := [b.core, b.tenonCore, b.dowelCore].map fun c => if arrays then c + 384 else c
      VoteReady s run m x 2 units → units.Nodup → ∃ t, exec (.dowelEnd run) s = .next t ∧ VoteKills s t run m ∧ ∀ c, c ∈ units → Charged s t 2 c) ∧
    (d.unver = false → g = none → VoteReady s run m x 2 [b.core, b.tenonCore, b.dowelCore] → [b.core, b.tenonCore, b.dowelCore].Nodup →
      ∃ t, exec (.dowelEnd run) s = .next t ∧ VoteKills s t run m ∧ ∀ c, c ∈ [b.core, b.tenonCore, b.dowelCore] → Charged s t 2 c)) ∧
  ∀ (bid : Nat) (s : State) (b : Block) (x : Task), AL.get? s.blocks bid = some b → AL.get? s.tasks (taskKey b.vf b.task) = some x → x.retired + 1 ≠ x.nblocks →
    let n := s.ageLimit (s.partD b.vf)
    ((b.st ≠ .held ∧ b.st ≠ .voting) ∨ n = 0 ∨ s.now < b.heldAt + n → exec (.clampAgeLimit bid) s = .next s) ∧
    (b.st = .held ∨ b.st = .voting → n ≠ 0 → b.heldAt + n ≤ s.now → (∀ c, (bid, c) ∈ s.blocks → c.isCheck = false) → PlainSet b.set →
      ∃ t, exec (.clampAgeLimit bid) s = .next t ∧ AL.has t.blocks bid = false ∧ (∀ r c, AL.get? s.blocks r = some c → c.isCheck = true → c.origin = bid → AL.has t.blocks r = false) ∧ SetReleased s t b.set ∧
        ∃ y, AL.get? t.tasks (taskKey b.vf b.task) = some y ∧ y.retired = x.retired + 1 ∧ y.voted = false)

/-- R223, R241, R242, R246: demerits fall by one every 2^36 clocks, a CHKCMD for a core of its partition clears or sets a unit's count and fence, and a health record is the next in sequence. Fencing a unit ends the check runs on its core and signals the pre-emption of the blocks there that may no longer stay (R242), which starts once the clock's issue slots and debug stops are over (R37). -/
def Obligations.DemeritsFencesAndHealth : Prop :=
  (∀ s : State, (s.now % 2 ^ 36 ≠ 0 → exec .demeritDecay s = .next s) ∧
    (s.now % 2 ^ 36 = 0 → (AL.keys s.chk.demerit).Nodup → ∃ t, exec .demeritDecay s = .next t ∧ t = { s with chk := { s.chk with demerit := t.chk.demerit } } ∧
      ∀ u, (Tbl.get t.chk.demerit u).toNat = (Tbl.get s.chk.demerit u).toNat - 1)) ∧
  (∀ s : State, exec .healthRecordRequest s = .next { s with chk := { s.chk with record := some s.healthBytes, suspect := [], health := Tbl.set s.chk.health 8 (Tbl.get s.chk.health 8 + 1) } }) ∧
  (∀ s : State, s.issue = none → s.agenda = [] → s.roleGrants = [] → s.dueOf 1 = [] → s.signals ≠ [] →
    ∃ t, step s = .next t ∧ t.signals = [] ∧ ∀ bid b, bid ∈ s.signals → AL.get? s.blocks bid = some b → b.st = .resident → (t.blockOf bid).st = .saving ∧ (t.blockOf bid).pre = some (s.now, false)) ∧
  ∀ (p core val : Nat) (matrix : Bool) (s : State),
    let unit := if matrix then core + 384 else core
    (s.chkcmdOk p core = true ↔ s.blkActive Config.pf blkPart = true ∧ p < 24 ∧ core < 384 ∧ bitOf (s.clustersOf p) (core / 12) = true) ∧
    (s.chkcmdOk p core = false → exec (.chkcmdUnfence p core matrix) s = .next s ∧ exec (.chkcmdSetDemerits p core matrix val) s = .next s) ∧
    (s.chkcmdOk p core = true →
      (∃ t, exec (.chkcmdUnfence p core matrix) s = .next t ∧ t = { s with chk := { s.chk with demerit := t.chk.demerit, fenced := t.chk.fenced } } ∧
        (∀ u, Tbl.get t.chk.demerit u = if u = unit then 0 else Tbl.get s.chk.demerit u) ∧ ∀ u, u ∈ t.chk.fenced ↔ u ∈ s.chk.fenced ∧ u ≠ unit) ∧
      (val < 256 → val < s.thresh p ∨ unit ∈ s.chk.fenced → ∃ t, exec (.chkcmdSetDemerits p core matrix val) s = .next t ∧ t = { s with chk := { s.chk with demerit := t.chk.demerit } } ∧
        ∀ u, (Tbl.get t.chk.demerit u).toNat = if u = unit then val else (Tbl.get s.chk.demerit u).toNat) ∧
      (val < 256 → s.thresh p ≤ val → unit ∉ s.chk.fenced → (AL.keys s.blocks).Nodup → (∀ e, e ∈ s.blocks → e.2.pair ≠ .paired) →
        let must (b : Block) : Prop := b.onCore = true ∧ b.core = core ∧ (matrix = true → (s.taskOf b.vf b.task).nomatrix = false)
        ∃ t, exec (.chkcmdSetDemerits p core matrix val) s = .next t ∧ (∀ u, u ∈ t.chk.fenced ↔ u ∈ s.chk.fenced ∨ u = unit) ∧
          (∀ bid b, AL.get? s.blocks bid = some b → must b → b.isCheck = false → bid ∈ t.signals ∧ (t.blockOf bid).st = b.st) ∧
          (∀ bid b, AL.get? s.blocks bid = some b → must b → b.isCheck = true → AL.has t.blocks bid = false) ∧
          ∀ bid, bid ∈ t.signals → bid ∈ s.signals ∨ ∃ b, AL.get? s.blocks bid = some b ∧ must b) ∧
      (val < 256 → s.thresh p ≤ val → unit ∉ s.chk.fenced → s.blocks = [] → NoneBlocked s → (∀ e, e ∈ s.tasks → e.2.pending = false) →
        ∃ t, exec (.chkcmdSetDemerits p core matrix val) s = .next t ∧ t = { s with chk := t.chk } ∧ (∀ u, u ∈ t.chk.fenced ↔ u ∈ s.chk.fenced ∨ u = unit) ∧
          (Tbl.get t.chk.demerit unit).toNat = val ∧ t.chk.record.isSome = true ∧ Tbl.get t.chk.health 8 = Tbl.get s.chk.health 8 + 1))

namespace Sys2Proof.Claims

/-! Pre-emption and debugging (R285 to R291) -/

/-- A block as a save finds it: a pair goes on alone, and the epoch is the current one (R203, R288). -/
def atSave (s : State) (bid : Nat) : State :=
  s.updBlock bid fun b => { b with pair := if b.pair = .paired then .solo else b.pair, epoch := s.epoch.toNat }

/-- A block whose warps that restart from a rewind point have given up what they issued after it (R283), whose other warps have their `yield`s over (R463), and whose upper slots have gone with its pair (R203). -/
def reduced (s : State) (bid : Nat) : State :=
  let u := if (s.blockOf bid).pair = .none then s.dropUpper bid else s
  (u.liveWarps bid).foldl (fun s k => if (s.warpOf k).saved = some true then s.reduceWarp k else s.updWarp k Warp.forSave) u

/-- The words a save writes: the block's own, its warps', and its tiles' (R287, R288). -/
def saveImage (s : State) (bid : Nat) : List (Nat × DWord) :=
  let u := atSave s bid
  u.blockWords bid ++ (u.warpWords u.free (u.warpsOf bid)).1 ++ (u.blockOf bid).tileWords bid

/-- A debug command's block and the warps it names there: debugging is enabled for the VF, and the block is no check run (R290, R291). -/
def DebugNames (s : State) (vf word bid : Nat) : Prop := s.debugTarget vf word = some bid ∧ AL.has s.blocks bid = true ∧ ∀ k, k ∈ s.warpsOf bid → (s.warpOf k).bid = bid

end Sys2Proof.Claims

/-- R285 to R288: the end of a time slice pre-empts every block of the VF, a warp that ran on is saved full 2,048 cycles after the signal, its requests for start tokens withdrawn, and a block whose warps have all stopped is saved to its context area and leaves its core, or ends its task there where a copy queue has faulted (R212).
That SLICE_END acts on a VF's blocks whichever partition has them, and that the end of a task comes before the save, are the model's readings (log entries 54 and 9). -/
def Obligations.Preemption : Prop :=
  (∀ (p vf : Nat) (s : State),
    (s.blkActive Config.pf blkPart = false ∨ 24 ≤ p → exec (.sliceEnd p vf) s = .next s) ∧
    (s.blkActive Config.pf blkPart = true → p < 24 → ∃ t, exec (.sliceEnd p vf) s = .next t ∧
      (∀ bid b, AL.get? s.blocks bid = some b → b.vf = vf → b.st = .resident ∨ b.st = .starting → (t.blockOf bid).st = .saving ∧ (t.blockOf bid).pre = some (s.now, false)) ∧
      (∀ bid, (s.blockOf bid).st ≠ .resident → (s.blockOf bid).st ≠ .starting → t.blockOf bid = s.blockOf bid) ∧
      (∀ w, (t.warpOf w).s = (s.warpOf w).s ∧ (t.warpOf w).v = (s.warpOf w).v ∧ (t.warpOf w).pathA = (s.warpOf w).pathA ∧ (t.warpOf w).pathB = (s.warpOf w).pathB) ∧
      (s.eng.tokens = [] → t.eng = s.eng) ∧ t = { s with blocks := t.blocks, warps := t.warps, eng := t.eng })) ∧
  (∀ (wid n : Nat) (f : Bool) (s : State) (w : Warp), AL.get? s.warps wid = some w → (s.blockOf w.bid).pre = some (n, f) →
    (s.now < n + 2048 ∨ w.exited = true ∨ w.saved ≠ none → exec (.preemptRunonTimeout wid) s = .next s) ∧
    (n + 2048 ≤ s.now → w.exited = false → w.saved = none → (s.blockOf w.bid).st = .saving →
      exec (.preemptRunonTimeout wid) s = .next (({ s with warps := AL.put s.warps wid { w with saved := some false } } : State).withdrawTokens wid) ∧
      ((∀ x, x ∈ s.eng.tokens → x.wid ≠ wid) → exec (.preemptRunonTimeout wid) s = .next { s with warps := AL.put s.warps wid { w with saved := some false } }))) ∧
  ∀ (bid : Nat) (s : State),
    (s.canSave bid = false → exec (.preemptSaveDone bid) s = .next s) ∧
    (∀ x, s.canSave bid = true → (∃ q, q ∈ (s.blockOf bid).queues ∧ q.2.faulted.isSome = true) → AL.get? s.tasks (taskKey (s.blockOf bid).vf (s.blockOf bid).task) = some x → x.st ≠ .killed →
      ∃ t, exec (.preemptSaveDone bid) s = .next t ∧ AL.has t.blocks bid = false ∧ t.taskLive (s.blockOf bid).vf (s.blockOf bid).task = false) ∧
    (s.canSave bid = true → (∀ q, q ∈ (s.blockOf bid).queues → q.2.faulted = none) → (∀ e, e ∈ s.eng.bphys → e.2.1 ≠ bid) → (∀ m, m ∈ s.eng.tileMsgs → m.src ≠ bid) →
      let b := s.blockOf bid
      let image := saveImage (reduced s bid) bid
      (∀ pg, pg ∈ ctxPageList (s.ctxBase b) image → ∃ e, tlbFind s.mm.tlb1 b.core b.vf (pg * 4096) = some e ∧ e.w = true) →
      ∃ t, exec (.preemptSaveDone bid) s = .next t ∧ (t.blockOf bid).st = .saved ∧ (t.blockOf bid).pre = none ∧ (t.blockOf bid).image = image ∧
        (∀ w k, w ∈ s.warpsOf bid → (s.warpOf w).saved ≠ some true → k < 64 → (ctxWarp (s.warpOf w).idx + 8 * k, (s.warpOf w).rS k) ∈ (t.blockOf bid).image) ∧
        (∀ j, j ≠ bid → (t.blockOf j).st = (s.blockOf j).st) ∧ t.tasks = s.tasks ∧ t.regs = s.regs)

/-- R289 to R291: the debug commands stop the warps they name, release them, let the chosen path issue once, or save the block and hold it unplaced; a read of the record register takes the oldest record; a command that names no block, or where debugging is off, does nothing. -/
def Obligations.DebugCommands : Prop :=
  ∀ (vf word : Nat) (s : State),
    (s.debugTarget vf word = none → exec (.debugStop vf word) s = .next s ∧ exec (.debugResume vf word) s = .next s ∧ exec (.debugStep vf word) s = .next s ∧ exec (.debugSave vf word) s = .next s) ∧
    (s.blkActive vf blkDebug = false ∨ s.den vf = false → s.debugTarget vf word = none) ∧
    (∀ bid, DebugNames s vf word bid →
      ((s.blockOf bid).onCore = true → (s.blockOf bid).kind = .plain → ∃ t, exec (.debugStop vf word) s = .next t ∧
        (∀ k, k ∈ s.debugWarps bid word → (s.warpOf k).saved = none → (t.warpOf k).dbg = true ∧ ((s.warpOf k).dbg = false → (t.warpOf k).stepping = none)) ∧
        (∀ k, (t.warpOf k).pathA = (s.warpOf k).pathA ∧ (t.warpOf k).pathB = (s.warpOf k).pathB ∧ (t.warpOf k).s = (s.warpOf k).s) ∧
        (∀ k, k ∉ s.debugWarps bid word → t.warpOf k = s.warpOf k) ∧ ∀ a, t.memByte a = s.memByte a) ∧
      (∃ t, exec (.debugResume vf word) s = .next t ∧ (t.blockOf bid).debugHold = false ∧ (∀ k, k ∈ s.debugWarps bid word → (t.warpOf k).dbg = false) ∧
        (∀ k, (t.warpOf k).pathA.pc = (s.warpOf k).pathA.pc ∧ (t.warpOf k).pathA.st = (s.warpOf k).pathA.st ∧ (t.warpOf k).s = (s.warpOf k).s) ∧
        (∀ k, k ∉ s.debugWarps bid word → t.warpOf k = s.warpOf k) ∧ t = { s with blocks := t.blocks, warps := t.warps }) ∧
      (∃ t, exec (.debugStep vf word) s = .next t ∧
        (∀ k, k ∈ s.debugWarps bid word → (s.warpOf k).dbg = true → (s.warpOf k).stepping = none → ((s.warpOf k).path (bitOf word 29)).st ≠ .ended →
          (t.warpOf k).stepping = some (bitOf word 29) ∧ (t.warpOf k).dbg = true ∧ ((t.warpOf k).path (bitOf word 29)).pc = ((s.warpOf k).path (bitOf word 29)).pc) ∧
        (∀ k, k ∉ s.debugWarps bid word ∨ (s.warpOf k).dbg = false → t.warpOf k = s.warpOf k) ∧ t = { s with warps := t.warps }) ∧
      ((s.blockOf bid).kind = .plain → (s.blockOf bid).st = .resident → ∃ t, exec (.debugSave vf word) s = .next t ∧ (t.blockOf bid).st = .saving ∧ (t.blockOf bid).pre = some (s.now, true) ∧
        (t.blockOf bid).debugHold = true ∧ t = { s with blocks := t.blocks, warps := t.warps, eng := t.eng }) ∧
      ((s.blockOf bid).kind = .mortise → (s.blockOf bid).st = .resident → ∃ t, exec (.debugSave vf word) s = .next t ∧ (t.blockOf bid).st = .saving ∧ (t.blockOf bid).debugHold = true ∧ (t.blockOf bid).unver = true) ∧
      ((s.blockOf bid).st = .held ∨ (s.blockOf bid).st = .voting → exec (.debugSave vf word) s = .next s)) ∧
    (s.blkActive vf blkDebug = false ∨ AL.get? s.stops vf = none → exec (.debugStopRecordPop vf) s = .next s) ∧
    ∀ r l, s.blkActive vf blkDebug = true → AL.get? s.stops vf = some (r :: l) → ∃ t, exec (.debugStopRecordPop vf) s = .next t ∧ (AL.get? t.stops vf).getD [] = l ∧
      (∀ v, v ≠ vf → AL.get? t.stops v = AL.get? s.stops v) ∧ t = { s with stops := t.stops }

namespace Sys2Proof.Claims

/-! Partitions (R40, R178, R221, R274, R275, R295 to R303) -/

/-- Writes of an inactive block, or of a partition that does not exist, do nothing. -/
def PartWrites (p val k : Nat) : List Instr := [.clustersWrite p val, .hseedWrite p val, .waysWrite p k val, .leaseWrite p val, .jquotaWrite p val, .jigFlush p k]

/-- One register of the PF's PART block takes a value. -/
def PartTakes (s : State) (off x : Nat) : State := s.setReg Config.pf blkPart off (BitVec.ofNat 64 x)

/-- A partition's way mask in a slice is written: ways that leave are to be swept. -/
def NewWays (s : State) (p k m : Nat) : State :=
  { PartTakes s (partOff p + 0x400 + 2 * k) m with sweeps := if (s.ways p k &&& (2 ^ 16 - 1 - m)) = 0 then s.sweeps else s.sweeps ++ [(p, k)] }

/-- R40, R178, R275, R295: cluster sets are disjoint and take effect at the schedule boundary; a sum of quotas above its bound, and a lease of 0, are ignored; a lower jig quota evicts; a flush deletes a VF's jig entries and releases the regions that nothing needs any more; a clear zeroes a block's stall counters.
That CLUSTERS counts as held when in force or written, and that a register write that breaks such a rule is ignored whole, are log entries 65 and 69. -/
def PartitionRegisters : Prop :=
  (∀ (p val k : Nat) (i : Instr) (s : State), i ∈ PartWrites p val k → s.blkActive Config.pf blkPart = false ∨ 24 ≤ p → exec i s = .next s) ∧
  (∀ (vf val : Nat) (s : State), s.blkActive Config.pf blkPart = false → exec (.quotaWrite vf val) s = .next s) ∧
  ∀ (p val : Nat) (s : State), s.blkActive Config.pf blkPart = true → p < 24 →
    ((∃ q, q < 24 ∧ q ≠ p ∧ (s.clustersHeld q &&& val % 2 ^ 32) ≠ 0) → exec (.clustersWrite p val) s = .next s) ∧
    ((∀ q, q < 24 → q ≠ p → (s.clustersHeld q &&& val % 2 ^ 32) = 0) → exec (.clustersWrite p val) s = .next (PartTakes s (partOff p + 8) (val % 2 ^ 32))) ∧
    (s.now % 2048 ≠ 0 → exec .tdmScheduleBoundary s = .next s) ∧
    (s.now % 2048 = 0 → ∃ t, exec .tdmScheduleBoundary s = .next t ∧ (∀ q, q < 24 → t.clustersOf q = s.clustersReg q) ∧
      (∀ k, k < 64 → AL.get? t.tdm k = if s.regBits Config.pf blkPart k 7 7 = 1 then some (s.regBits Config.pf blkPart k 4 0) else none) ∧
      (∀ bid b q, AL.get? s.blocks bid = some b → b.st = .resident ∨ b.st = .starting → s.partOf b.vf = some q → q < 24 → bitOf (s.clustersOf q) (clusterOf b.core) = true →
        bitOf (s.clustersReg q) (clusterOf b.core) = false → bid ∈ t.signals) ∧
      (∀ bid, bid ∈ s.signals → bid ∈ t.signals) ∧
      (s.blocks = [] → (∀ e, e ∈ s.tasks → e.2.pending = false) → t = { s with tdm := t.tdm, clustersNow := t.clustersNow, signals := t.signals })) ∧
    (val % 256 = 0 → exec (.leaseWrite p val) s = .next s) ∧
    (val % 256 ≠ 0 → exec (.leaseWrite p val) s = .next (PartTakes s (partOff p + 0x1000) (val % 256))) ∧
    (∀ vf, 1024 ≤ vf → exec (.quotaWrite vf val) s = .next s) ∧
    (∀ vf, vf < 1024 →
      let total := sumNat ((List.range 1024).map fun f => if f = vf then val % 2 ^ 16 else s.quota f)
      (65536 < total → exec (.quotaWrite vf val) s = .next s) ∧ (total ≤ 65536 → exec (.quotaWrite vf val) s = .next (PartTakes s (0x4000 + 4 * vf) (val % 2 ^ 16)))) ∧
    (let total := sumNat ((List.range 24).map fun q => if q = p then val % 2 ^ 16 else s.jquota q)
     (32768 < total → exec (.jquotaWrite p val) s = .next s) ∧
     (total ≤ 32768 → ∃ t, exec (.jquotaWrite p val) s = .next t ∧ t.jquota p = val % 2 ^ 16 ∧ t.jigEn p = bitOf val 16 ∧ (t.jig.entries.filter fun e => e.part == p).length ≤ val % 2 ^ 16 ∧
       ((s.jig.entries.filter fun e => e.part == p).length ≤ val % 2 ^ 16 → t.jig = s.jig) ∧ t = { s with regs := t.regs, jig := t.jig })) ∧
    (∀ vf, ∃ t, exec (.jigFlush p vf) s = .next t ∧ t.jig.entries = s.jig.entries.filter (fun e => e.vf != vf) ∧
      (∀ r, r ∈ t.jig.regions ↔ r ∈ s.jig.regions ∧ ((∃ e, e ∈ t.jig.entries ∧ e.names r = true) ∨ ∃ e, e ∈ s.tasks ∧ e.2.jigNeeds r = true)) ∧
      (∀ h, h ∈ t.jig.hashes → h ∈ s.jig.hashes) ∧ t = { s with jig := t.jig }) ∧
    (∀ blk, (blk < 1024 ∧ s.blkActive blk blkStall = false) ∨ 1048 ≤ blk → exec (.stallClr blk) s = .next s) ∧
    ∀ blk, (blk < 1024 → s.blkActive blk blkStall = true) → blk < 1048 →
      let fn := if blk < 1024 then blk else Config.pf
      let base := if blk < 1024 then 0 else partOff (blk - 1024) + 0x4000
      let which := if blk < 1024 then blkStall else blkPart
      ∃ t, exec (.stallClr blk) s = .next t ∧ (∀ c, c < 256 → t.reg fn which (base + 0x100 + 8 * c) = 0) ∧ t.reg fn which base = s.reg fn which base ∧ t = { s with regs := t.regs }

/-- R299, R300, R302, R303: a partition's seed changes only out of service and with no block of its VFs, and the flush ends its busy time; the PF's seed changes while every partition is out of service; a way mask that overlaps a STRICT partition's, or is too small for pinned tiles, is ignored, and ways that leave are swept. -/
def SeedsAndWays : Prop :=
  ∀ (p val : Nat) (s : State), s.blkActive Config.pf blkPart = true → p < 24 →
    (s.partEn p = true ∨ (∃ e, e ∈ s.blocks ∧ s.partOf e.2.vf = some p) → exec (.hseedWrite p val) s = .next (s.setRegBits Config.pf blkPart (partOff p) 3 3 1)) ∧
    (s.partEn p = false → (∀ e, e ∈ s.blocks → s.partOf e.2.vf ≠ some p) → val < 2 ^ 64 →
      ∃ t, exec (.hseedWrite p val) s = .next t ∧ (t.reg Config.pf blkPart (partOff p + 0x10)).toNat = val ∧ t.seedBusy p = true ∧ t = { s with regs := t.regs }) ∧
    (s.seedBusy p = false → exec (.seedFlushDone p) s = .next s) ∧
    (s.seedBusy p = true → ∃ t, exec (.seedFlushDone p) s = .next t ∧ t.seedBusy p = false ∧ (∀ e, e ∈ t.mm.l2dom → s.domOfPart p e.2 = false) ∧
      (∀ e, e ∈ t.mm.l1 → s.domOfPart p e.2.dom = false) ∧ (s.mm.dirty = [] → ∀ a, t.memByte a = s.memByte a)) ∧
    ((∃ q, q < 24 ∧ s.partEn q = true) → exec (.pseedWrite val) s = .next s) ∧
    ((∀ q, q < 24 → s.partEn q = false) → val < 2 ^ 64 → ∃ t, exec (.pseedWrite val) s = .next t ∧ (t.reg Config.pf blkPart 0x40).toNat = val ∧
      (∀ e, e ∈ t.mm.l2dom → e.2 < 1024) ∧ (∀ e, e ∈ t.mm.l1 → e.2.dom < 1024) ∧ (s.mm.dirty = [] → ∀ a, t.memByte a = s.memByte a)) ∧
    (∀ k, k < 192 →
      let m := val % 2 ^ 16
      ((∃ q, q < 24 ∧ q ≠ p ∧ (s.ways q k &&& m) ≠ 0 ∧ (s.partStrict q = true ∨ s.partStrict p = true)) ∨ popc 16 m < 2 * ((s.pinned p k + 1023) / 1024) → exec (.waysWrite p k val) s = .next s) ∧
      ((∀ q, q < 24 → q ≠ p → (s.ways q k &&& m) = 0 ∨ (s.partStrict q = false ∧ s.partStrict p = false)) → 2 * ((s.pinned p k + 1023) / 1024) ≤ popc 16 m →
        let u := NewWays s p k m
        (∀ e, e ∈ s.blocks → e.2.holds = true → u.spillCheck e.1 = u) → exec (.waysWrite p k val) s = .next u)) ∧
    (∀ k, 192 ≤ k → exec (.waysWrite p k val) s = .next s) ∧
    ∀ k, (s.sweeps.contains (p, k) = false → exec (.waySweepDone p k) s = .next s) ∧
      (s.sweeps.contains (p, k) = true → ∃ t, exec (.waySweepDone p k) s = .next t ∧ t.sweeps = s.sweeps.erase (p, k) ∧
        (s.mm.dirty = [] → s.ringOpen 2050 = false → s.rep.notices = [] → t.rep.notices.length = 1) ∧
        (s.mm.dirty = [] → s.ringOpen 2050 = false → ∀ l, l ∈ s.leftLines p k → AL.get? t.mm.l2dom l = none ∧ AL.get? t.mm.l2way l = none))

end Sys2Proof.Claims

/-- R40, R178, R275, R295: cluster sets are disjoint and take effect at the schedule boundary; a sum of quotas above its bound, and a lease of 0, are ignored; a lower jig quota evicts; a flush deletes a VF's jig entries and releases the regions that nothing needs any more; a clear zeroes a block's stall counters.
That CLUSTERS counts as held when in force or written, and that a register write that breaks such a rule is ignored whole, are log entries 65 and 69.
R299, R300, R302, R303: a partition's seed changes only out of service and with no block of its VFs, and the flush ends its busy time; the PF's seed changes while every partition is out of service; a way mask that overlaps a STRICT partition's, or is too small for pinned tiles, is ignored, and ways that leave are swept. -/
def Obligations.Partitions : Prop := PartitionRegisters ∧ SeedsAndWays

namespace Sys2Proof.Claims

/-! Fault reporting and invalidation (R143, R144, R151 to R157) -/

/-- The address of a ring's next slot: an SPA for the PF and the notice ring, a GPA for a VF (R153). -/
def ringSlotAddr (s : State) (ring : Nat) : Nat := bits (s.ringReg ring 0) 51 12 * 4096 + 32 * (s.ringReg ring 1 % 2 ^ s.ringLog ring)

/-- Where the next record of a ring goes: an SPA for the PF and the notice ring, and a GPA through the nested TLB for a VF (R153). -/
def RingSlot (s : State) (ring spa : Nat) : Prop :=
  let fn := (ringPlace ring).1
  let slot := ringSlotAddr s ring
  spaHere spa = true ∧ (fn = Config.pf → spa = slot) ∧ (fn ≠ Config.pf → ∃ e, tlbFind s.mm.tlbN 0 fn slot = some e ∧ spa = e.spa + (slot - e.va))

/-- A record stands in a ring's next slot and HEAD has gone on; every other byte of memory, and every other register, reads as before. In a frame that no domain has adopted nothing is written (R256; the loss of the record there is the model's choice, log entry 78). -/
def RecordWritten (s t : State) (ring spa : Nat) (r : BitVec 256) : Prop :=
  (∀ a, t.memByte a = if (s.fotOf (spa / 4096)).adopted = true ∧ spa ≤ a ∧ a < spa + 32 then BitVec.ofNat 8 (r.toNat / 2 ^ (8 * (a - spa))) else s.memByte a) ∧
  t.ringReg ring 1 = (s.ringReg ring 1 + 1) % 2 ^ 32 ∧ (∀ f b o, (f, b, o) ≠ ((ringPlace ring).1, (ringPlace ring).2.1, (ringPlace ring).2.2 + 8) → b < 32 → o < 2 ^ 26 → t.reg f b o = s.reg f b o)

/-- The record a function writes next, and its ring: a terminal record before a retryable one (R157). -/
def NextRecord (s : State) (fn ring : Nat) (x : BitVec 256) : Prop :=
  (∃ r, s.nextTerm fn = some r ∧ ring = 2 * fn + 1 ∧ x = r.record) ∨ (s.nextTerm fn = none ∧ ∃ k e, s.nextMerge fn = some (k, e) ∧ ring = 2 * fn ∧ x = s.mergeRecord k e)

/-- A ring after a write of RBASE: its size and base, and STOP as given. -/
def ringSet (s : State) (ring val stop : Nat) : State :=
  let u := s.setRingReg ring 0 (bits val 4 0 + bits val 51 12 * 2 ^ 12)
  u.setRingReg ring 3 (putBits (u.ringReg ring 3) 17 17 stop)

/-- An entry of the merge table that a RESOLVE word of a function names: Posted, its own, and with the sequence the record carried (R154, R155). -/
def Names (s : State) (fn word : Nat) (e : MergeEntry) : Prop :=
  let k := bits word 9 8 * 256 + bits word 7 0
  AL.get? s.mm.merges k = some e ∧ e.posted = true ∧ e.fn = fn ∧ (Tbl.get s.mm.mergeSeq k).toNat = bits word 17 10

end Sys2Proof.Claims

/-- R153, R154, R157: the one function with a record that can be written gets the record slot, its terminal records before its retryable ones: the record stands in the ring, HEAD goes on, and the record or entry is reported; where the slot's page is no valid, resident host mapping the ring stops and keeps the record, and the PF is told; a function that has waited 4,096 record slots is served next;
a slot in which nothing can be written breaks every such wait;
a write of RBASE starts a ring of a legal size, which then takes the record it kept, and stops another. That a record for a frame no domain has adopted is lost, and that the kept record is written with no test of the resized ring, are log entries 78 and 82. -/
def Obligations.RecordsAreReported : Prop :=
  (∀ (s : State), s.writers = [] → ∃ t, exec .reportRecordWrite s = .next t ∧ t = { s with rep := { s.rep with deficit := t.rep.deficit, waitSlots := t.rep.waitSlots, promoted := t.rep.promoted } } ∧
    t.rep.waitSlots = [] ∧ t.rep.promoted = [] ∧ ∀ e, e ∈ t.rep.deficit → ∃ r, e ∈ s.rep.deficit ∧ r ∈ s.reporters ∧ e.1 = r) ∧
  (∀ (fn spa : Nat) (s : State), s.writers = [fn] →
    (∀ r, s.nextTerm fn = some r → RingSlot s (2 * fn + 1) spa → AL.has s.rep.kept (2 * fn + 1) = false →
      ∃ t, exec .reportRecordWrite s = .next t ∧ RecordWritten s t (2 * fn + 1) spa r.record ∧ t.rep.term = dropTerm fn s.rep.term ∧ t.mm.merges = s.mm.merges) ∧
    (∀ k e, s.nextTerm fn = none → s.nextMerge fn = some (k, e) → RingSlot s (2 * fn) spa →
      ∃ t, exec .reportRecordWrite s = .next t ∧ RecordWritten s t (2 * fn) spa (s.mergeRecord k e) ∧ AL.get? t.mm.merges k = some { e with posted := true } ∧
        (∀ j, j ≠ k → AL.get? t.mm.merges j = AL.get? s.mm.merges j) ∧ t.rep.term = s.rep.term) ∧
    (∀ ring x, NextRecord s fn ring x → fn < 1024 → AL.has s.rep.kept ring = false →
      (∀ (p : Report) a w e c n d, (State.hostT { s with rep := p } 0 fn (ringSlotAddr s ring)).1 ≠ .ok a w e c n d) →
      ∃ t, exec .reportRecordWrite s = .next t ∧ t.ringStopped ring = true ∧ AL.get? t.rep.kept ring = some x ∧ (∃ y, y ∈ t.rep.term ∧ y.fn = Config.pf) ∧ (ErrorFree s → t.mm.merges = s.mm.merges))) ∧
  (∀ (fn n : Nat) (s : State), AL.get? s.rep.waitSlots fn = some n →
    (n < 4096 ∨ fn ∈ s.rep.promoted → exec (.reportFnPromote fn) s = .next s) ∧
    (4096 ≤ n → fn ∉ s.rep.promoted → exec (.reportFnPromote fn) s = .next { s with rep := { s.rep with promoted := insSorted fn s.rep.promoted } })) ∧
  ∀ (ring val : Nat) (s : State), ring ≤ 2050 →
    let at_ := ringPlace ring
    (s.blkActive at_.1 at_.2.1 = false → exec (.ringRbaseWrite ring val) s = .next s) ∧
    (s.blkActive at_.1 at_.2.1 = true → (6 ≤ bits val 4 0 → bits val 4 0 ≤ 16 → AL.get? s.rep.kept ring = none ∧ (ring = 2050 → s.rep.notices = [])) →
      ∃ t, exec (.ringRbaseWrite ring val) s = .next t ∧ t.ringReg ring 0 = bits val 4 0 + bits val 51 12 * 2 ^ 12 ∧
        t.ringStopped ring = !(decide (6 ≤ bits val 4 0) && decide (bits val 4 0 ≤ 16)) ∧ t = { s with regs := t.regs }) ∧
    (s.blkActive at_.1 at_.2.1 = true → 6 ≤ bits val 4 0 → bits val 4 0 ≤ 16 →
      let u := ringSet s ring val 0
      (∀ x spa, ring ≠ 2050 → AL.get? s.rep.kept ring = some x → (AL.keys s.rep.kept).Nodup → RingSlot u ring spa → ∃ t, exec (.ringRbaseWrite ring val) s = .next t ∧ RecordWritten u t ring spa x ∧ AL.get? t.rep.kept ring = none) ∧
      ∀ x spa, ring = 2050 → s.rep.notices = [x] → u.ringOpen 2050 = true → RingSlot u 2050 spa → ∃ t, exec (.ringRbaseWrite 2050 val) s = .next t ∧ RecordWritten u t 2050 spa x ∧ t.rep.notices = [])

/-- R143, R144, R148, R149, R155: a RESOLVE that names no entry of the writer's is counted; one that does frees the entry, and a path that waits for it alone goes on, or traps ACCESS where the page is declared invalid (with the merge entry's own address, the model's choice, log entry 82);
an invalidation clears the translations it covers and completes, in order, when the accesses that used them are performed (an INVAL2 of any range takes all of the VF's combined translations and accesses, log entry 26). -/
def Obligations.ResolveAndInvalidate : Prop :=
  (∀ (fn word : Nat) (s : State),
    let blk := if fn = Config.pf then blkPfxlate else blkXlate
    let off := if fn = Config.pf then 0x50 else 0x28
    (s.blkActive fn blk = false → exec (.resolve fn word) s = .next s) ∧
    (s.blkActive fn blk = true →
      ((∀ e, ¬ Names s fn word e) → ∃ t, exec (.resolve fn word) s = .next t ∧ t.reg fn blk off = BitVec.ofNat 64 (min (2 ^ 32 - 1) ((s.reg fn blk off).toNat + 1)) ∧ t = { s with regs := t.regs }) ∧
      ∀ e, Names s fn word e → bitOf word 18 = false →
        (∀ w b es bad x, ((s.warpOf w).path b).st = .sleepPage es bad x ∨ ((s.warpOf w).path b).st = .parked es bad → bad = none) →
        let k := bits word 9 8 * 256 + bits word 7 0
        ∃ t, exec (.resolve fn word) s = .next t ∧ AL.get? t.mm.merges k = none ∧ Tbl.get t.mm.mergeSeq k = Tbl.get s.mm.mergeSeq k + 1 ∧ (∀ j, j ≠ k → AL.get? t.mm.merges j = AL.get? s.mm.merges j) ∧
          (∀ a, t.memByte a = s.memByte a) ∧
          (∀ w b, ((s.warpOf w).path b).st = .sleepPage [(k, bits word 17 10)] none false →
            ((t.warpOf w).path b).st = .ready ∧ ((t.warpOf w).path b).pc = ((s.warpOf w).path b).pc + 4) ∧
          (∀ w b, ((s.warpOf w).path b).st = .parked [(k, bits word 17 10)] none → ((t.warpOf w).path b).st = .ready ∧ ((t.warpOf w).path b).pc = ((s.warpOf w).path b).pc) ∧
          ∀ w b, (∀ es bad x, ((s.warpOf w).path b).st ≠ .sleepPage es bad x ∧ ((s.warpOf w).path b).st ≠ .parked es bad) → (t.warpOf w).path b = (s.warpOf w).path b)) ∧
  (∀ (fn word : Nat) (s : State) (e : MergeEntry) (wid : Nat) (w : Warp) (b : Bool), s.blkActive fn (if fn = Config.pf then blkPfxlate else blkXlate) = true → Names s fn word e → bitOf word 18 = true →
    let k := bits word 9 8 * 256 + bits word 7 0
    let sq := bits word 17 10
    let a := e.badPage
    e.stage2 = false → (∀ x, x ∈ s.tasks → x.2.hitCopies = none) → (AL.keys s.warps).Nodup → AL.get? s.warps wid = some w →
    (∀ x, x ∈ s.blocks → x.2.noteBad k sq a = x.2 ∧ x.2.ctxWait.contains (k, sq) = false) →
    (∀ x, x ∈ s.warps → x.1 ≠ wid → x.2.pathA.noteBad k sq a = x.2.pathA ∧ x.2.pathB.noteBad k sq a = x.2.pathB) → (w.path !b).noteBad k sq a = w.path !b →
    ∀ st, (∃ again, (w.path b).st = .sleepPage [(k, sq)] none again ∧ st = .sleepPage [(k, sq)] (some a) again) ∨ ((w.path b).st = .parked [(k, sq)] none ∧ st = .parked [(k, sq)] (some a)) →
      let pc := (w.path b).pc
      exec (.resolve fn word) s = .next ((State.freeMerge { s with warps := AL.put s.warps wid (w.setPath b { w.path b with st := st }) } k).trapAt wid b tcAccess pc pc (BitVec.ofNat 57 e.addr) ⟨2, e.level, 0, false, none, none⟩)) ∧
  (∀ (vf word : Nat) (s : State),
    (s.blkActive vf blkXlate = false ∨ invalRange word = none → exec (.inval vf word) s = .next s) ∧
    (s.blkActive Config.pf blkPfxlate = false ∨ invalRange word = none → exec (.inval2 vf word) s = .next s) ∧
    ∀ r, invalRange word = some r →
      (s.blkActive vf blkXlate = true → ∃ t, exec (.inval vf word) s = .next t ∧ (∀ e, e ∈ t.mm.tlb1 → e.covered vf r = false) ∧ (∀ e, e ∈ t.mm.tlb2 → e.covered vf r = false) ∧
        (∀ e, e ∈ s.mm.tlb1 → e.covered vf r = false → e ∈ t.mm.tlb1) ∧ (∃ i, t.mm.invals = s.mm.invals ++ [i] ∧ i.vf = vf ∧ i.stage2 = false ∧ ∀ q, q ∈ s.mm.reqs → q.vf = vf → inRange r q.va = true → q.id ∈ i.reqs) ∧
        t = { s with mm := { s.mm with tlb1 := t.mm.tlb1, tlb2 := t.mm.tlb2, tlbN := t.mm.tlbN, invals := t.mm.invals } }) ∧
      (s.blkActive Config.pf blkPfxlate = true → ∃ t, exec (.inval2 vf word) s = .next t ∧ (∀ e, e ∈ t.mm.tlb1 → e.vf ≠ vf) ∧ (∀ e, e ∈ t.mm.tlbN → e.covered vf r = false) ∧
        (∀ e, e ∈ s.mm.tlbN → e.covered vf r = false → e ∈ t.mm.tlbN) ∧ (∃ i, t.mm.invals = s.mm.invals ++ [i] ∧ i.vf = vf ∧ i.stage2 = true ∧ ∀ q, q ∈ s.mm.reqs → q.vf = vf → q.id ∈ i.reqs) ∧
        t = { s with mm := { s.mm with tlb1 := t.mm.tlb1, tlb2 := t.mm.tlb2, tlbN := t.mm.tlbN, invals := t.mm.invals } })) ∧
  (∀ (vf stage : Nat) (s : State), (∀ i, i ∈ s.mm.invals → i.vf ≠ vf) → exec (.invalidationComplete vf stage) s = .next s) ∧
  ∀ (vf : Nat) (s : State) (i : Inval) (pre post : List Inval), s.mm.invals = pre ++ i :: post → i.vf = vf → (∀ j, j ∈ pre → j.vf ≠ vf) →
    (exec (.invalidationComplete vf (if i.stage2 then 1 else 2)) s = .next s) ∧
    (s.reqsDone i.reqs = false ∨ s.matsDone i.mats = false → exec (.invalidationComplete vf 1) s = .next s ∧ exec (.invalidationComplete vf 2) s = .next s) ∧
    (s.reqsDone i.reqs = true → s.matsDone i.mats = true →
      (i.stage2 = false → ∃ t, exec (.invalidationComplete vf 1) s = .next t ∧ t.mm.invals = pre ++ post ∧ (t.reg vf blkXlate 0x10).toNat = ((s.reg vf blkXlate 0x10).toNat + 1) % 2 ^ 64 % 2 ^ 32 ∧
        t = { s with regs := t.regs, mm := { s.mm with invals := pre ++ post } }) ∧
      (i.stage2 = true → ∃ t, exec (.invalidationComplete vf 2) s = .next t ∧ t.mm.invals = pre ++ post ∧
        (t.reg Config.pf blkPfxlate (0x10010 + 0x20 * vf)).toNat = ((s.reg Config.pf blkPfxlate (0x10010 + 0x20 * vf)).toNat + 1) % 2 ^ 64 % 2 ^ 32 ∧ t = { s with regs := t.regs, mm := { s.mm with invals := pre ++ post } }))

namespace Sys2Proof.Claims

/-! Keys and the driver copy path (R248, R249, R252, R256 to R258, R316) -/

/-- The key commands: the word written, and the operation number (R258). -/
def keyForm : Instr → Option (Nat × Nat)
  | .keyAdopt w => some (w, 1)
  | .keyWcreate w => some (w, 2)
  | .keyWdestroy w => some (w, 3)
  | .keyTreecfg w => some (w, 4)
  | _ => none

/-- The status of the key block: CODE, SEQ and BUSY (R258). -/
def KeyStatus (t : State) (code seq busy : Nat) : Prop :=
  t.regBits Config.pf blkKey 0x18 7 0 = code ∧ t.regBits Config.pf blkKey 0x18 23 8 = seq % 2 ^ 16 ∧ t.regBits Config.pf blkKey 0x18 24 24 = busy

/-- The status of a function's driver copy block: CODE, SEQ and BUSY (R316). -/
def CopyStatus (t : State) (fn code seq busy : Nat) : Prop :=
  t.regBits fn blkDcopy 0x20 7 0 = code ∧ t.regBits fn blkDcopy 0x20 23 8 = seq % 2 ^ 16 ∧ t.regBits fn blkDcopy 0x20 24 24 = busy

/-- A range of device memory of one owner whose pages are not exhausted (R253, R316). -/
def DeviceRange (s : State) (a n : Nat) (own : Option Nat) : Prop := s.dcopyOwner a n = own ∧ own.isSome = true ∧ (∀ f, f ∈ pageSpan a n → s.pageExhausted f = false)

/-- A transfer that has not begun. -/
def DcopyXfer.Unbegun (x : DcopyXfer) : Prop := x.pos = 0 ∧ x.pages = [] ∧ x.far = none ∧ x.stop = none

/-- No line of a range is cached for another domain (R256). -/
def OwnLines (s : State) (a n : Nat) (own : Option Nat) : Prop := ∀ e, e ∈ s.mm.l2dom → e.1 < a / 256 ∨ (a + n - 1) / 256 < e.1 ∨ some e.2 = own

end Sys2Proof.Claims

/-- R249, R252, R256 to R258: a key command starts unless one is in progress, which is code 1; it takes the first code that applies and has its effect when that is 0: a domain made or destroyed, a tree set, or a frame locked and unmapped; after its drains ADOPT gives the frame, zeroed, to its owner;
the end of a command shows CODE and counts SEQ. That WDESTROY forgets the domain's tree is log entry 60. -/
def Obligations.KeyCommands : Prop :=
  (∀ (i : Instr) (word op : Nat) (s : State), keyForm i = some (word, op) →
    let seq := s.regBits Config.pf blkKey 0x18 23 8
    let dom := bits word 18 8
    let frame := s.regBits Config.pf blkKey 8 51 12
    let slot := s.regBits Config.pf blkKey 0x10 29 0
    let depth := s.regBits Config.pf blkKey 0x10 33 30
    let code := s.keyCode op dom (bits word 63 19) frame slot depth
    (s.blkActive Config.pf blkKey = false → exec i s = .next s) ∧
    (s.blkActive Config.pf blkKey = true → s.regBits Config.pf blkKey 0x18 24 24 = 1 → ∃ t, exec i s = .next t ∧ KeyStatus t 1 (seq + 1) 1 ∧ t = { s with regs := t.regs }) ∧
    (s.blkActive Config.pf blkKey = true → s.regBits Config.pf blkKey 0x18 24 24 = 0 →
      ∃ t c, exec i s = .next t ∧ KeyStatus t (s.regBits Config.pf blkKey 0x18 7 0) seq 1 ∧ t.keys.cmd = some c ∧ c.op = op ∧ c.dom = dom ∧ c.frame = frame ∧ c.slot = slot ∧ c.code = code ∧
        t = { s with regs := t.regs, keys := t.keys, mm := { s.mm with tlb1 := t.mm.tlb1, tlb2 := t.mm.tlb2, tlbN := t.mm.tlbN, ctrCache := t.mm.ctrCache } } ∧
        (code ≠ 0 → c.ready = true ∧ t.keys = { s.keys with cmd := some c } ∧ t.mm = s.mm) ∧
        (code = 0 → op = 1 → c.ready = false ∧ (AL.get? t.keys.fot frame).map (·.adopted) = some false ∧ (AL.get? t.keys.fot frame).map (·.owner) = some (s.fotOf frame).owner ∧
          (∀ e, e ∈ t.mm.tlb1 ∨ e ∈ t.mm.tlb2 ∨ e ∈ t.mm.tlbN → ¬ (e.spa ≤ frame * 4096 ∧ frame * 4096 < e.spa + e.size))) ∧
        (code = 0 → op = 2 → c.ready = true ∧ AL.get? t.keys.doms dom = some s.keys.draws ∧ t.keys.draws = s.keys.draws + 1 ∧ (∀ d, d ≠ dom → AL.get? t.keys.doms d = AL.get? s.keys.doms d) ∧ t.keys.fot = s.keys.fot) ∧
        (code = 0 → op = 3 → c.ready = true ∧ AL.get? t.keys.doms dom = none ∧ AL.get? t.keys.trees dom = none ∧ (∀ d, d ≠ dom → AL.get? t.keys.doms d = AL.get? s.keys.doms d) ∧ t.keys.fot = s.keys.fot) ∧
        (code = 0 → op = 4 → c.ready = true ∧ AL.get? t.keys.trees dom = some (depth, frame * 4096) ∧ (∀ d, d ≠ dom → AL.get? t.keys.trees d = AL.get? s.keys.trees d) ∧ t.keys.doms = s.keys.doms ∧ t.keys.fot = s.keys.fot))) ∧
  (∀ (s : State), s.adoptReady = none → exec .adoptDrainDone s = .next s) ∧
  (∀ (s : State) (c : KeyCmd), s.adoptReady = some c → ∃ t, exec .adoptDrainDone s = .next t ∧ (∀ a, a / 4096 = c.frame → t.memByte a = 0 ∧ t.tagAt a = 0) ∧
    AL.get? t.keys.fot c.frame = some ⟨c.dom, true, some c.slot⟩ ∧ t.keys.cmd = some { c with ready := true } ∧ (∀ e, e ∈ t.mm.l1 → e.1 % 2 ^ 44 / 16 ≠ c.frame) ∧ (∀ e, e ∈ t.mm.l2dom → e.1 / 16 ≠ c.frame)) ∧
  (∀ (s : State) (c : KeyCmd), s.adoptReady = some c → (∀ b e, b ∈ s.blocks → e ∈ b.2.set.bytes → e.1 / 4096 ≠ c.frame) →
    ∃ t, exec .adoptDrainDone s = .next t ∧ (∀ a, t.memByte a = if a / 4096 = c.frame then 0 else s.memByte a) ∧ (∀ k, Tbl.get t.mm.tags k = if k / 64 = c.frame then 0 else Tbl.get s.mm.tags k) ∧
      AL.get? t.keys.fot c.frame = some ⟨c.dom, true, some c.slot⟩ ∧ (∀ f, f ≠ c.frame → AL.get? t.keys.fot f = AL.get? s.keys.fot f) ∧ t.keys.cmd = some { c with ready := true } ∧
      (t.ctrOf c.dom c.slot).major = (s.ctrOf c.dom c.slot).major + 1 ∧ (t.ctrOf c.dom c.slot).minors = [] ∧ (∀ e, e ∈ t.mm.l1 → e.1 % 2 ^ 44 / 16 ≠ c.frame) ∧ t.warps = s.warps ∧ t.blocks = s.blocks ∧ t.regs = s.regs) ∧
  ∀ (s : State), (s.keys.cmd = none ∨ (∃ c, s.keys.cmd = some c ∧ c.ready = false) → exec .keyCommandDone s = .next s) ∧
    ∀ c, s.keys.cmd = some c → c.ready = true → c.code < 256 → ∃ t, exec .keyCommandDone s = .next t ∧ KeyStatus t c.code (s.regBits Config.pf blkKey 0x18 23 8 + 1) 0 ∧ t = { s with regs := t.regs, keys := { s.keys with cmd := none } }

/-- R316: GO queues the transfer that the copy block's registers and the word describe, or is code 1 while one is in progress; at its end the PF's transfer has moved its bytes, and its tags, between host memory and device memory or inside device memory, and the status shows CODE, SEQ and BUSY;
unsound arguments end it with code 2, a page of a VF that is invalid or not resident with code 3 or 4, frames of another owner with code 5, an exhausted page with code 6; a transfer waits for lines with held versions; one that meets another package's page asks that package for its next 64 bytes and goes on from there, and ends with the code that a refusal gives it (R250).
What GO while busy counts, and what the registers show of DONE on a good end, are log entry 57; the codes of a refusal are log entry 39. -/
def Obligations.DriverCopies : Prop :=
  (∀ (fn word : Nat) (s : State),
    let seq := s.regBits fn blkDcopy 0x20 23 8
    (s.blkActive fn blkDcopy = false → exec (.dcopyGo fn word) s = .next s) ∧
    (s.blkActive fn blkDcopy = true → s.regBits fn blkDcopy 0x20 24 24 = 1 → ∃ t, exec (.dcopyGo fn word) s = .next t ∧ CopyStatus t fn 1 seq 1 ∧ t = { s with regs := t.regs }) ∧
    (s.blkActive fn blkDcopy = true → s.regBits fn blkDcopy 0x20 24 24 = 0 → ∃ t, exec (.dcopyGo fn word) s = .next t ∧ CopyStatus t fn (s.regBits fn blkDcopy 0x20 7 0) seq 1 ∧
      t.dcopy = s.dcopy ++ [⟨fn, s.regBits fn blkDcopy 0 63 6 * 64, s.regBits fn blkDcopy 8 51 6 * 64, s.regBits fn blkDcopy 0x10 51 6 * 64, bits word 24 0, bits word 26 25, bits word 30 27, 0, [], none, none⟩] ∧
      t = { s with regs := t.regs, dcopy := t.dcopy })) ∧
  (∀ (fn : Nat) (s : State), s.dcopyNext fn = none → exec (.dcopyDone fn) s = .next s) ∧
  ∀ (s : State) (x : DcopyXfer) (pre post : List DcopyXfer), s.dcopy = pre ++ x :: post → (∀ y, y ∈ pre → y.fn ≠ x.fn) →
   (x.far ≠ none → exec (.dcopyDone x.fn) s = .next s) ∧
   (x.stop = none → s.dcopyFree x = false → exec (.dcopyDone x.fn) s = .next s) ∧
   (∀ c, x.far = none → x.stop = some c → 0 < c → c < 256 → x.pos < 2 ^ 24 → ∃ t, exec (.dcopyDone x.fn) s = .next t ∧ CopyStatus t x.fn c (s.regBits x.fn blkDcopy 0x20 23 8 + 1) 0 ∧
     t.regBits x.fn blkDcopy 0x20 55 32 = x.pos ∧ t = { s with regs := t.regs, dcopy := pre ++ post }) ∧
   (DcopyXfer.Unbegun x → s.dcopyFree x = true →
    let seq := s.regBits x.fn blkDcopy 0x20 23 8
    (x.bad = true → ∃ t, exec (.dcopyDone x.fn) s = .next t ∧ CopyStatus t x.fn 2 (seq + 1) 0 ∧ t = { s with regs := t.regs, dcopy := pre ++ post }) ∧
    (x.bad = false → x.fn = Config.pf → (x.dir ≠ 2 ∧ s.dcopyOwner x.daddr x.len ≠ some Config.pfDomain) ∨ (x.dir = 2 ∧ (s.dcopyOwner x.daddr x.len = none ∨ s.dcopyOwner x.daddr x.len ≠ s.dcopyOwner x.daddr2 x.len)) →
      ∃ t, exec (.dcopyDone x.fn) s = .next t ∧ CopyStatus t x.fn 5 (seq + 1) 0 ∧ t = { s with regs := t.regs, dcopy := pre ++ post }) ∧
    (x.bad = false → x.fn ≠ Config.pf → x.daddr / 4096 = (x.daddr + x.len - 1) / 4096 → x.daddr % 64 = 0 →
      let ga := x.daddr / 4096 * 4096
      let at_ := s.hostT 0 x.fn ga
      ((∃ b k a, at_.1 = .invalid b k a) ∨ (x.dir = 0 ∧ ∃ a e c n d, at_.1 = .ok a false e c n d) → ∃ t, exec (.dcopyDone x.fn) s = .next t ∧ CopyStatus t x.fn 3 (seq + 1) 0 ∧ t.dcopy = pre ++ post ∧ t.host = s.host) ∧
      ((∃ b k a g p, at_.1 = .nonres b k a g p) → ∃ t, exec (.dcopyDone x.fn) s = .next t ∧ CopyStatus t x.fn 4 (seq + 1) 0 ∧ t.dcopy = pre ++ post ∧ t.host = s.host) ∧
      ∀ e, tlbFind s.mm.tlbN 0 x.fn ga = some e → e.size ≠ 0 →
        let spa := e.spa + (ga - e.va)
        let own := (s.fotOf (spa / 4096)).owner
        let first := spa + x.daddr % 4096
        (spaHere first = false → (x.dir = 0 → e.w = true) → ∃ t r, exec (.dcopyDone x.fn) s = .next t ∧ t.mm.reqs = s.mm.reqs ++ [r] ∧ r.eng = some (.dcopy x.fn) ∧ r.line = first / 256 ∧ r.vf = x.fn ∧
          r.kind = (if x.dir = 0 then 1 else 0) ∧ (x.dir = 0 → r.tagset = true ∧ r.tag = x.tag) ∧ r.lanes.length = 4 ∧ r.width = 16 ∧
          (∀ l, l ∈ r.lanes → ∃ j, j < 4 ∧ l.2.1 = first % 256 + 16 * j ∧ (x.dir = 0 → ∀ k, k < 16 → l.2.2.1.toNat / 2 ^ (8 * k) % 256 = (Tbl.get s.host (x.haddr + 16 * j + k)).toNat)) ∧
          t.dcopy = pre ++ { x with pages := [(ga / 4096, spa)], far := some r.id } :: post ∧ t.regs = s.regs ∧ t.host = s.host ∧ ∀ a, t.memByte a = s.memByte a) ∧
        (spa % 4096 = 0 → spaHere spa = true → s.pageExhausted (spa / 4096) = false → OwnLines s first x.len (some own) →
         x.dir = 0 → e.w = true → ∃ t, exec (.dcopyDone x.fn) s = .next t ∧ CopyStatus t x.fn 0 (seq + 1) 0 ∧ t.dcopy = pre ++ post ∧ t.host = s.host ∧
          ∀ a, t.memByte a = if first ≤ a ∧ a < first + x.len then Tbl.get s.host (x.haddr + (a - first)) else s.memByte a) ∧
        (spa % 4096 = 0 → spaHere spa = true → s.pageExhausted (spa / 4096) = false → OwnLines s first x.len (some own) → x.dir = 1 → CleanRange s first x.len → ∃ t, exec (.dcopyDone x.fn) s = .next t ∧ CopyStatus t x.fn 0 (seq + 1) 0 ∧ t.dcopy = pre ++ post ∧
          (∀ a, Tbl.get t.host a = if x.haddr ≤ a ∧ a < x.haddr + x.len then s.memByte (first + (a - x.haddr)) else Tbl.get s.host a) ∧ ∀ a, t.memByte a = s.memByte a)) ∧
    (x.bad = false → x.fn = Config.pf → x.daddr % 64 = 0 → x.daddr2 % 64 = 0 →
      (x.dir = 0 → s.dcopyOwner x.daddr x.len = some Config.pfDomain → s.pageExhausted (x.daddr / 4096) = true → ∃ t, exec (.dcopyDone x.fn) s = .next t ∧ CopyStatus t x.fn 6 (seq + 1) 0 ∧
        t.regBits x.fn blkDcopy 0x20 55 32 = 0 ∧ t = { s with regs := t.regs, dcopy := pre ++ post }) ∧
      (x.dir = 0 → DeviceRange s x.daddr x.len (some Config.pfDomain) → OwnLines s x.daddr x.len (some Config.pfDomain) → ∃ t, exec (.dcopyDone x.fn) s = .next t ∧ CopyStatus t x.fn 0 (seq + 1) 0 ∧ t.dcopy = pre ++ post ∧ t.host = s.host ∧
        (∀ a, t.memByte a = if x.daddr ≤ a ∧ a < x.daddr + x.len then Tbl.get s.host (x.haddr + (a - x.daddr)) else s.memByte a) ∧
        ∀ a, x.daddr ≤ a → a < x.daddr + x.len → t.tagAt a = x.tag % 16) ∧
      (x.dir = 1 → DeviceRange s x.daddr x.len (some Config.pfDomain) → OwnLines s x.daddr x.len (some Config.pfDomain) → CleanRange s x.daddr x.len → ∃ t, exec (.dcopyDone x.fn) s = .next t ∧ CopyStatus t x.fn 0 (seq + 1) 0 ∧ t.dcopy = pre ++ post ∧
        (∀ a, Tbl.get t.host a = if x.haddr ≤ a ∧ a < x.haddr + x.len then s.memByte (x.daddr + (a - x.haddr)) else Tbl.get s.host a) ∧ ∀ a, t.memByte a = s.memByte a) ∧
      (∀ own, x.dir = 2 → DeviceRange s x.daddr x.len own → DeviceRange s x.daddr2 x.len own → OwnLines s x.daddr x.len own → OwnLines s x.daddr2 x.len own → CleanRange s x.daddr x.len → x.daddr + x.len ≤ x.daddr2 ∨ x.daddr2 + x.len ≤ x.daddr → s.jig.regions = [] →
        ∃ t, exec (.dcopyDone x.fn) s = .next t ∧ CopyStatus t x.fn 0 (seq + 1) 0 ∧ t.dcopy = pre ++ post ∧ t.host = s.host ∧
          (∀ a, t.memByte a = if x.daddr2 ≤ a ∧ a < x.daddr2 + x.len then s.memByte (x.daddr + (a - x.daddr2)) else s.memByte a) ∧
          ∀ a, x.daddr2 ≤ a → a < x.daddr2 + x.len → t.tagAt a = s.tagAt (x.daddr + (a - x.daddr2)))))

namespace Sys2Proof.Claims

/-! The scale-up fabric (R166, R180, R305 to R313) -/

/-- A word of the active copy of fabric table t: a route entry, or a key from 0x8000 on. -/
def fabWord (s : State) (t i : Nat) : Nat := (Tbl.get s.fab.active (t * 2 ^ 16 + i)).toNat

/-- A notice is queued while the notice ring takes none (R153, R313). -/
def withNotice (s : State) (typ port pkg detail : Nat) : Report := { s.rep with notices := s.rep.notices ++ [s.noticeRec typ port pkg 0 0 0 detail] }

/-- A flit is put on a port that is up, or held there with its clock. Either way the table that routed it is noted with it. -/
def FlitPut (s t : State) (table port : Nat) (f : Flit) : Prop :=
  (s.portUp port = true → t.fab = { s.fab with sent := s.fab.sent ++ [(table * 16 + port, f)] }) ∧
  (s.portUp port = false → t.fab = { s.fab with heldFlits := s.fab.heldFlits ++ [(s.fab.nextFlit, table * 16 + port, f, s.now)], nextFlit := s.fab.nextFlit + 1 })

/-- The ordered port of an entry (R305). -/
def ordPort (s : State) (table x : Nat) : Nat := bits (fabWord s table x) 19 16

/-- A flit leaves by a table (R305, R306, R309): of class 0 on its entry's ordered port; of the adaptive class on a candidate that is up, or as a flit of class 0 on the ordered port; without a valid entry it is dropped. -/
def Leaves (s t : State) (table : Nat) (f : Flit) : Prop :=
  let ord := ordPort s table f.dest
  let cand (k : Nat) : Prop := k < 16 ∧ bitOf (fabWord s table f.dest) k = true ∧ s.portUp k = true
  (bitOf (fabWord s table f.dest) 20 = false → t.fab = s.fab) ∧
  (bitOf (fabWord s table f.dest) 20 = true →
    (adaptiveFlit f = false ∨ (∀ k, ¬ cand k) → FlitPut s t table ord f) ∧
    (adaptiveFlit f = true → (∃ k, cand k) → (∃ k, cand k ∧ FlitPut s t table k f) ∨ (s.portUp ord = true ∧ FlitPut s t table ord { f with chan := f.chan - 2 })))

/-- A package is shown HELD (R308). -/
def heldShown (s : State) (x : Nat) : Bool := s.regBits Config.pf blkFabric (fabOff 16 + 0x9400 + x / 64 * 8) (x % 64) (x % 64) == 1

/-- A timestamp a warp holds. -/
def warpPts (s : State) (wid d : Nat) : BitVec 40 := Tbl.get (s.warpOf wid).pts d

/-- An answer goes back to a request's source, with a code where the sectors it would read fail their check. -/
def AnswerSent (s t : State) (f : Flit) (bytes : List Nat) (time code : Nat) : Prop :=
  Leaves s t 16 ⟨s.pkgid, f.src, 0, if adaptiveFlit f then 3 else 1, f.addr, bytes, time, f.reqId, code, none⟩

/-- The byte that a store of another package leaves at an address, if it writes there: of two that one flit names, the later. -/
def flitByte (f : Flit) (a : Nat) : Option Nat := ((flitStored f).reverse.find? fun e => f.addr / 256 * 256 + e.1 == a).map (·.2)

/-- The lanes of an atomic of another package: lane, offset in the line, operand, comparand. -/
def farLanes (a : FlitAcc) : List (Nat × Nat × Rec × Rec) := a.lanes.map fun l => (l.1, l.2.1, BitVec.ofNat 128 l.2.2.1, BitVec.ofNat 128 l.2.2.2)

/-- Old values of an atomic of another package, and the bytes of the line after its lanes in ascending order (R125, R173). -/
def farOutcome (s : State) (line : Nat) (a : FlitAcc) : AL Rec × AL Nat :=
  atomLanes a.op a.et a.width ((sortNub ((farLanes a).flatMap fun l => (List.range a.width).map fun i => l.2.1 + i)).map fun o => (o, (s.memByte (line * 256 + o)).toNat)) (farLanes a)

/-- An SPA lies in a window domain's frame of this package (R250). -/
def windowHere (s : State) (a : Nat) : Bool := spaHere a && (s.fotOf (a / 4096)).adopted && decide (1024 ≤ (s.fotOf (a / 4096)).owner) && decide ((s.fotOf (a / 4096)).owner < 1280)

/-- A refusal goes back to a request's source (R309). -/
def RefusalSent (s t : State) (f : Flit) (cause : Nat) : Prop :=
  AnswerSent s t f [] 0 cause

/-- The trap of an access that another package turns away (R309, R311), or whose sectors fail their check there (R254, R255). -/
def turnedAway (cause : Nat) (write : Bool) : Nat × TermInfo := if cause < 16 then (tcAccess, ⟨cause, 0, 0, write, none, none⟩) else (cause, .error cause write)

/-- What AUX of a stopped copy shows of it (R212). -/
def turnedAux (cause : Nat) : Nat := if cause < 16 then cause - 1 else if cause = tcUncorr then 0 else 4

/-- A flit that stood on a link stands on one again, or is held at a port. -/
def StillCarried (t : State) (f : Flit) : Prop :=
  ∃ g, (g = f ∨ (adaptiveFlit f = true ∧ g = { f with chan := f.chan - 2 })) ∧ ((∃ k, (k, g) ∈ t.fab.sent) ∨ ∃ id k n, (id, k, g, n) ∈ t.fab.heldFlits)

end Sys2Proof.Claims

/-- R305, R307, R308: GO starts a commit unless one is in progress; its end makes the shadow of that table's routes or keys active, all at once and no other word of a table;
HOLD takes the words of the mask, and HELD shows a held package when no class-0 access to it is unacknowledged. -/
def Obligations.FabricTables : Prop :=
  (∀ (word : Nat) (s : State),
    (s.blkActive Config.pf blkFabric = false → exec (.fabricCommit word) s = .next s) ∧
    (s.blkActive Config.pf blkFabric = true → ∃ t, exec (.fabricCommit word) s = .next t ∧ t.regBits Config.pf blkFabric 0x18 5 0 = bits word 5 0 ∧
      t = { s with regs := t.regs, fab := t.fab } ∧
      (∀ c, s.fab.commit = some c → t.fab = s.fab) ∧
      (s.fab.commit = none → t.regBits Config.pf blkFabric 0x18 7 7 = 1 ∧ t.fab = { s.fab with commit := some (bits word 4 0, bitOf word 5, s.now) }))) ∧
  (∀ (table : Nat) (s : State), (∀ c, s.fab.commit = some c → c.1 ≠ table) → exec (.fabricCommitDone table) s = .next s) ∧
  (∀ (table t0 : Nat) (keys : Bool) (s : State), s.fab.commit = some (table, keys, t0) → 16 < table ∨ (keys = true ∧ table = 16) →
    ∃ t, exec (.fabricCommitDone table) s = .next t ∧ t.regBits Config.pf blkFabric 0x18 7 7 = 0 ∧ t = { s with regs := t.regs, fab := { s.fab with commit := none } }) ∧
  (∀ (table t0 : Nat) (keys : Bool) (s : State), s.fab.commit = some (table, keys, t0) → (AL.keys s.regs).Nodup → table ≤ 16 → (keys = true → table < 16) →
    ∃ t, exec (.fabricCommitDone table) s = .next t ∧ t.fab.commit = none ∧
      (keys = false → (∀ x, x < 8192 → fabWord t table x = (s.reg Config.pf blkFabric (fabOff table + 4 * x)).toNat % 2 ^ 32) ∧
        ∀ u x, x < 2 ^ 16 → ¬ (u = table ∧ x < 8192) → fabWord t u x = fabWord s u x) ∧
      (keys = true → (∀ x, x < 64 → fabWord t table (0x8000 + x) = (s.reg Config.pf blkFabric (fabOff table + 0x8000 + 2 * x)).toNat % 2 ^ 32) ∧
        ∀ u x, x < 2 ^ 16 → ¬ (u = table ∧ 0x8000 ≤ x ∧ x < 0x8040) → fabWord t u x = fabWord s u x) ∧
      (s.fab.heldFlits = [] → t.regBits Config.pf blkFabric 0x18 7 7 = 0 ∧ t = { s with regs := t.regs, fab := { s.fab with commit := none, active := t.fab.active } })) ∧
  (∀ (mask : Nat) (s : State),
    (s.blkActive Config.pf blkFabric = false → exec (.fabricHoldWrite mask) s = .next s) ∧
    (s.blkActive Config.pf blkFabric = true → ∃ t, exec (.fabricHoldWrite mask) s = .next t ∧ t = { s with regs := t.regs } ∧ ∀ x, x < 2 ^ 13 → t.holdBit x = bitOf mask x)) ∧
  ∀ (pkg : Nat) (s : State),
    (s.holdBit pkg = false ∨ heldShown s pkg = true ∨ (∃ r, r ∈ s.mm.reqs ∧ spaRemote (r.line * 256) = true ∧ linePkg r.line = pkg ∧ r.stage = 4 ∧ r.adaptive = false) →
      exec (.fabricHeld pkg) s = .next s) ∧
    (s.holdBit pkg = true → heldShown s pkg = false → (∀ r, r ∈ s.mm.reqs → spaRemote (r.line * 256) = true → linePkg r.line = pkg → r.stage = 4 → r.adaptive = true) →
      ∃ t, exec (.fabricHeld pkg) s = .next t ∧ heldShown t pkg = true ∧ t = { s with regs := t.regs })

/-- R306, R309, R310, R311: a flit is taken at a port that is up: a request whose key the port does not hold is counted and refused, a flit for this package is delivered by its channel, and any other leaves by the entry of the port's table, or is dropped, counted and refused where that is not valid; a message about a lost link is delivered wherever it arrives;
a refusal and a hold limit that has passed end the access they name; the order point takes and grants tickets in arrival order, and a grant completes its fence.
That a failing window check is counted and refused as a missing key is log entry 58; what an engine's refused access shows, and that a read which fails its check at its home is answered with the code of the trap, are log entry 39. -/
def Obligations.FabricPackets : Prop :=
  (∀ (port : Nat) (f : Flit) (s : State), 16 ≤ port ∨ s.portUp port = false ∨ s.pv = false → exec (.flitArrive port f) s = .next s) ∧
  (∀ (port : Nat) (f : Flit) (s : State), port < 16 → s.portUp port = true → s.pv = true →
    (requestFlit f = true → (f.key = 0 ∨ ∀ x, x < 64 → fabWord s port (0x8000 + x) ≠ f.key) → ∃ t, exec (.flitArrive port f) s = .next t ∧ RefusalSent s t f 6 ∧
      (t.reg Config.pf blkFabric (fabOff port + 0x8108)).toNat % 2 ^ 32 = min (2 ^ 32 - 1) ((s.reg Config.pf blkFabric (fabOff port + 0x8108)).toNat % 2 ^ 32 + 1) ∧
      t = { s with regs := t.regs, fab := t.fab, free := t.free }) ∧
    (requestFlit f = false ∨ (f.key ≠ 0 ∧ ∃ x, x < 64 ∧ fabWord s port (0x8000 + x) = f.key) →
      let d := { s with fab := { s.fab with delivered := s.fab.delivered ++ [f] } }
      (f.dest ≠ s.pkgid → f.chan ≠ 6 → bitOf (fabWord s port f.dest) 20 = true →
        ∃ t, exec (.flitArrive port f) s = .next t ∧ Leaves s t port f ∧ t = { s with fab := t.fab, free := t.free }) ∧
      (f.chan = 6 → exec (.flitArrive port f) s = .next { d with agenda := s.agenda ++ [.neighbourNotice port f.src] }) ∧
      (f.dest ≠ s.pkgid → f.chan ≠ 6 → bitOf (fabWord s port f.dest) 20 = false →
        ∃ t, exec (.flitArrive port f) s = .next t ∧ (requestFlit f = true → RefusalSent s t f 7) ∧ (requestFlit f = false → t.fab = s.fab) ∧
          (t.reg Config.pf blkFabric (fabOff port + 0x8108)).toNat / 2 ^ 32 = min (2 ^ 32 - 1) ((s.reg Config.pf blkFabric (fabOff port + 0x8108)).toNat / 2 ^ 32 + 1) ∧
          t = { s with regs := t.regs, fab := t.fab, free := t.free }) ∧
      (f.dest = s.pkgid →
        (f.chan = 0 ∨ f.chan = 2 → windowHere s f.addr = false → ∃ t, exec (.flitArrive port f) s = .next t ∧ RefusalSent d t f 6 ∧
          (t.reg Config.pf blkFabric (fabOff port + 0x8108)).toNat % 2 ^ 32 = min (2 ^ 32 - 1) ((s.reg Config.pf blkFabric (fabOff port + 0x8108)).toNat % 2 ^ 32 + 1) ∧ ∀ a, t.memByte a = s.memByte a) ∧
        (f.chan = 0 ∨ f.chan = 2 → windowHere s f.addr = true → s.heldAny (f.addr / 256) = true ∨ s.switchingDie (homeDie f.addr) = true ∨ s.engTurn (flitRef f) (f.addr / 256) = false →
          ∃ t, exec (.flitArrive port f) s = .next t ∧ t.fab = { d.fab with inbox := s.fab.inbox ++ [(port, f)] } ∧ t = { d with fab := t.fab, mm := { s.mm with places := t.mm.places }, nextId := t.nextId }) ∧
        (f.chan = 0 ∨ f.chan = 2 → windowHere s f.addr = true → s.heldAny (f.addr / 256) = false → s.switchingDie (homeDie f.addr) = false → s.engTurn (flitRef f) (f.addr / 256) = true →
          let line := f.addr / 256
          AL.get? s.mm.l2dom line = none ∨ AL.get? s.mm.l2dom line = some (s.fotOf (f.addr / 4096)).owner →
          (flitKind f ≠ 1 → flitKind f ≠ 2 → (∀ x, x ∈ flitReads f → CleanRange s (line * 256 + x.1) x.2) →
            ∃ t, exec (.flitArrive port f) s = .next t ∧ AnswerSent d t f (s.memBytes (line * 256) 256) (Tbl.get s.mm.wts line).toNat 0 ∧ ∀ a, t.memByte a = s.memByte a) ∧
          (∀ c, flitKind f ≠ 1 → AL.get? s.mm.l2dom line = some (s.fotOf (f.addr / 4096)).owner → (d.flitCheck f).1 = some c →
            ∃ t u, exec (.flitArrive port f) s = .next t ∧ AnswerSent u t f [] 0 c ∧ u.fab = d.fab ∧ u.blocks = s.blocks) ∧
          (flitKind f = 1 → ∃ t time, exec (.flitArrive port f) s = .next t ∧ AnswerSent d t f [] time 0 ∧ time ≤ t.gsc.toNat ∧
            (∀ tag e, flitTag f = some tag → e ∈ flitStored f → t.tagAt (line * 256 + e.1) = tag % 16) ∧
            ∀ a, t.memByte a = match flitByte f a with
              | some x => BitVec.ofNat 8 x
              | none => s.memByte a) ∧
          ∀ acc, flitKind f = 2 → f.acc = some acc → (∀ x, x ∈ flitReads f → CleanRange s (line * 256 + x.1) x.2) →
            let out := farOutcome s line acc
            ∃ t time, exec (.flitArrive port f) s = .next t ∧ AnswerSent d t f (out.1.flatMap fun o => leBytes acc.width o.2.toNat) time 0 ∧ time ≤ t.gsc.toNat ∧
              ∀ a, t.memByte a = if line * 256 ≤ a ∧ (atomWritten acc.op acc.width (farLanes acc) out.1).contains (a - line * 256) = true then BitVec.ofNat 8 (AL.getD out.2 (a - line * 256) 0) else s.memByte a) ∧
        (f.chan = 1 ∨ f.chan = 3 → f.refused = 0 → ∃ t, exec (.flitArrive port f) s = .next t ∧ t = { d with mm := { s.mm with reqs := t.mm.reqs } } ∧ t.mm.reqs.length = s.mm.reqs.length ∧
          ∀ (k : Nat) (r : LineReq), s.mm.reqs[k]? = some r → (¬ (r.id = f.reqId ∧ r.stage = 4) → t.mm.reqs[k]? = some r) ∧
            (r.id = f.reqId → r.stage = 4 → t.mm.reqs[k]? = some { r with stage := 2, sectors := 0, wts := BitVec.ofNat 40 f.pts, got := if r.kind = 0 ∧ (s.blockOf r.bid).set.bytes = [] then r.lanes.map fun l => (l.1, BitVec.ofNat 128 (leNat ((f.bytes.drop l.2.1).take r.width))) else s.farValues r f.bytes })) ∧
        (f.chan = 1 ∨ f.chan = 3 → f.refused ≠ 0 → exec (.flitArrive port f) s = .next { d with agenda := s.agenda ++ [.fabricRefusalReturn f.reqId f.refused] }) ∧
        (f.chan = 4 → exec (.flitArrive port f) s = .next { d with agenda := s.agenda ++ [.scTicketRequest f.src f.reqId] }) ∧
        (f.chan = 5 → exec (.flitArrive port f) s = .next { d with fab := { d.fab with granted := s.fab.granted ++ [f.reqId] } }) ∧
        (5 < f.chan → exec (.flitArrive port f) s = .next { d with agenda := s.agenda ++ [.neighbourNotice port f.src] })))) ∧
  (∀ (id cause : Nat) (s : State), (∀ r, r ∈ s.mm.reqs → ¬ (r.id = id ∧ r.stage = 4)) →
    (s.ticketSlow id = none → exec (.fabricRefusalReturn id cause) s = .next s) ∧
    ∀ k x, s.ticketSlow id = some (k, x) →
      exec (.fabricRefusalReturn id cause) s = .next (s.trapAt k x.pathB tcAccess x.xpc ((s.warpOf k).path x.pathB).pc 0 ⟨cause, 0, 0, false, none, none⟩)) ∧
  (∀ (id cause : Nat) (s : State) (r : LineReq) (pre post : List LineReq), s.mm.reqs = pre ++ r :: post → r.id = id → r.stage = 4 → (∀ q, q ∈ pre → ¬ (q.id = id ∧ q.stage = 4)) →
    let u := { s with mm := { s.mm with reqs := s.mm.reqs.filter fun q => q.id != id } }
    let code := (turnedAway cause (r.kind != 0)).1
    let ti := (turnedAway cause (r.kind != 0)).2
    (r.eng = none → AL.has s.warps r.wid = false ∨ (r.kind = 0 ∧ r.pend = none) → exec (.fabricRefusalReturn id cause) s = .next u) ∧
    (r.eng = none → AL.has s.warps r.wid = true → ¬ (r.kind = 0 ∧ r.pend = none) → exec (.fabricRefusalReturn id cause) s =
      .next (u.trapAt r.wid r.pathB code r.xpc ((s.warpOf r.wid).path r.pathB).pc (BitVec.ofNat 57 r.firstAddr) ti)) ∧
    (∀ w b, r.eng = some (.fetch w b) →
      (s.fetches w b id = false → exec (.fabricRefusalReturn id cause) s = .next u) ∧
      (s.fetches w b id = true → let pc := ((s.warpOf w).path b).pc
        exec (.fabricRefusalReturn id cause) s = .next (u.trapAt w b code pc pc (BitVec.ofNat 57 r.firstAddr) ti))) ∧
    (∀ fn x a c, r.eng = some (.dcopy fn) → s.dcopy = a ++ x :: c → x.fn = fn → x.far = some id → (∀ y, y ∈ a → ¬ (y.fn = fn ∧ y.far = some id)) →
      exec (.fabricRefusalReturn id cause) s = .next { u with dcopy := a ++ { x with far := none, stop := some (if cause < 16 then 3 else if cause = tcUncorr then 6 else 7) } :: c }) ∧
    (∀ b q i, r.eng = some (.copy b q i) → ∃ t, exec (.fabricRefusalReturn id cause) s = .next t ∧ t = { u with blocks := t.blocks } ∧
      ∀ e l, ((s.blockOf b).queue q).entries = e :: l → e.id = i →
        let lanes := r.lanes.map (·.1)
        ((t.blockOf b).queue q).entries = (({ e with far := e.far.filter fun j => !lanes.contains j }).stopped (lanes.headD 0) code (turnedAux cause) (laneLoc (if r.kind = 0 then e.src else e.dst) (lanes.headD 0)).addr) :: l) ∧
    (∀ w n, r.eng = some (.strm w n) → ∃ t, exec (.fabricRefusalReturn id cause) s = .next t ∧ t = { u with warps := t.warps } ∧
      ∀ q e, AL.get? (s.warpOf w).q n = some q → q.coming = some (e, [id]) → ∃ q', AL.get? (t.warpOf w).q n = some q' ∧ q'.bufs = q.bufs ++ [e.failAt ⟨(r.lanes.head?.map (·.1)).getD 0, code, r.firstAddr, ti.cause, 0, 0, none⟩] ∧ q'.coming = none) ∧
    ∀ vf name, r.eng = some (.jig vf name) → exec (.fabricRefusalReturn id cause) s = .next (u.jigStop vf name code (turnedAux cause) r.firstAddr (0, 0, none))) ∧
  (∀ (id : Nat) (s : State) (pre post : List (Nat × Nat × Flit × Nat)) (tp t0 : Nat) (f : Flit), s.fab.heldFlits = pre ++ (id, tp, f, t0) :: post → (∀ h, h ∈ pre ∨ h ∈ post → h.1 ≠ id) →
    (s.now ≤ t0 + s.linkto → exec (.linkHoldTimeout id) s = .next s) ∧
    (t0 + s.linkto < s.now →
      let u := { s with fab := { s.fab with heldFlits := pre ++ post } }
      (requestFlit f = false → exec (.linkHoldTimeout id) s = .next u) ∧
      (requestFlit f = true → f.src = s.pkgid → exec (.linkHoldTimeout id) s = exec (.fabricRefusalReturn f.reqId 8) u) ∧
      (requestFlit f = true → f.src ≠ s.pkgid → ∃ t, exec (.linkHoldTimeout id) s = .next t ∧ RefusalSent u t f 8 ∧ t = { s with fab := t.fab, regs := t.regs, free := t.free }))) ∧
  (∀ (pkg id : Nat) (s : State),
    (s.ordpt ≠ s.pkgid → exec (.scTicketRequest pkg id) s = .next s) ∧
    (s.ordpt = s.pkgid → exec (.scTicketRequest pkg id) s = .next { s with fab := { s.fab with tickets := s.fab.tickets ++ [(pkg, id)] } })) ∧
  (∀ (s : State), s.grantReady = none →
    (s.fab.tickets = [] → exec .scTicketGrant s = .next s) ∧
    ∀ pkg id rest, s.fab.tickets = (pkg, id) :: rest →
      (pkg = s.pkgid → exec .scTicketGrant s = .next { s with fab := { s.fab with tickets := rest, granted := s.fab.granted ++ [id] } }) ∧
      (pkg ≠ s.pkgid → ∃ t, exec .scTicketGrant s = .next t ∧ Leaves { s with fab := { s.fab with tickets := rest } } t 16 ⟨s.pkgid, pkg, 0, 5, 0, [], 0, id, 0, none⟩ ∧ t = { s with fab := t.fab, regs := t.regs })) ∧
  (∀ (s : State) (id : Nat), s.grantReady = some id → s.ticketSlow id = none → exec .scTicketGrant s = .next { s with fab := { s.fab with granted := s.fab.granted.erase id } }) ∧
  ∀ (s : State) (id wid : Nat) (x : Slow), s.grantReady = some id → s.ticketSlow id = some (wid, x) →
    ∃ t, exec .scTicketGrant s = .next t ∧ t.fab = { s.fab with granted := s.fab.granted.erase id } ∧ (t.warpOf wid).slow = (s.warpOf wid).slow.filter (fun y => y.id != x.id) ∧ (∀ b, ((t.warpOf wid).path b).pc = ((s.warpOf wid).path b).pc ∧ ∀ n, (x.id, n) ∉ ((t.warpOf wid).path b).windows) ∧
      t.gsc = warpPts t wid 0 ∧ (∀ d, d < 4 → warpPts t wid d = warpPts t wid 0 ∧ (warpPts s wid d).toNat ≤ (warpPts t wid 0).toNat) ∧ s.gsc.toNat ≤ t.gsc.toNat ∧
      (∀ k, k ≠ wid → t.warpOf k = s.warpOf k) ∧ ∀ a, t.memByte a = s.memByte a

/-- R311 to R313: the loss of a fibre leaves the others, and that of the last takes the port down, whose flits are replayed over the routes or held: none is lost, and which of them the other end had not acknowledged is open (log entry 1); the notice of it goes to the ring and a message to every neighbour over the ports that are up, and a neighbour's message is noticed; a port that comes up sends what it held;
a wavelength that crosses its limit is retrained, and one that fails is retired for a spare, with a notice. How many spares a fibre has, and which fibres LINKUP brings up, is log entry 59. -/
def Obligations.LinksAndWavelengths : Prop :=
  (∀ (port fibre : Nat) (s : State),
    (16 ≤ port ∨ 8 ≤ fibre ∨ bitOf (s.portBits port 23 16) fibre = false → exec (.fibreLoss port fibre) s = .next s) ∧
    (port < 16 → fibre < 8 → bitOf (s.portBits port 23 16) fibre = true →
      (s.portBits port 23 16 ≠ 2 ^ fibre → ∃ t, exec (.fibreLoss port fibre) s = .next t ∧ t.portBits port 23 16 = s.portBits port 23 16 - 2 ^ fibre ∧ t.portBits port 1 0 = s.portBits port 1 0 ∧ t = { s with regs := t.regs }) ∧
      (s.portBits port 23 16 = 2 ^ fibre → (∀ e, e ∈ s.fab.sent → e.1 % 16 = port → bitOf (fabWord s (e.1 / 16) e.2.dest) 20 = true) →
        ∃ t, exec (.fibreLoss port fibre) s = .next t ∧ t.portBits port 23 16 = 0 ∧ t.portBits port 1 0 = 0 ∧ t.portUp port = false ∧ t.fab.lost = s.fab.lost ++ [(port, fibre)] ∧
          (∀ e, e ∈ s.fab.sent → e.1 % 16 ≠ port → e ∈ t.fab.sent) ∧ (∀ e, e ∈ s.fab.sent → StillCarried t e.2) ∧ (∀ h, h ∈ s.fab.heldFlits → h ∈ t.fab.heldFlits) ∧
          ((∀ e, e ∈ s.fab.sent → e.1 % 16 ≠ port) → t.fab = { s.fab with lost := s.fab.lost ++ [(port, fibre)] }) ∧ t = { s with regs := t.regs, fab := t.fab, free := t.free }))) ∧
  (∀ (port : Nat) (s : State), (∀ e, e ∈ s.fab.lost → e.1 ≠ port) → exec (.linkdownNotice port) s = .next s) ∧
  (∀ (port fibre : Nat) (s : State) (pre post : List (Nat × Nat)), s.fab.lost = pre ++ (port, fibre) :: post → (∀ e, e ∈ pre → e.1 ≠ port) →
    let fab := { s.fab with lost := pre ++ post, sent := s.fab.sent ++ ((List.range 16).filter s.portUp).map fun k => (256 + k, (⟨s.pkgid, 0, 0, 6, 0, [], 0, 0, 0, none⟩ : Flit)) }
    ∃ t, exec (.linkdownNotice port) s = .next t ∧ t.fab = fab ∧ (s.ringOpen 2050 = false → t = { s with fab := fab, rep := withNotice s 1 port s.pkgid (fibre + s.portBits port 9 2 * 2 ^ 10) })) ∧
  (∀ (port pkg : Nat) (s : State), (s.ringOpen 2050 = false → exec (.neighbourNotice port pkg) s = .next { s with rep := withNotice s 3 port pkg 0 }) ∧
    ∀ spa, s.ringOpen 2050 = true → s.rep.notices = [] → RingSlot s 2050 spa → ∃ t, exec (.neighbourNotice port pkg) s = .next t ∧ RecordWritten s t 2050 spa (s.noticeRec 3 port pkg 0 0 0 0) ∧ t.rep.notices = []) ∧
  (∀ (port : Nat) (s : State),
    (16 ≤ port ∨ s.portUp port = true → exec (.linkup port) s = .next s) ∧
    (port < 16 → s.portUp port = false →
      (s.fab.heldFlits = [] → ∃ t, exec (.linkup port) s = .next t ∧ t.portUp port = true ∧ t.portBits port 23 16 = 255 ∧ t.fab = s.fab ∧ (s.ringOpen 2050 = false → t = { s with regs := t.regs, rep := withNotice s 2 port s.pkgid 0 })) ∧
      (s.ringOpen 2050 = false → (∀ h, h ∈ s.fab.heldFlits → bitOf (fabWord s (h.2.1 / 16) h.2.2.1.dest) 20 = true) → ∃ t, exec (.linkup port) s = .next t ∧ t.portUp port = true ∧
        (∀ h, h ∈ s.fab.heldFlits → (∃ k g, (k, g) ∈ t.fab.sent ∧ t.portUp (k % 16) = true ∧ (g = h.2.2.1 ∨ (adaptiveFlit h.2.2.1 = true ∧ g = { h.2.2.1 with chan := h.2.2.1.chan - 2 }))) ∨ ∃ tp, (h.1, tp, h.2.2.1, h.2.2.2) ∈ t.fab.heldFlits ∧ t.portUp (tp % 16) = false) ∧
        t = { s with regs := t.regs, fab := t.fab, free := t.free, rep := withNotice s 2 port s.pkgid 0 }) ∧
      ∀ id table f t0, s.ringOpen 2050 = false → s.fab.heldFlits = [(id, table * 16 + port, f, t0)] → bitOf (fabWord s table f.dest) 20 = true → adaptiveFlit f = false → ordPort s table f.dest = port →
        ∃ t, exec (.linkup port) s = .next t ∧ t.portUp port = true ∧ t.fab = { s.fab with heldFlits := [], sent := s.fab.sent ++ [(table * 16 + port, f)] } ∧ t = { s with regs := t.regs, fab := t.fab, rep := withNotice s 2 port s.pkgid 0 })) ∧
  (∀ (port wave : Nat) (s : State),
    (16 ≤ port ∨ AL.has s.fab.waves (port * 1024 + wave) = true → exec (.wavelengthBerCrossed port wave) s = .next s) ∧
    (port < 16 → AL.has s.fab.waves (port * 1024 + wave) = false → exec (.wavelengthBerCrossed port wave) s = .next { s with fab := { s.fab with waves := AL.put s.fab.waves (port * 1024 + wave) 1 } })) ∧
  ∀ (port wave : Nat) (ok : Bool) (s : State),
    (AL.getD s.fab.waves (port * 1024 + wave) 0 ≠ 1 → exec (.wavelengthRetrainDone port wave ok) s = .next s) ∧
    (AL.getD s.fab.waves (port * 1024 + wave) 0 = 1 →
      exec (.wavelengthRetrainDone port wave true) s = .next { s with fab := { s.fab with waves := AL.del s.fab.waves (port * 1024 + wave) } } ∧
      (port < 16 →
        let gone := (s.fab.waves.filter fun e => e.1 / 128 == port * 8 + wave / 128 && e.2 == 2).length
        let left := if gone < 4 then s.portBits port 9 2 - 1 else s.portBits port 9 2
        ∃ t, exec (.wavelengthRetrainDone port wave false) s = .next t ∧ t.portBits port 9 2 = left ∧ t.fab = { s.fab with waves := AL.put s.fab.waves (port * 1024 + wave) 2 } ∧
          (s.ringOpen 2050 = false → t = { s with regs := t.regs, fab := t.fab, rep := withNotice s 4 port s.pkgid (wave / 128 % 8 + wave % 128 * 8 + left * 2 ^ 10) })))

namespace Sys2Proof.Claims

/-! Boot, resets and the register space (R9, R10, R249, R259, R292, R293, R315, R317, R318) -/

/-- Nothing but registers differs, and of those none but the ones listed. -/
def OnlyRegs (l : List (Nat × Nat × Nat)) (s t : State) : Prop :=
  t = { s with regs := t.regs } ∧ ∀ f b o, (f, b, o) ∉ l → b < 32 → o < 2 ^ 26 → t.reg f b o = s.reg f b o

/-- A function's tasks, blocks, posts, transfers and jig entries are gone, its registers stand at reset, and every other function's tasks and registers, and memory, are as before (R315). -/
def FunctionGone (s t : State) (vf : Nat) : Prop :=
  (∀ e, e ∈ t.tasks → e.2.vf ≠ vf) ∧ (∀ e, e ∈ t.blocks → e.2.vf ≠ vf) ∧ AL.get? t.posts vf = none ∧ AL.get? t.stops vf = none ∧ (∀ x, x ∈ t.dcopy → x.fn ≠ vf) ∧
  (∀ e, e ∈ t.jig.entries → e.vf ≠ vf) ∧ vf ∉ t.jig.faulted ∧ (∀ b o, b < 32 → o < 2 ^ 26 → t.reg vf b o = regReset b o) ∧ ∀ a, t.memByte a = s.memByte a

/-- Registers whose write does more than change their fields: a key command, a word of HOLD, and a jig quota (R258, R275, R308). -/
def ActsBeyond (block off : Nat) : Prop :=
  (block = blkKey ∧ off = 0) ∨ (block = blkFabric ∧ fabOff 16 + 0x9000 ≤ off ∧ off < fabOff 16 + 0x9400 ∧ off % 8 = 0) ∨ (block = blkPart ∧ 0x10000 ≤ off ∧ off < 0x10000 * 25 ∧ off % 0x10000 = 0x3000)

/-- The register of the boot block that carries BSTATE (R317). -/
def bstateReg : Nat × Nat × Nat := (Config.pf, blkBoot, 0x100008)

end Sys2Proof.Claims

/-- R259, R317: verification starts in state 0, and a write of AUTH in a failed state goes back there; what verification finds sets state 4 or 5, or brings the package up: keys for the two domains of the package, an empty ownership table, a zeroed carve-out, the sizes shown, and lease mode on every die that was in start-up directory mode. Where in the carve-out the management tree lies, and in which order it runs over its frames, is log entry 90. -/
def Obligations.FirmwareBoot : Prop :=
  (∀ (s : State),
    (s.blkActive Config.pf blkBoot = false ∨ (s.bstate ≠ 0 ∧ s.bstate ≠ 4 ∧ s.bstate ≠ 5) → exec .bootAuth s = .next s) ∧
    (s.blkActive Config.pf blkBoot = true → s.bstate = 0 → ∃ t, exec .bootAuth s = .next t ∧ t.bstate = 1 ∧ OnlyRegs [bstateReg] s t) ∧
    (s.blkActive Config.pf blkBoot = true → s.bstate = 4 ∨ s.bstate = 5 → ∃ t, exec .bootAuth s = .next t ∧ t.bstate = 0 ∧ OnlyRegs [bstateReg] s t)) ∧
  (∀ (s : State), s.bstate ≠ 1 → exec .bootVerifyDone s = .next s) ∧
  ∀ (s : State), s.bstate = 1 →
    (Config.firmwareVerdict s.free = 1 → ∃ t, exec .bootVerifyDone s = .next t ∧ t.bstate = 4 ∧ OnlyRegs [bstateReg] { s with free := s.free + 1 } t) ∧
    (1 < Config.firmwareVerdict s.free → ∃ t, exec .bootVerifyDone s = .next t ∧ t.bstate = 5 ∧ OnlyRegs [bstateReg] { s with free := s.free + 1 } t) ∧
    (Config.firmwareVerdict s.free = 0 → ∃ t, exec .bootVerifyDone s = .next t ∧ t.bstate = 3 ∧ t.keys.booted = true ∧ t.keys.fot = [] ∧
      (∀ d, d = Config.mgmtDomain ∨ d = Config.pfDomain → (AL.get? t.keys.doms d).isSome = true) ∧ (∀ d, d ≠ Config.mgmtDomain → d ≠ Config.pfDomain → AL.get? t.keys.doms d = AL.get? s.keys.doms d) ∧
      (∃ b, AL.get? t.keys.trees Config.mgmtDomain = some (8, b) ∧ inCarve (b / 4096) = true ∧ ∀ k i, k < 8 → i < 8 ^ (8 - k) → inCarve (treeNodeAddr Config.mgmtDomain b 8 k i / 4096) = true) ∧ (t.reg Config.pf blkBoot 0x100010).toNat = carve % 2 ^ 64 ∧
      (∀ k, k < 8 → (t.reg Config.pf blkBoot (0x100018 + 8 * k)).toNat = tierBytes k % 2 ^ 64) ∧
      (∀ a, Tbl.get t.mm.mem a = if inCarve (a / 4096) then 0 else Tbl.get s.mm.mem a) ∧ t.mm.dirty = s.mm.dirty ∧
      (∀ d, d < 4 → AL.get? t.mm.dirMode d = if AL.get? s.mm.dirMode d = some 1 then none else AL.get? s.mm.dirMode d) ∧
      t.warps = s.warps ∧ t.tasks = s.tasks ∧ t.free = s.free + 1)

/-- R249, R274, R293, R315, R317: enabling VFs makes their domains; disabling them is refused whole while one owns a frame, and takes all the VF had otherwise; a function-level reset of a VF takes its tasks, jig entries and registers and leaves its domain and frames; one of the PF makes its blocks inactive;
a package reset leaves the state after reset, with what is outside the package as it was. That VFs are enabled only in boot state 3, and what disabling does beyond a function-level reset, is log entry 64; what a package reset keeps is log entry 67. -/
def Obligations.FunctionsAndResets : Prop :=
  (∀ (n : Nat) (s : State),
    (Config.vfs < n ∨ n ≤ s.vfs ∨ s.bstate ≠ 3 → exec (.vfEnable n) s = .next s) ∧
    (n ≤ Config.vfs → s.vfs < n → s.bstate = 3 → ∃ t, exec (.vfEnable n) s = .next t ∧ t.vfs = n ∧ (∀ d, s.vfs ≤ d → d < n → (AL.get? t.keys.doms d).isSome = true) ∧
      (∀ d, d < s.vfs ∨ n ≤ d → AL.get? t.keys.doms d = AL.get? s.keys.doms d) ∧ t = { s with vfs := n, keys := { s.keys with doms := t.keys.doms, draws := t.keys.draws } })) ∧
  (∀ (n : Nat) (s : State),
    (s.vfs ≤ n ∨ (∃ e, e ∈ s.keys.fot ∧ n ≤ e.2.owner ∧ e.2.owner < s.vfs) → exec (.vfDisable n) s = .next s) ∧
    (n < s.vfs → (∀ e, e ∈ s.keys.fot → e.2.owner < n ∨ s.vfs ≤ e.2.owner) → ∃ t, exec (.vfDisable n) s = .next t ∧ t.vfs = n ∧ t.keys.fot = s.keys.fot ∧
      (∀ f, n ≤ f → f < s.vfs → FunctionGone s t f ∧ (∀ e, e ∈ t.mm.merges → e.2.vf = f → e.2.posted = false) ∧ AL.get? t.keys.doms f = none ∧ AL.get? t.keys.trees f = none) ∧
      (∀ f, f < n ∨ s.vfs ≤ f → (∀ e, e.2.vf = f → (e ∈ t.tasks ↔ e ∈ s.tasks)) ∧ (∀ b o, b < 32 → o < 2 ^ 26 → t.reg f b o = s.reg f b o) ∧ AL.get? t.keys.doms f = AL.get? s.keys.doms f))) ∧
  (∀ (vf : Nat) (s : State),
    (Config.vfs ≤ vf → exec (.vfFlr vf) s = .next s) ∧
    (vf < Config.vfs → ∃ t, exec (.vfFlr vf) s = .next t ∧ FunctionGone s t vf ∧ t.keys = s.keys ∧ t.vfs = s.vfs ∧
      ∀ f, f ≠ vf → (∀ e, e.2.vf = f → (e ∈ t.tasks ↔ e ∈ s.tasks)) ∧ ∀ b o, b < 32 → o < 2 ^ 26 → t.reg f b o = s.reg f b o)) ∧
  (∀ (s : State), ∃ t, exec .pfFlr s = .next t ∧ t = { s with regs := t.regs } ∧ (∀ b, b < 32 → t.blkActive Config.pf b = false) ∧ t.bstate = s.bstate ∧
    ∀ f b o, (f, b) ≠ (Config.pf, 0) → b < 32 → o < 2 ^ 26 → t.reg f b o = s.reg f b o) ∧
  ∀ (s : State), ∃ t, exec .packageReset s = .next t ∧
    t = { State.reset with inputs := s.inputs, host := s.host, free := s.free, nextId := s.nextId, keys := { State.reset.keys with draws := s.keys.draws } }

/-- R9, R10, R292, R293, R318: a plain register of an active block takes the written fields and keeps the others, with a written 1 clearing the bits that say so, an issue weight staying in force to the end of its round; a block that is not active, or that its function does not carry, takes nothing;
ACCEPT takes major version 1 alone; clearing an error bank zeroes it. Which writes are ignored whole, and that each write is an event of its own, are log entries 65 and 69. -/
def Obligations.RegisterSpace : Prop :=
  (∀ (fn block off val : Nat) (s : State),
    (carries fn block = false ∨ s.blkActive fn block = false ∨ s.writeIgnored block off val = true → exec (.registerWrite fn block off val) s = .next s) ∧
    (carries fn block = true → s.blkActive fn block = true → s.writeIgnored block off val = false → (block = blkNotice → s.rep.notices = []) → ¬ ActsBeyond block off →
      ∃ t, exec (.registerWrite fn block off val) s = .next t ∧ OnlyRegs [(fn, block, off)] { s with oldWeights := t.oldWeights } t ∧
        (¬ (block = blkPart ∧ 0x2000 ≤ off ∧ off < 0x4000) → t.oldWeights = s.oldWeights) ∧ (block = blkPart → 0x2000 ≤ off → off < 0x4000 → ∀ f, f < 1024 → t.weightNow f = s.weightNow f) ∧
        ∀ i, i < 64 → bitOf (t.reg fn block off).toNat i =
          if bitOf (w1cMask block off) i && bitOf val i then false
          else if bitOf (writeMask fn block off) i && !bitOf (s.keptFields block off val) i then bitOf val i else bitOf (s.reg fn block off).toNat i)) ∧
  (∀ (fn off val : Nat) (s : State), carries fn blkNotice = true → s.blkActive fn blkNotice = true → writeMask fn blkNotice off ≠ 0 →
    ∃ v, exec (.registerWrite fn blkNotice off val) { s with rep := { s.rep with notices := [] } } = .next v ∧
      exec (.registerWrite fn blkNotice off val) s = .next (State.drainNotices { v with rep := s.rep } s.rep.notices)) ∧
  (∀ (val p : Nat) (s : State), p < 24 → s.blkActive Config.pf blkPart = true → exec (.registerWrite Config.pf blkPart (partOff p + 0x3000) val) s = exec (.jquotaWrite p val) s) ∧
  (∀ (val : Nat) (s : State), s.blkActive Config.pf blkKey = true →
    (bits val 7 0 = 1 → exec (.registerWrite Config.pf blkKey 0 val) s = exec (.keyAdopt val) s) ∧
    (bits val 7 0 = 2 → exec (.registerWrite Config.pf blkKey 0 val) s = exec (.keyWcreate val) s) ∧
    (bits val 7 0 = 3 → exec (.registerWrite Config.pf blkKey 0 val) s = exec (.keyWdestroy val) s) ∧
    (bits val 7 0 = 4 → exec (.registerWrite Config.pf blkKey 0 val) s = exec (.keyTreecfg val) s) ∧
    (bits val 7 0 = 0 ∨ 4 < bits val 7 0 → s.regBits Config.pf blkKey 0x18 24 24 = 0 → ∃ t c, exec (.registerWrite Config.pf blkKey 0 val) s = .next t ∧ t.keys = { s.keys with cmd := some c } ∧ c.code = 2 ∧ c.ready = true ∧
      t = { s with regs := t.regs, keys := t.keys })) ∧
  (∀ (val i : Nat) (s : State), i < 128 → s.blkActive Config.pf blkFabric = true →
    ∃ t, exec (.registerWrite Config.pf blkFabric (fabOff 16 + 0x9000 + 8 * i) val) s = .next t ∧ t = { s with regs := t.regs } ∧ ∀ k, k < 64 → t.holdBit (64 * i + k) = bitOf val k) ∧
  (∀ (fn block val : Nat) (s : State),
    (carries fn block = false ∨ val ≠ 1 ∨ (fn ≠ Config.pf ∧ s.vfs ≤ fn) ∨ (s.bstate ≠ 3 ∧ block ≠ blkBoot ∧ block ≠ blkErr) → exec (.capAccept fn block val) s = .next s) ∧
    (carries fn block = true → val = 1 → fn = Config.pf ∨ fn < s.vfs → s.bstate = 3 ∨ block = blkBoot ∨ block = blkErr →
      ∃ t, exec (.capAccept fn block val) s = .next t ∧ t.blkActive fn block = true ∧ OnlyRegs [(fn, 0, block)] s t)) ∧
  ∀ (fn bank : Nat) (s : State),
    (s.blkActive fn blkErr = false ∨ (if fn = Config.pf then 16 else 1) ≤ bank → exec (.errBankClear fn bank) s = .next s) ∧
    (s.blkActive fn blkErr = true → bank < (if fn = Config.pf then 16 else 1) → ∃ t, exec (.errBankClear fn bank) s = .next t ∧
      (∀ k, k < 4 → t.reg fn blkErr (0x20 * bank + 8 * k) = 0) ∧ OnlyRegs ((List.range 4).map fun k => (fn, blkErr, 0x20 * bank + 8 * k)) s t)
end

