-- ==== Sys2Proof/Laws/Tables.lean ====
section
/-! SUPPORT. Tables: what a lookup reads after a write, and the canonical form that every write keeps. -/

set_option Elab.async false

namespace Sys2Proof.Machine

variable {α : Type} {w : Nat}

@[simp] theorem AL.get?_nil (k : Nat) : AL.get? ([] : AL α) k = none := rfl

theorem AL.get?_cons (l : AL α) (j k : Nat) (x : α) : AL.get? ((j, x) :: l) k = if j = k then some x else AL.get? l k := rfl

theorem AL.get?_filter (l : AL α) (p : Nat → Bool) (k : Nat) :
    AL.get? (l.filter fun e => p e.1) k = if p k then AL.get? l k else none := by
  induction l with
  | nil => simp
  | cons e r ih =>
    obtain ⟨j, x⟩ := e
    by_cases hj : p j <;> by_cases hk : j = k <;> simp_all [AL.get?_cons]

@[simp] theorem AL.get?_del_self (l : AL α) (k : Nat) : AL.get? (AL.del l k) k = none := by
  rw [AL.del, AL.get?_filter l (fun i => i != k)]; simp

theorem AL.get?_del_ne (l : AL α) {j k : Nat} (h : j ≠ k) : AL.get? (AL.del l k) j = AL.get? l j := by
  rw [AL.del, AL.get?_filter l (fun i => i != k)]; simp [h]

theorem AL.get?_ins_ne (l : AL α) {j k : Nat} (x : α) (h : j ≠ k) : AL.get? (AL.ins k x l) j = AL.get? l j := by
  induction l with
  | nil => simp [AL.ins, AL.get?_cons, Ne.symm h]
  | cons e r ih =>
    obtain ⟨i, y⟩ := e
    simp only [AL.ins]
    split <;> simp_all [AL.get?_cons, Ne.symm h]

theorem AL.get?_ins_self (l : AL α) (k : Nat) (x : α) (h : AL.get? l k = none) : AL.get? (AL.ins k x l) k = some x := by
  induction l with
  | nil => simp [AL.ins, AL.get?_cons]
  | cons e r ih =>
    obtain ⟨i, y⟩ := e
    rw [AL.get?_cons] at h
    split at h
    · cases h
    · simp only [AL.ins]
      split <;> simp_all [AL.get?_cons]

@[simp] theorem AL.get?_put_self (l : AL α) (k : Nat) (x : α) : AL.get? (AL.put l k x) k = some x :=
  AL.get?_ins_self _ _ _ (by simp)

theorem AL.get?_put_ne (l : AL α) {j k : Nat} (x : α) (h : j ≠ k) : AL.get? (AL.put l k x) j = AL.get? l j := by
  rw [AL.put, AL.get?_ins_ne _ _ h, AL.get?_del_ne _ h]

theorem AL.get?_put (l : AL α) (j k : Nat) (x : α) : AL.get? (AL.put l k x) j = if j = k then some x else AL.get? l j := by
  split
  · subst_vars; simp
  · rename_i h; exact AL.get?_put_ne l x h

@[simp] theorem AL.getD_put_self (l : AL α) (k : Nat) (x d : α) : AL.getD (AL.put l k x) k d = x := by simp [AL.getD]

theorem AL.getD_put_ne (l : AL α) {j k : Nat} (x d : α) (h : j ≠ k) : AL.getD (AL.put l k x) j d = AL.getD l j d := by
  simp [AL.getD, AL.get?_put_ne l x h]

theorem AL.get?_upd_ne (l : AL α) {j k : Nat} (f : α → α) (h : j ≠ k) : AL.get? (AL.upd l k f) j = AL.get? l j := by
  unfold AL.upd
  split
  · exact AL.get?_put_ne l _ h
  · rfl

theorem AL.get?_upd_self (l : AL α) (k : Nat) (f : α → α) : AL.get? (AL.upd l k f) k = (AL.get? l k).map f := by
  unfold AL.upd
  split <;> simp_all

theorem AL.getD_upd_ne (l : AL α) {j k : Nat} (f : α → α) (d : α) (h : j ≠ k) : AL.getD (AL.upd l k f) j d = AL.getD l j d := by
  simp [AL.getD, AL.get?_upd_ne l f h]

theorem AL.getD_upd_self (l : AL α) (k : Nat) (f : α → α) (d : α) (h : AL.has l k) : AL.getD (AL.upd l k f) k d = f (AL.getD l k d) := by
  simp only [AL.has, Option.isSome_iff_exists] at h
  obtain ⟨x, hx⟩ := h
  simp [AL.getD, AL.get?_upd_self, hx]

/-! Words of a table -/

@[simp] theorem Tbl.get_nil (k : Nat) : Tbl.get ([] : Tbl w) k = 0 := rfl

@[simp] theorem Tbl.get_set_self (t : Tbl w) (k : Nat) (x : BitVec w) : Tbl.get (Tbl.set t k x) k = x := by
  unfold Tbl.get Tbl.set
  split <;> simp_all

theorem Tbl.get_set_ne (t : Tbl w) {j k : Nat} (x : BitVec w) (h : j ≠ k) : Tbl.get (Tbl.set t k x) j = Tbl.get t j := by
  unfold Tbl.get Tbl.set
  split
  · rw [AL.get?_del_ne _ h]
  · rw [AL.get?_put_ne _ _ h]

theorem Tbl.get_set (t : Tbl w) (j k : Nat) (x : BitVec w) : Tbl.get (Tbl.set t k x) j = if j = k then x else Tbl.get t j := by
  split
  · subst_vars; simp
  · rename_i h; exact Tbl.get_set_ne t x h

/-! The canonical form -/

/-- A table is canonical when its keys strictly rise and it lists no zero word. -/
theorem Tbl.wf_iff (t : Tbl w) : Tbl.wf t = true ↔ (t.Pairwise fun a b => a.1 < b.1) ∧ ∀ e ∈ t, e.2 ≠ 0 := by
  induction t with
  | nil => simp [Tbl.wf]
  | cons e r ih =>
    obtain ⟨j, x⟩ := e
    cases r with
    | nil => simp [Tbl.wf]
    | cons e2 r2 =>
      obtain ⟨k, y⟩ := e2
      simp only [Tbl.wf, Bool.and_eq_true, bne_iff_ne, ne_eq, decide_eq_true_eq, ih, List.pairwise_cons, List.mem_cons]
      constructor
      · rintro ⟨⟨hx, hjk⟩, ⟨hk, hp⟩, hz⟩
        refine ⟨⟨?_, hk, hp⟩, ?_⟩
        · rintro a (rfl | ha)
          · exact hjk
          · exact Nat.lt_trans hjk (hk a ha)
        · rintro a (rfl | ha)
          · exact hx
          · exact hz a ha
      · rintro ⟨⟨hj, hk, hp⟩, hz⟩
        exact ⟨⟨hz _ (.inl rfl), hj _ (.inl rfl)⟩, ⟨hk, hp⟩, fun a ha => hz a (.inr ha)⟩

theorem Tbl.wf_filter (t : Tbl w) (p : Nat × BitVec w → Bool) (h : Tbl.wf t = true) : Tbl.wf (t.filter p : Tbl w) = true := by
  rw [Tbl.wf_iff] at *
  exact ⟨h.1.filter p, fun e he => h.2 e ((List.mem_filter.1 he).1)⟩

theorem AL.mem_ins (l : AL α) (k : Nat) (x : α) (e : Nat × α) : e ∈ AL.ins k x l ↔ e = (k, x) ∨ e ∈ l := by
  induction l with
  | nil => simp [AL.ins]
  | cons a r ih =>
    obtain ⟨j, y⟩ := a
    simp only [AL.ins]
    split
    · simp
    · simp only [List.mem_cons, ih, or_left_comm]

theorem AL.ins_rising (l : AL α) (k : Nat) (x : α) (h : l.Pairwise fun a b => a.1 < b.1) (hk : ∀ e ∈ l, e.1 ≠ k) :
    (AL.ins k x l).Pairwise fun a b => a.1 < b.1 := by
  induction l with
  | nil => simp [AL.ins]
  | cons a r ih =>
    obtain ⟨j, y⟩ := a
    rw [List.pairwise_cons] at h
    have hj : j ≠ k := hk (j, y) (by simp)
    simp only [AL.ins]
    split
    · rename_i hlt
      refine List.pairwise_cons.2 ⟨?_, List.pairwise_cons.2 h⟩
      intro e he
      rcases List.mem_cons.1 he with rfl | he
      · exact hlt
      · exact Nat.lt_trans hlt (h.1 e he)
    · refine List.pairwise_cons.2 ⟨?_, ih h.2 fun e he => hk e (by simp [he])⟩
      intro e he
      rcases (AL.mem_ins r k x e).1 he with rfl | he
      · show j < k; omega
      · exact h.1 e he

theorem Tbl.wf_set (t : Tbl w) (k : Nat) (x : BitVec w) (h : Tbl.wf t = true) : Tbl.wf (Tbl.set t k x) = true := by
  unfold Tbl.set
  split
  · exact Tbl.wf_filter t _ h
  · rename_i hx
    have hd : Tbl.wf (AL.del t k : Tbl w) = true := Tbl.wf_filter t _ h
    rw [Tbl.wf_iff] at *
    refine ⟨AL.ins_rising _ _ _ hd.1 ?_, ?_⟩
    · intro e he
      simpa using (List.mem_filter.1 he).2
    · intro e he
      rcases (AL.mem_ins _ _ _ _).1 he with rfl | he
      · exact hx
      · exact hd.2 e he

theorem Tbl.wf_setBytes (l : List Nat) : ∀ (t : Tbl 8) (a : Nat), Tbl.wf t = true → Tbl.wf (Tbl.setBytes t a l) = true := by
  induction l with
  | nil => exact fun _ _ h => h
  | cons b r ih => exact fun t a h => ih _ _ (Tbl.wf_set _ _ _ h)

theorem Tbl.wf_foldl_set (l : List (Nat × BitVec w)) : ∀ t : Tbl w, Tbl.wf t = true → Tbl.wf (l.foldl (fun t e => Tbl.set t e.1 e.2) t) = true := by
  induction l with
  | nil => exact fun _ h => h
  | cons e r ih => exact fun t h => ih _ (Tbl.wf_set _ _ _ h)

end Sys2Proof.Machine
end

