-- ==== Sys2Proof/Laws/State.lean ====
section
/-! SUPPORT. What each update of the state leaves in each field: one lemma for a field and an update, true by definition. -/

set_option Elab.async false

namespace Sys2Proof.Machine

variable (s : State)

/-! putWarp -/

@[simp] theorem State.putWarp_clock (k : Nat) (x : Warp) : (s.putWarp k x).clock = s.clock := rfl
@[simp] theorem State.putWarp_gsc (k : Nat) (x : Warp) : (s.putWarp k x).gsc = s.gsc := rfl
@[simp] theorem State.putWarp_epoch (k : Nat) (x : Warp) : (s.putWarp k x).epoch = s.epoch := rfl
@[simp] theorem State.putWarp_agenda (k : Nat) (x : Warp) : (s.putWarp k x).agenda = s.agenda := rfl
@[simp] theorem State.putWarp_inputs (k : Nat) (x : Warp) : (s.putWarp k x).inputs = s.inputs := rfl
@[simp] theorem State.putWarp_issue (k : Nat) (x : Warp) : (s.putWarp k x).issue = s.issue := rfl
@[simp] theorem State.putWarp_free (k : Nat) (x : Warp) : (s.putWarp k x).free = s.free := rfl
@[simp] theorem State.putWarp_nextId (k : Nat) (x : Warp) : (s.putWarp k x).nextId = s.nextId := rfl
@[simp] theorem State.putWarp_cur (k : Nat) (x : Warp) : (s.putWarp k x).cur = s.cur := rfl
@[simp] theorem State.putWarp_curB (k : Nat) (x : Warp) : (s.putWarp k x).curB = s.curB := rfl
@[simp] theorem State.putWarp_regs (k : Nat) (x : Warp) : (s.putWarp k x).regs = s.regs := rfl
@[simp] theorem State.putWarp_tdm (k : Nat) (x : Warp) : (s.putWarp k x).tdm = s.tdm := rfl
@[simp] theorem State.putWarp_clustersNow (k : Nat) (x : Warp) : (s.putWarp k x).clustersNow = s.clustersNow := rfl
@[simp] theorem State.putWarp_tasks (k : Nat) (x : Warp) : (s.putWarp k x).tasks = s.tasks := rfl
@[simp] theorem State.putWarp_posts (k : Nat) (x : Warp) : (s.putWarp k x).posts = s.posts := rfl
@[simp] theorem State.putWarp_sends (k : Nat) (x : Warp) : (s.putWarp k x).sends = s.sends := rfl
@[simp] theorem State.putWarp_blocks (k : Nat) (x : Warp) : (s.putWarp k x).blocks = s.blocks := rfl
@[simp] theorem State.putWarp_warps (k : Nat) (x : Warp) : (s.putWarp k x).warps = AL.put s.warps k x := rfl
@[simp] theorem State.putWarp_gangs (k : Nat) (x : Warp) : (s.putWarp k x).gangs = s.gangs := rfl
@[simp] theorem State.putWarp_quarters (k : Nat) (x : Warp) : (s.putWarp k x).quarters = s.quarters := rfl
@[simp] theorem State.putWarp_oldWeights (k : Nat) (x : Warp) : (s.putWarp k x).oldWeights = s.oldWeights := rfl
@[simp] theorem State.putWarp_placers (k : Nat) (x : Warp) : (s.putWarp k x).placers = s.placers := rfl
@[simp] theorem State.putWarp_clusterNext (k : Nat) (x : Warp) : (s.putWarp k x).clusterNext = s.clusterNext := rfl
@[simp] theorem State.putWarp_eng (k : Nat) (x : Warp) : (s.putWarp k x).eng = s.eng := rfl
@[simp] theorem State.putWarp_mm (k : Nat) (x : Warp) : (s.putWarp k x).mm = s.mm := rfl
@[simp] theorem State.putWarp_rep (k : Nat) (x : Warp) : (s.putWarp k x).rep = s.rep := rfl
@[simp] theorem State.putWarp_keys (k : Nat) (x : Warp) : (s.putWarp k x).keys = s.keys := rfl
@[simp] theorem State.putWarp_jig (k : Nat) (x : Warp) : (s.putWarp k x).jig = s.jig := rfl
@[simp] theorem State.putWarp_chk (k : Nat) (x : Warp) : (s.putWarp k x).chk = s.chk := rfl
@[simp] theorem State.putWarp_fab (k : Nat) (x : Warp) : (s.putWarp k x).fab = s.fab := rfl
@[simp] theorem State.putWarp_dcopy (k : Nat) (x : Warp) : (s.putWarp k x).dcopy = s.dcopy := rfl
@[simp] theorem State.putWarp_dcopyPts (k : Nat) (x : Warp) : (s.putWarp k x).dcopyPts = s.dcopyPts := rfl
@[simp] theorem State.putWarp_host (k : Nat) (x : Warp) : (s.putWarp k x).host = s.host := rfl
@[simp] theorem State.putWarp_stops (k : Nat) (x : Warp) : (s.putWarp k x).stops = s.stops := rfl
@[simp] theorem State.putWarp_sweeps (k : Nat) (x : Warp) : (s.putWarp k x).sweeps = s.sweeps := rfl
@[simp] theorem State.putWarp_signals (k : Nat) (x : Warp) : (s.putWarp k x).signals = s.signals := rfl
@[simp] theorem State.putWarp_vfs (k : Nat) (x : Warp) : (s.putWarp k x).vfs = s.vfs := rfl

/-! updWarp -/

@[simp] theorem State.updWarp_clock (k : Nat) (f : Warp → Warp) : (s.updWarp k f).clock = s.clock := rfl
@[simp] theorem State.updWarp_gsc (k : Nat) (f : Warp → Warp) : (s.updWarp k f).gsc = s.gsc := rfl
@[simp] theorem State.updWarp_epoch (k : Nat) (f : Warp → Warp) : (s.updWarp k f).epoch = s.epoch := rfl
@[simp] theorem State.updWarp_agenda (k : Nat) (f : Warp → Warp) : (s.updWarp k f).agenda = s.agenda := rfl
@[simp] theorem State.updWarp_inputs (k : Nat) (f : Warp → Warp) : (s.updWarp k f).inputs = s.inputs := rfl
@[simp] theorem State.updWarp_issue (k : Nat) (f : Warp → Warp) : (s.updWarp k f).issue = s.issue := rfl
@[simp] theorem State.updWarp_free (k : Nat) (f : Warp → Warp) : (s.updWarp k f).free = s.free := rfl
@[simp] theorem State.updWarp_nextId (k : Nat) (f : Warp → Warp) : (s.updWarp k f).nextId = s.nextId := rfl
@[simp] theorem State.updWarp_cur (k : Nat) (f : Warp → Warp) : (s.updWarp k f).cur = s.cur := rfl
@[simp] theorem State.updWarp_curB (k : Nat) (f : Warp → Warp) : (s.updWarp k f).curB = s.curB := rfl
@[simp] theorem State.updWarp_regs (k : Nat) (f : Warp → Warp) : (s.updWarp k f).regs = s.regs := rfl
@[simp] theorem State.updWarp_tdm (k : Nat) (f : Warp → Warp) : (s.updWarp k f).tdm = s.tdm := rfl
@[simp] theorem State.updWarp_clustersNow (k : Nat) (f : Warp → Warp) : (s.updWarp k f).clustersNow = s.clustersNow := rfl
@[simp] theorem State.updWarp_tasks (k : Nat) (f : Warp → Warp) : (s.updWarp k f).tasks = s.tasks := rfl
@[simp] theorem State.updWarp_posts (k : Nat) (f : Warp → Warp) : (s.updWarp k f).posts = s.posts := rfl
@[simp] theorem State.updWarp_sends (k : Nat) (f : Warp → Warp) : (s.updWarp k f).sends = s.sends := rfl
@[simp] theorem State.updWarp_blocks (k : Nat) (f : Warp → Warp) : (s.updWarp k f).blocks = s.blocks := rfl
@[simp] theorem State.updWarp_warps (k : Nat) (f : Warp → Warp) : (s.updWarp k f).warps = AL.upd s.warps k f := rfl
@[simp] theorem State.updWarp_gangs (k : Nat) (f : Warp → Warp) : (s.updWarp k f).gangs = s.gangs := rfl
@[simp] theorem State.updWarp_quarters (k : Nat) (f : Warp → Warp) : (s.updWarp k f).quarters = s.quarters := rfl
@[simp] theorem State.updWarp_oldWeights (k : Nat) (f : Warp → Warp) : (s.updWarp k f).oldWeights = s.oldWeights := rfl
@[simp] theorem State.updWarp_placers (k : Nat) (f : Warp → Warp) : (s.updWarp k f).placers = s.placers := rfl
@[simp] theorem State.updWarp_clusterNext (k : Nat) (f : Warp → Warp) : (s.updWarp k f).clusterNext = s.clusterNext := rfl
@[simp] theorem State.updWarp_eng (k : Nat) (f : Warp → Warp) : (s.updWarp k f).eng = s.eng := rfl
@[simp] theorem State.updWarp_mm (k : Nat) (f : Warp → Warp) : (s.updWarp k f).mm = s.mm := rfl
@[simp] theorem State.updWarp_rep (k : Nat) (f : Warp → Warp) : (s.updWarp k f).rep = s.rep := rfl
@[simp] theorem State.updWarp_keys (k : Nat) (f : Warp → Warp) : (s.updWarp k f).keys = s.keys := rfl
@[simp] theorem State.updWarp_jig (k : Nat) (f : Warp → Warp) : (s.updWarp k f).jig = s.jig := rfl
@[simp] theorem State.updWarp_chk (k : Nat) (f : Warp → Warp) : (s.updWarp k f).chk = s.chk := rfl
@[simp] theorem State.updWarp_fab (k : Nat) (f : Warp → Warp) : (s.updWarp k f).fab = s.fab := rfl
@[simp] theorem State.updWarp_dcopy (k : Nat) (f : Warp → Warp) : (s.updWarp k f).dcopy = s.dcopy := rfl
@[simp] theorem State.updWarp_dcopyPts (k : Nat) (f : Warp → Warp) : (s.updWarp k f).dcopyPts = s.dcopyPts := rfl
@[simp] theorem State.updWarp_host (k : Nat) (f : Warp → Warp) : (s.updWarp k f).host = s.host := rfl
@[simp] theorem State.updWarp_stops (k : Nat) (f : Warp → Warp) : (s.updWarp k f).stops = s.stops := rfl
@[simp] theorem State.updWarp_sweeps (k : Nat) (f : Warp → Warp) : (s.updWarp k f).sweeps = s.sweeps := rfl
@[simp] theorem State.updWarp_signals (k : Nat) (f : Warp → Warp) : (s.updWarp k f).signals = s.signals := rfl
@[simp] theorem State.updWarp_vfs (k : Nat) (f : Warp → Warp) : (s.updWarp k f).vfs = s.vfs := rfl

/-! updBlock -/

@[simp] theorem State.updBlock_clock (k : Nat) (f : Block → Block) : (s.updBlock k f).clock = s.clock := rfl
@[simp] theorem State.updBlock_gsc (k : Nat) (f : Block → Block) : (s.updBlock k f).gsc = s.gsc := rfl
@[simp] theorem State.updBlock_epoch (k : Nat) (f : Block → Block) : (s.updBlock k f).epoch = s.epoch := rfl
@[simp] theorem State.updBlock_agenda (k : Nat) (f : Block → Block) : (s.updBlock k f).agenda = s.agenda := rfl
@[simp] theorem State.updBlock_inputs (k : Nat) (f : Block → Block) : (s.updBlock k f).inputs = s.inputs := rfl
@[simp] theorem State.updBlock_issue (k : Nat) (f : Block → Block) : (s.updBlock k f).issue = s.issue := rfl
@[simp] theorem State.updBlock_free (k : Nat) (f : Block → Block) : (s.updBlock k f).free = s.free := rfl
@[simp] theorem State.updBlock_nextId (k : Nat) (f : Block → Block) : (s.updBlock k f).nextId = s.nextId := rfl
@[simp] theorem State.updBlock_cur (k : Nat) (f : Block → Block) : (s.updBlock k f).cur = s.cur := rfl
@[simp] theorem State.updBlock_curB (k : Nat) (f : Block → Block) : (s.updBlock k f).curB = s.curB := rfl
@[simp] theorem State.updBlock_regs (k : Nat) (f : Block → Block) : (s.updBlock k f).regs = s.regs := rfl
@[simp] theorem State.updBlock_tdm (k : Nat) (f : Block → Block) : (s.updBlock k f).tdm = s.tdm := rfl
@[simp] theorem State.updBlock_clustersNow (k : Nat) (f : Block → Block) : (s.updBlock k f).clustersNow = s.clustersNow := rfl
@[simp] theorem State.updBlock_tasks (k : Nat) (f : Block → Block) : (s.updBlock k f).tasks = s.tasks := rfl
@[simp] theorem State.updBlock_posts (k : Nat) (f : Block → Block) : (s.updBlock k f).posts = s.posts := rfl
@[simp] theorem State.updBlock_sends (k : Nat) (f : Block → Block) : (s.updBlock k f).sends = s.sends := rfl
@[simp] theorem State.updBlock_blocks (k : Nat) (f : Block → Block) : (s.updBlock k f).blocks = AL.upd s.blocks k f := rfl
@[simp] theorem State.updBlock_warps (k : Nat) (f : Block → Block) : (s.updBlock k f).warps = s.warps := rfl
@[simp] theorem State.updBlock_gangs (k : Nat) (f : Block → Block) : (s.updBlock k f).gangs = s.gangs := rfl
@[simp] theorem State.updBlock_quarters (k : Nat) (f : Block → Block) : (s.updBlock k f).quarters = s.quarters := rfl
@[simp] theorem State.updBlock_oldWeights (k : Nat) (f : Block → Block) : (s.updBlock k f).oldWeights = s.oldWeights := rfl
@[simp] theorem State.updBlock_placers (k : Nat) (f : Block → Block) : (s.updBlock k f).placers = s.placers := rfl
@[simp] theorem State.updBlock_clusterNext (k : Nat) (f : Block → Block) : (s.updBlock k f).clusterNext = s.clusterNext := rfl
@[simp] theorem State.updBlock_eng (k : Nat) (f : Block → Block) : (s.updBlock k f).eng = s.eng := rfl
@[simp] theorem State.updBlock_mm (k : Nat) (f : Block → Block) : (s.updBlock k f).mm = s.mm := rfl
@[simp] theorem State.updBlock_rep (k : Nat) (f : Block → Block) : (s.updBlock k f).rep = s.rep := rfl
@[simp] theorem State.updBlock_keys (k : Nat) (f : Block → Block) : (s.updBlock k f).keys = s.keys := rfl
@[simp] theorem State.updBlock_jig (k : Nat) (f : Block → Block) : (s.updBlock k f).jig = s.jig := rfl
@[simp] theorem State.updBlock_chk (k : Nat) (f : Block → Block) : (s.updBlock k f).chk = s.chk := rfl
@[simp] theorem State.updBlock_fab (k : Nat) (f : Block → Block) : (s.updBlock k f).fab = s.fab := rfl
@[simp] theorem State.updBlock_dcopy (k : Nat) (f : Block → Block) : (s.updBlock k f).dcopy = s.dcopy := rfl
@[simp] theorem State.updBlock_dcopyPts (k : Nat) (f : Block → Block) : (s.updBlock k f).dcopyPts = s.dcopyPts := rfl
@[simp] theorem State.updBlock_host (k : Nat) (f : Block → Block) : (s.updBlock k f).host = s.host := rfl
@[simp] theorem State.updBlock_stops (k : Nat) (f : Block → Block) : (s.updBlock k f).stops = s.stops := rfl
@[simp] theorem State.updBlock_sweeps (k : Nat) (f : Block → Block) : (s.updBlock k f).sweeps = s.sweeps := rfl
@[simp] theorem State.updBlock_signals (k : Nat) (f : Block → Block) : (s.updBlock k f).signals = s.signals := rfl
@[simp] theorem State.updBlock_vfs (k : Nat) (f : Block → Block) : (s.updBlock k f).vfs = s.vfs := rfl

/-! updTask -/

@[simp] theorem State.updTask_clock (v n : Nat) (f : Task → Task) : (s.updTask v n f).clock = s.clock := rfl
@[simp] theorem State.updTask_gsc (v n : Nat) (f : Task → Task) : (s.updTask v n f).gsc = s.gsc := rfl
@[simp] theorem State.updTask_epoch (v n : Nat) (f : Task → Task) : (s.updTask v n f).epoch = s.epoch := rfl
@[simp] theorem State.updTask_agenda (v n : Nat) (f : Task → Task) : (s.updTask v n f).agenda = s.agenda := rfl
@[simp] theorem State.updTask_inputs (v n : Nat) (f : Task → Task) : (s.updTask v n f).inputs = s.inputs := rfl
@[simp] theorem State.updTask_issue (v n : Nat) (f : Task → Task) : (s.updTask v n f).issue = s.issue := rfl
@[simp] theorem State.updTask_free (v n : Nat) (f : Task → Task) : (s.updTask v n f).free = s.free := rfl
@[simp] theorem State.updTask_nextId (v n : Nat) (f : Task → Task) : (s.updTask v n f).nextId = s.nextId := rfl
@[simp] theorem State.updTask_cur (v n : Nat) (f : Task → Task) : (s.updTask v n f).cur = s.cur := rfl
@[simp] theorem State.updTask_curB (v n : Nat) (f : Task → Task) : (s.updTask v n f).curB = s.curB := rfl
@[simp] theorem State.updTask_regs (v n : Nat) (f : Task → Task) : (s.updTask v n f).regs = s.regs := rfl
@[simp] theorem State.updTask_tdm (v n : Nat) (f : Task → Task) : (s.updTask v n f).tdm = s.tdm := rfl
@[simp] theorem State.updTask_clustersNow (v n : Nat) (f : Task → Task) : (s.updTask v n f).clustersNow = s.clustersNow := rfl
@[simp] theorem State.updTask_tasks (v n : Nat) (f : Task → Task) : (s.updTask v n f).tasks = AL.upd s.tasks (taskKey v n) f := rfl
@[simp] theorem State.updTask_posts (v n : Nat) (f : Task → Task) : (s.updTask v n f).posts = s.posts := rfl
@[simp] theorem State.updTask_sends (v n : Nat) (f : Task → Task) : (s.updTask v n f).sends = s.sends := rfl
@[simp] theorem State.updTask_blocks (v n : Nat) (f : Task → Task) : (s.updTask v n f).blocks = s.blocks := rfl
@[simp] theorem State.updTask_warps (v n : Nat) (f : Task → Task) : (s.updTask v n f).warps = s.warps := rfl
@[simp] theorem State.updTask_gangs (v n : Nat) (f : Task → Task) : (s.updTask v n f).gangs = s.gangs := rfl
@[simp] theorem State.updTask_quarters (v n : Nat) (f : Task → Task) : (s.updTask v n f).quarters = s.quarters := rfl
@[simp] theorem State.updTask_oldWeights (v n : Nat) (f : Task → Task) : (s.updTask v n f).oldWeights = s.oldWeights := rfl
@[simp] theorem State.updTask_placers (v n : Nat) (f : Task → Task) : (s.updTask v n f).placers = s.placers := rfl
@[simp] theorem State.updTask_clusterNext (v n : Nat) (f : Task → Task) : (s.updTask v n f).clusterNext = s.clusterNext := rfl
@[simp] theorem State.updTask_eng (v n : Nat) (f : Task → Task) : (s.updTask v n f).eng = s.eng := rfl
@[simp] theorem State.updTask_mm (v n : Nat) (f : Task → Task) : (s.updTask v n f).mm = s.mm := rfl
@[simp] theorem State.updTask_rep (v n : Nat) (f : Task → Task) : (s.updTask v n f).rep = s.rep := rfl
@[simp] theorem State.updTask_keys (v n : Nat) (f : Task → Task) : (s.updTask v n f).keys = s.keys := rfl
@[simp] theorem State.updTask_jig (v n : Nat) (f : Task → Task) : (s.updTask v n f).jig = s.jig := rfl
@[simp] theorem State.updTask_chk (v n : Nat) (f : Task → Task) : (s.updTask v n f).chk = s.chk := rfl
@[simp] theorem State.updTask_fab (v n : Nat) (f : Task → Task) : (s.updTask v n f).fab = s.fab := rfl
@[simp] theorem State.updTask_dcopy (v n : Nat) (f : Task → Task) : (s.updTask v n f).dcopy = s.dcopy := rfl
@[simp] theorem State.updTask_dcopyPts (v n : Nat) (f : Task → Task) : (s.updTask v n f).dcopyPts = s.dcopyPts := rfl
@[simp] theorem State.updTask_host (v n : Nat) (f : Task → Task) : (s.updTask v n f).host = s.host := rfl
@[simp] theorem State.updTask_stops (v n : Nat) (f : Task → Task) : (s.updTask v n f).stops = s.stops := rfl
@[simp] theorem State.updTask_sweeps (v n : Nat) (f : Task → Task) : (s.updTask v n f).sweeps = s.sweeps := rfl
@[simp] theorem State.updTask_signals (v n : Nat) (f : Task → Task) : (s.updTask v n f).signals = s.signals := rfl
@[simp] theorem State.updTask_vfs (v n : Nat) (f : Task → Task) : (s.updTask v n f).vfs = s.vfs := rfl

/-! setReg -/

@[simp] theorem State.setReg_clock (a b o : Nat) (x : DWord) : (s.setReg a b o x).clock = s.clock := rfl
@[simp] theorem State.setReg_gsc (a b o : Nat) (x : DWord) : (s.setReg a b o x).gsc = s.gsc := rfl
@[simp] theorem State.setReg_epoch (a b o : Nat) (x : DWord) : (s.setReg a b o x).epoch = s.epoch := rfl
@[simp] theorem State.setReg_agenda (a b o : Nat) (x : DWord) : (s.setReg a b o x).agenda = s.agenda := rfl
@[simp] theorem State.setReg_inputs (a b o : Nat) (x : DWord) : (s.setReg a b o x).inputs = s.inputs := rfl
@[simp] theorem State.setReg_issue (a b o : Nat) (x : DWord) : (s.setReg a b o x).issue = s.issue := rfl
@[simp] theorem State.setReg_free (a b o : Nat) (x : DWord) : (s.setReg a b o x).free = s.free := rfl
@[simp] theorem State.setReg_nextId (a b o : Nat) (x : DWord) : (s.setReg a b o x).nextId = s.nextId := rfl
@[simp] theorem State.setReg_cur (a b o : Nat) (x : DWord) : (s.setReg a b o x).cur = s.cur := rfl
@[simp] theorem State.setReg_curB (a b o : Nat) (x : DWord) : (s.setReg a b o x).curB = s.curB := rfl
@[simp] theorem State.setReg_regs (a b o : Nat) (x : DWord) : (s.setReg a b o x).regs = AL.put s.regs (regKey a b o) x := rfl
@[simp] theorem State.setReg_tdm (a b o : Nat) (x : DWord) : (s.setReg a b o x).tdm = s.tdm := rfl
@[simp] theorem State.setReg_clustersNow (a b o : Nat) (x : DWord) : (s.setReg a b o x).clustersNow = s.clustersNow := rfl
@[simp] theorem State.setReg_tasks (a b o : Nat) (x : DWord) : (s.setReg a b o x).tasks = s.tasks := rfl
@[simp] theorem State.setReg_posts (a b o : Nat) (x : DWord) : (s.setReg a b o x).posts = s.posts := rfl
@[simp] theorem State.setReg_sends (a b o : Nat) (x : DWord) : (s.setReg a b o x).sends = s.sends := rfl
@[simp] theorem State.setReg_blocks (a b o : Nat) (x : DWord) : (s.setReg a b o x).blocks = s.blocks := rfl
@[simp] theorem State.setReg_warps (a b o : Nat) (x : DWord) : (s.setReg a b o x).warps = s.warps := rfl
@[simp] theorem State.setReg_gangs (a b o : Nat) (x : DWord) : (s.setReg a b o x).gangs = s.gangs := rfl
@[simp] theorem State.setReg_quarters (a b o : Nat) (x : DWord) : (s.setReg a b o x).quarters = s.quarters := rfl
@[simp] theorem State.setReg_oldWeights (a b o : Nat) (x : DWord) : (s.setReg a b o x).oldWeights = s.oldWeights := rfl
@[simp] theorem State.setReg_placers (a b o : Nat) (x : DWord) : (s.setReg a b o x).placers = s.placers := rfl
@[simp] theorem State.setReg_clusterNext (a b o : Nat) (x : DWord) : (s.setReg a b o x).clusterNext = s.clusterNext := rfl
@[simp] theorem State.setReg_eng (a b o : Nat) (x : DWord) : (s.setReg a b o x).eng = s.eng := rfl
@[simp] theorem State.setReg_mm (a b o : Nat) (x : DWord) : (s.setReg a b o x).mm = s.mm := rfl
@[simp] theorem State.setReg_rep (a b o : Nat) (x : DWord) : (s.setReg a b o x).rep = s.rep := rfl
@[simp] theorem State.setReg_keys (a b o : Nat) (x : DWord) : (s.setReg a b o x).keys = s.keys := rfl
@[simp] theorem State.setReg_jig (a b o : Nat) (x : DWord) : (s.setReg a b o x).jig = s.jig := rfl
@[simp] theorem State.setReg_chk (a b o : Nat) (x : DWord) : (s.setReg a b o x).chk = s.chk := rfl
@[simp] theorem State.setReg_fab (a b o : Nat) (x : DWord) : (s.setReg a b o x).fab = s.fab := rfl
@[simp] theorem State.setReg_dcopy (a b o : Nat) (x : DWord) : (s.setReg a b o x).dcopy = s.dcopy := rfl
@[simp] theorem State.setReg_dcopyPts (a b o : Nat) (x : DWord) : (s.setReg a b o x).dcopyPts = s.dcopyPts := rfl
@[simp] theorem State.setReg_host (a b o : Nat) (x : DWord) : (s.setReg a b o x).host = s.host := rfl
@[simp] theorem State.setReg_stops (a b o : Nat) (x : DWord) : (s.setReg a b o x).stops = s.stops := rfl
@[simp] theorem State.setReg_sweeps (a b o : Nat) (x : DWord) : (s.setReg a b o x).sweeps = s.sweeps := rfl
@[simp] theorem State.setReg_signals (a b o : Nat) (x : DWord) : (s.setReg a b o x).signals = s.signals := rfl
@[simp] theorem State.setReg_vfs (a b o : Nat) (x : DWord) : (s.setReg a b o x).vfs = s.vfs := rfl

/-! modM -/

@[simp] theorem State.modM_clock (f : MemSys → MemSys) : (s.modM f).clock = s.clock := rfl
@[simp] theorem State.modM_gsc (f : MemSys → MemSys) : (s.modM f).gsc = s.gsc := rfl
@[simp] theorem State.modM_epoch (f : MemSys → MemSys) : (s.modM f).epoch = s.epoch := rfl
@[simp] theorem State.modM_agenda (f : MemSys → MemSys) : (s.modM f).agenda = s.agenda := rfl
@[simp] theorem State.modM_inputs (f : MemSys → MemSys) : (s.modM f).inputs = s.inputs := rfl
@[simp] theorem State.modM_issue (f : MemSys → MemSys) : (s.modM f).issue = s.issue := rfl
@[simp] theorem State.modM_free (f : MemSys → MemSys) : (s.modM f).free = s.free := rfl
@[simp] theorem State.modM_nextId (f : MemSys → MemSys) : (s.modM f).nextId = s.nextId := rfl
@[simp] theorem State.modM_cur (f : MemSys → MemSys) : (s.modM f).cur = s.cur := rfl
@[simp] theorem State.modM_curB (f : MemSys → MemSys) : (s.modM f).curB = s.curB := rfl
@[simp] theorem State.modM_regs (f : MemSys → MemSys) : (s.modM f).regs = s.regs := rfl
@[simp] theorem State.modM_tdm (f : MemSys → MemSys) : (s.modM f).tdm = s.tdm := rfl
@[simp] theorem State.modM_clustersNow (f : MemSys → MemSys) : (s.modM f).clustersNow = s.clustersNow := rfl
@[simp] theorem State.modM_tasks (f : MemSys → MemSys) : (s.modM f).tasks = s.tasks := rfl
@[simp] theorem State.modM_posts (f : MemSys → MemSys) : (s.modM f).posts = s.posts := rfl
@[simp] theorem State.modM_sends (f : MemSys → MemSys) : (s.modM f).sends = s.sends := rfl
@[simp] theorem State.modM_blocks (f : MemSys → MemSys) : (s.modM f).blocks = s.blocks := rfl
@[simp] theorem State.modM_warps (f : MemSys → MemSys) : (s.modM f).warps = s.warps := rfl
@[simp] theorem State.modM_gangs (f : MemSys → MemSys) : (s.modM f).gangs = s.gangs := rfl
@[simp] theorem State.modM_quarters (f : MemSys → MemSys) : (s.modM f).quarters = s.quarters := rfl
@[simp] theorem State.modM_oldWeights (f : MemSys → MemSys) : (s.modM f).oldWeights = s.oldWeights := rfl
@[simp] theorem State.modM_placers (f : MemSys → MemSys) : (s.modM f).placers = s.placers := rfl
@[simp] theorem State.modM_clusterNext (f : MemSys → MemSys) : (s.modM f).clusterNext = s.clusterNext := rfl
@[simp] theorem State.modM_eng (f : MemSys → MemSys) : (s.modM f).eng = s.eng := rfl
@[simp] theorem State.modM_mm (f : MemSys → MemSys) : (s.modM f).mm = f s.mm := rfl
@[simp] theorem State.modM_rep (f : MemSys → MemSys) : (s.modM f).rep = s.rep := rfl
@[simp] theorem State.modM_keys (f : MemSys → MemSys) : (s.modM f).keys = s.keys := rfl
@[simp] theorem State.modM_jig (f : MemSys → MemSys) : (s.modM f).jig = s.jig := rfl
@[simp] theorem State.modM_chk (f : MemSys → MemSys) : (s.modM f).chk = s.chk := rfl
@[simp] theorem State.modM_fab (f : MemSys → MemSys) : (s.modM f).fab = s.fab := rfl
@[simp] theorem State.modM_dcopy (f : MemSys → MemSys) : (s.modM f).dcopy = s.dcopy := rfl
@[simp] theorem State.modM_dcopyPts (f : MemSys → MemSys) : (s.modM f).dcopyPts = s.dcopyPts := rfl
@[simp] theorem State.modM_host (f : MemSys → MemSys) : (s.modM f).host = s.host := rfl
@[simp] theorem State.modM_stops (f : MemSys → MemSys) : (s.modM f).stops = s.stops := rfl
@[simp] theorem State.modM_sweeps (f : MemSys → MemSys) : (s.modM f).sweeps = s.sweeps := rfl
@[simp] theorem State.modM_signals (f : MemSys → MemSys) : (s.modM f).signals = s.signals := rfl
@[simp] theorem State.modM_vfs (f : MemSys → MemSys) : (s.modM f).vfs = s.vfs := rfl

/-! queueTerm -/

@[simp] theorem State.queueTerm_clock (n : Nat) (r : BitVec 256) (t : Option (Nat × Nat)) : (s.queueTerm n r t).clock = s.clock := rfl
@[simp] theorem State.queueTerm_gsc (n : Nat) (r : BitVec 256) (t : Option (Nat × Nat)) : (s.queueTerm n r t).gsc = s.gsc := rfl
@[simp] theorem State.queueTerm_epoch (n : Nat) (r : BitVec 256) (t : Option (Nat × Nat)) : (s.queueTerm n r t).epoch = s.epoch := rfl
@[simp] theorem State.queueTerm_agenda (n : Nat) (r : BitVec 256) (t : Option (Nat × Nat)) : (s.queueTerm n r t).agenda = s.agenda := rfl
@[simp] theorem State.queueTerm_inputs (n : Nat) (r : BitVec 256) (t : Option (Nat × Nat)) : (s.queueTerm n r t).inputs = s.inputs := rfl
@[simp] theorem State.queueTerm_issue (n : Nat) (r : BitVec 256) (t : Option (Nat × Nat)) : (s.queueTerm n r t).issue = s.issue := rfl
@[simp] theorem State.queueTerm_free (n : Nat) (r : BitVec 256) (t : Option (Nat × Nat)) : (s.queueTerm n r t).free = s.free := rfl
@[simp] theorem State.queueTerm_nextId (n : Nat) (r : BitVec 256) (t : Option (Nat × Nat)) : (s.queueTerm n r t).nextId = s.nextId := rfl
@[simp] theorem State.queueTerm_cur (n : Nat) (r : BitVec 256) (t : Option (Nat × Nat)) : (s.queueTerm n r t).cur = s.cur := rfl
@[simp] theorem State.queueTerm_curB (n : Nat) (r : BitVec 256) (t : Option (Nat × Nat)) : (s.queueTerm n r t).curB = s.curB := rfl
@[simp] theorem State.queueTerm_regs (n : Nat) (r : BitVec 256) (t : Option (Nat × Nat)) : (s.queueTerm n r t).regs = s.regs := rfl
@[simp] theorem State.queueTerm_tdm (n : Nat) (r : BitVec 256) (t : Option (Nat × Nat)) : (s.queueTerm n r t).tdm = s.tdm := rfl
@[simp] theorem State.queueTerm_clustersNow (n : Nat) (r : BitVec 256) (t : Option (Nat × Nat)) : (s.queueTerm n r t).clustersNow = s.clustersNow := rfl
@[simp] theorem State.queueTerm_tasks (n : Nat) (r : BitVec 256) (t : Option (Nat × Nat)) : (s.queueTerm n r t).tasks = s.tasks := rfl
@[simp] theorem State.queueTerm_posts (n : Nat) (r : BitVec 256) (t : Option (Nat × Nat)) : (s.queueTerm n r t).posts = s.posts := rfl
@[simp] theorem State.queueTerm_sends (n : Nat) (r : BitVec 256) (t : Option (Nat × Nat)) : (s.queueTerm n r t).sends = s.sends := rfl
@[simp] theorem State.queueTerm_blocks (n : Nat) (r : BitVec 256) (t : Option (Nat × Nat)) : (s.queueTerm n r t).blocks = s.blocks := rfl
@[simp] theorem State.queueTerm_warps (n : Nat) (r : BitVec 256) (t : Option (Nat × Nat)) : (s.queueTerm n r t).warps = s.warps := rfl
@[simp] theorem State.queueTerm_gangs (n : Nat) (r : BitVec 256) (t : Option (Nat × Nat)) : (s.queueTerm n r t).gangs = s.gangs := rfl
@[simp] theorem State.queueTerm_quarters (n : Nat) (r : BitVec 256) (t : Option (Nat × Nat)) : (s.queueTerm n r t).quarters = s.quarters := rfl
@[simp] theorem State.queueTerm_oldWeights (n : Nat) (r : BitVec 256) (t : Option (Nat × Nat)) : (s.queueTerm n r t).oldWeights = s.oldWeights := rfl
@[simp] theorem State.queueTerm_placers (n : Nat) (r : BitVec 256) (t : Option (Nat × Nat)) : (s.queueTerm n r t).placers = s.placers := rfl
@[simp] theorem State.queueTerm_clusterNext (n : Nat) (r : BitVec 256) (t : Option (Nat × Nat)) : (s.queueTerm n r t).clusterNext = s.clusterNext := rfl
@[simp] theorem State.queueTerm_eng (n : Nat) (r : BitVec 256) (t : Option (Nat × Nat)) : (s.queueTerm n r t).eng = s.eng := rfl
@[simp] theorem State.queueTerm_mm (n : Nat) (r : BitVec 256) (t : Option (Nat × Nat)) : (s.queueTerm n r t).mm = s.mm := rfl
@[simp] theorem State.queueTerm_rep (n : Nat) (r : BitVec 256) (t : Option (Nat × Nat)) : (s.queueTerm n r t).rep = { s.rep with term := s.rep.term ++ [⟨n, r, t⟩] } := rfl
@[simp] theorem State.queueTerm_keys (n : Nat) (r : BitVec 256) (t : Option (Nat × Nat)) : (s.queueTerm n r t).keys = s.keys := rfl
@[simp] theorem State.queueTerm_jig (n : Nat) (r : BitVec 256) (t : Option (Nat × Nat)) : (s.queueTerm n r t).jig = s.jig := rfl
@[simp] theorem State.queueTerm_chk (n : Nat) (r : BitVec 256) (t : Option (Nat × Nat)) : (s.queueTerm n r t).chk = s.chk := rfl
@[simp] theorem State.queueTerm_fab (n : Nat) (r : BitVec 256) (t : Option (Nat × Nat)) : (s.queueTerm n r t).fab = s.fab := rfl
@[simp] theorem State.queueTerm_dcopy (n : Nat) (r : BitVec 256) (t : Option (Nat × Nat)) : (s.queueTerm n r t).dcopy = s.dcopy := rfl
@[simp] theorem State.queueTerm_dcopyPts (n : Nat) (r : BitVec 256) (t : Option (Nat × Nat)) : (s.queueTerm n r t).dcopyPts = s.dcopyPts := rfl
@[simp] theorem State.queueTerm_host (n : Nat) (r : BitVec 256) (t : Option (Nat × Nat)) : (s.queueTerm n r t).host = s.host := rfl
@[simp] theorem State.queueTerm_stops (n : Nat) (r : BitVec 256) (t : Option (Nat × Nat)) : (s.queueTerm n r t).stops = s.stops := rfl
@[simp] theorem State.queueTerm_sweeps (n : Nat) (r : BitVec 256) (t : Option (Nat × Nat)) : (s.queueTerm n r t).sweeps = s.sweeps := rfl
@[simp] theorem State.queueTerm_signals (n : Nat) (r : BitVec 256) (t : Option (Nat × Nat)) : (s.queueTerm n r t).signals = s.signals := rfl
@[simp] theorem State.queueTerm_vfs (n : Nat) (r : BitVec 256) (t : Option (Nat × Nat)) : (s.queueTerm n r t).vfs = s.vfs := rfl

/-! The updates of the current warp, path and block in terms of those above -/

@[simp] theorem State.setW_eq (w : Warp) : s.setW w = s.putWarp s.cur w := rfl
@[simp] theorem State.modW_eq (f : Warp → Warp) : s.modW f = s.putWarp s.cur (f s.w) := rfl
@[simp] theorem State.modPath_eq (f : Path → Path) : s.modPath f = s.putWarp s.cur (s.w.setPath s.curB (f (s.w.path s.curB))) := rfl
@[simp] theorem State.modB_eq (f : Block → Block) : s.modB f = s.updBlock s.bid f := rfl
@[simp] theorem State.fresh_eq : s.fresh = (s.nextId, { s with nextId := s.nextId + 1 }) := rfl

/-! Warps, blocks, tasks and registers read after an update -/

@[simp] theorem State.warpOf_putWarp (k : Nat) (x : Warp) : (s.putWarp k x).warpOf k = x := AL.getD_put_self _ _ _ _
theorem State.warpOf_putWarp_ne (k : Nat) (x : Warp) {j : Nat} (h : j ≠ k) : (s.putWarp k x).warpOf j = s.warpOf j := AL.getD_put_ne _ _ _ h
theorem State.warpOf_updWarp (k : Nat) (f : Warp → Warp) (h : AL.has s.warps k = true) : (s.updWarp k f).warpOf k = f (s.warpOf k) := AL.getD_upd_self _ _ _ _ h
theorem State.warpOf_updWarp_ne (k : Nat) (f : Warp → Warp) {j : Nat} (h : j ≠ k) : (s.updWarp k f).warpOf j = s.warpOf j := AL.getD_upd_ne _ _ _ h
@[simp] theorem State.w_putWarp (x : Warp) : (s.putWarp s.cur x).w = x := AL.getD_put_self _ _ _ _
@[simp] theorem State.path_putWarp (x : Warp) : (s.putWarp s.cur x).path = x.path s.curB := by simp [State.path]
theorem State.blockOf_updBlock (k : Nat) (f : Block → Block) (h : AL.has s.blocks k = true) : (s.updBlock k f).blockOf k = f (s.blockOf k) := AL.getD_upd_self _ _ _ _ h
theorem State.blockOf_updBlock_ne (k : Nat) (f : Block → Block) {j : Nat} (h : j ≠ k) : (s.updBlock k f).blockOf j = s.blockOf j := AL.getD_upd_ne _ _ _ h
@[simp] theorem State.blockOf_putWarp (k j : Nat) (x : Warp) : (s.putWarp k x).blockOf j = s.blockOf j := rfl
@[simp] theorem State.reg_putWarp (k a b o : Nat) (x : Warp) : (s.putWarp k x).reg a b o = s.reg a b o := rfl
@[simp] theorem State.memByte_putWarp (k a : Nat) (x : Warp) : (s.putWarp k x).memByte a = s.memByte a := rfl
@[simp] theorem State.reg_setReg (a b o : Nat) (x : DWord) : (s.setReg a b o x).reg a b o = x := by simp [State.reg]
theorem State.reg_setReg_ne (a b o a' b' o' : Nat) (x : DWord) (h : regKey a' b' o' ≠ regKey a b o) : (s.setReg a b o x).reg a' b' o' = s.reg a' b' o' := by
  simp [State.reg, AL.get?_put_ne _ _ h]

/-! Paths of a warp -/

@[simp] theorem Warp.path_setPath (w : Warp) (b : Bool) (p : Path) : (w.setPath b p).path b = p := by cases b <;> rfl
@[simp] theorem Warp.path_setPath_not (w : Warp) (b : Bool) (p : Path) : (w.setPath b p).path (!b) = w.path (!b) := by cases b <;> rfl
@[simp] theorem Warp.setPath_bid (w : Warp) (b : Bool) (p : Path) : (w.setPath b p).bid = w.bid := by cases b <;> rfl
@[simp] theorem Warp.setPath_idx (w : Warp) (b : Bool) (p : Path) : (w.setPath b p).idx = w.idx := by cases b <;> rfl
@[simp] theorem Warp.setPath_v (w : Warp) (b : Bool) (p : Path) : (w.setPath b p).v = w.v := by cases b <;> rfl
@[simp] theorem Warp.setPath_s (w : Warp) (b : Bool) (p : Path) : (w.setPath b p).s = w.s := by cases b <;> rfl
@[simp] theorem Warp.setPath_p (w : Warp) (b : Bool) (p : Path) : (w.setPath b p).p = w.p := by cases b <;> rfl
@[simp] theorem Warp.setPath_b (w : Warp) (b : Bool) (p : Path) : (w.setPath b p).b = w.b := by cases b <;> rfl
@[simp] theorem Warp.setPath_q (w : Warp) (b : Bool) (p : Path) : (w.setPath b p).q = w.q := by cases b <;> rfl
@[simp] theorem Warp.setPath_live (w : Warp) (b : Bool) (p : Path) : (w.setPath b p).live = w.live := by cases b <;> rfl
@[simp] theorem Warp.setPath_split (w : Warp) (b : Bool) (p : Path) : (w.setPath b p).split = w.split := by cases b <;> rfl
@[simp] theorem Warp.setPath_top (w : Warp) (b : Bool) (p : Path) : (w.setPath b p).top = w.top := by cases b <;> rfl
@[simp] theorem Warp.setPath_helper (w : Warp) (b : Bool) (p : Path) : (w.setPath b p).helper = w.helper := by cases b <;> rfl
@[simp] theorem Warp.setPath_fpflags (w : Warp) (b : Bool) (p : Path) : (w.setPath b p).fpflags = w.fpflags := by cases b <;> rfl
@[simp] theorem Warp.setPath_role (w : Warp) (b : Bool) (p : Path) : (w.setPath b p).role = w.role := by cases b <;> rfl
@[simp] theorem Warp.setPath_allot (w : Warp) (b : Bool) (p : Path) : (w.setPath b p).allot = w.allot := by cases b <;> rfl
@[simp] theorem Warp.setPath_prio (w : Warp) (b : Bool) (p : Path) : (w.setPath b p).prio = w.prio := by cases b <;> rfl
@[simp] theorem Warp.setPath_xpc (w : Warp) (b : Bool) (p : Path) : (w.setPath b p).xpc = w.xpc := by cases b <;> rfl
@[simp] theorem Warp.setPath_xfirst (w : Warp) (b : Bool) (p : Path) : (w.setPath b p).xfirst = w.xfirst := by cases b <;> rfl
@[simp] theorem Warp.setPath_xaddr (w : Warp) (b : Bool) (p : Path) : (w.setPath b p).xaddr = w.xaddr := by cases b <;> rfl
@[simp] theorem Warp.setPath_xcode (w : Warp) (b : Bool) (p : Path) : (w.setPath b p).xcode = w.xcode := by cases b <;> rfl
@[simp] theorem Warp.setPath_inHandler (w : Warp) (b : Bool) (p : Path) : (w.setPath b p).inHandler = w.inHandler := by cases b <;> rfl
@[simp] theorem Warp.setPath_handlerB (w : Warp) (b : Bool) (p : Path) : (w.setPath b p).handlerB = w.handlerB := by cases b <;> rfl
@[simp] theorem Warp.setPath_xmode (w : Warp) (b : Bool) (p : Path) : (w.setPath b p).xmode = w.xmode := by cases b <;> rfl
@[simp] theorem Warp.setPath_xfmt (w : Warp) (b : Bool) (p : Path) : (w.setPath b p).xfmt = w.xfmt := by cases b <;> rfl
@[simp] theorem Warp.setPath_handlerDepth (w : Warp) (b : Bool) (p : Path) : (w.setPath b p).handlerDepth = w.handlerDepth := by cases b <;> rfl
@[simp] theorem Warp.setPath_point (w : Warp) (b : Bool) (p : Path) : (w.setPath b p).point = w.point := by cases b <;> rfl
@[simp] theorem Warp.setPath_recipe (w : Warp) (b : Bool) (p : Path) : (w.setPath b p).recipe = w.recipe := by cases b <;> rfl
@[simp] theorem Warp.setPath_pts (w : Warp) (b : Bool) (p : Path) : (w.setPath b p).pts = w.pts := by cases b <;> rfl
@[simp] theorem Warp.setPath_pend (w : Warp) (b : Bool) (p : Path) : (w.setPath b p).pend = w.pend := by cases b <;> rfl
@[simp] theorem Warp.setPath_slow (w : Warp) (b : Bool) (p : Path) : (w.setPath b p).slow = w.slow := by cases b <;> rfl
@[simp] theorem Warp.setPath_acc (w : Warp) (b : Bool) (p : Path) : (w.setPath b p).acc = w.acc := by cases b <;> rfl
@[simp] theorem Warp.setPath_roleSince (w : Warp) (b : Bool) (p : Path) : (w.setPath b p).roleSince = w.roleSince := by cases b <;> rfl
@[simp] theorem Warp.setPath_dbg (w : Warp) (b : Bool) (p : Path) : (w.setPath b p).dbg = w.dbg := by cases b <;> rfl
@[simp] theorem Warp.setPath_stepping (w : Warp) (b : Bool) (p : Path) : (w.setPath b p).stepping = w.stepping := by cases b <;> rfl
@[simp] theorem Warp.setPath_saved (w : Warp) (b : Bool) (p : Path) : (w.setPath b p).saved = w.saved := by cases b <;> rfl
@[simp] theorem Warp.setPath_exited (w : Warp) (b : Bool) (p : Path) : (w.setPath b p).exited = w.exited := by cases b <;> rfl

end Sys2Proof.Machine
end

