-- ==== Sys2Proof/Laws/Memory.lean ====
section
/-! SUPPORT. Every operation that writes the memory list keeps its canonical form, and the state after reset has it. -/

set_option Elab.async false

namespace Sys2Proof.Machine

theorem State.reset_mem_wf : Tbl.wf State.reset.mm.mem = true := by decide

theorem State.Inv.of_mem {s t : State} (h : s.Inv) (e : t.mm.mem = s.mm.mem) : t.Inv := by
  unfold State.Inv at *
  rw [e]; exact h

theorem State.foldl_mem {α : Type} (f : State → α → State) (hf : ∀ s a, (f s a).mm.mem = s.mm.mem) (l : List α) : ∀ s : State, (l.foldl f s).mm.mem = s.mm.mem := by
  induction l with
  | nil => exact fun _ => rfl
  | cons a l ih => exact fun s => (ih (f s a)).trans (hf s a)

theorem State.foldl_inv {α : Type} (f : State → α → State) (hf : ∀ s a, s.Inv → (f s a).Inv) (l : List α) : ∀ s : State, s.Inv → (l.foldl f s).Inv := by
  induction l with
  | nil => exact fun _ h => h
  | cons a l ih => exact fun s h => ih (f s a) (hf s a h)

/-! Operations at home write the dirty bytes of the slices, and no byte of the list behind them -/

theorem State.setMemByte_mem (s : State) (a : Nat) (b : Byte) : (s.setMemByte a b).mm.mem = s.mm.mem := rfl
theorem State.setTag_mem (s : State) (a tag : Nat) : (s.setTag a tag).mm.mem = s.mm.mem := rfl
theorem State.discardDirty_mem (s : State) (sec : Nat) : (s.discardDirty sec).mm.mem = s.mm.mem := rfl
theorem State.dropL1_mem (s : State) (line : Nat) : (s.dropL1 line).mm.mem = s.mm.mem := rfl

theorem State.rebaseIf_mem (s : State) (t : Nat) : (s.rebaseIf t).mm.mem = s.mm.mem := by
  unfold State.rebaseIf
  split <;> rfl

theorem State.noteTime_mem (s : State) (d : Nat) (t : BitVec 40) : (s.noteTime d t).mm.mem = s.mm.mem := by
  unfold State.noteTime State.modM
  dsimp only
  split <;> rfl

theorem State.ite_mem {c : Prop} [Decidable c] {s t u : State} (hs : s.mm.mem = u.mm.mem) (ht : t.mm.mem = u.mm.mem) : (if c then s else t).mm.mem = u.mm.mem := by
  split
  · exact hs
  · exact ht

theorem State.ite_dropL1_mem (b : Bool) (s : State) (line : Nat) : (if b then s.dropL1 line else s).mm.mem = s.mm.mem := State.ite_mem rfl rfl

theorem State.homeTime_mem (s : State) (line : Nat) (pts : BitVec 40) : (s.homeTime line pts).2.mm.mem = s.mm.mem := by
  unfold State.homeTime
  exact (State.ite_dropL1_mem _ _ _).trans ((State.noteTime_mem _ _ _).trans (State.rebaseIf_mem _ _))

theorem State.bumpFrame_mem (s : State) (frame : Nat) : (s.bumpFrame frame).mm.mem = s.mm.mem :=
  State.foldl_mem (fun (s : State) (r : Region) => s.unwatch r) (fun _ _ => rfl) _ _

theorem State.applyLine_mem (s : State) (dom line : Nat) (bs : List (Nat × Nat)) (tag : Option Nat) : (s.applyLine dom line bs tag).mm.mem = s.mm.mem := by
  refine (State.bumpFrame_mem _ _).trans ?_
  cases tag with
  | none => exact State.foldl_mem _ (fun _ _ => State.setMemByte_mem _ _ _) _ _
  | some x => exact (State.foldl_mem _ (fun _ _ => State.setTag_mem _ _ _) _ _).trans (State.foldl_mem _ (fun _ _ => State.setMemByte_mem _ _ _) _ _)

theorem State.writeRecordAt_mem (s : State) (spa : Nat) (r : BitVec 256) : (s.writeRecordAt spa r).mm.mem = s.mm.mem :=
  State.ite_mem ((State.foldl_mem _ (fun _ _ => State.setMemByte_mem _ _ _) _ _).trans (State.homeTime_mem _ _ _)) rfl

theorem State.signal_mem (s : State) (fn vec : Nat) : (s.signal fn vec).mm.mem = s.mm.mem := rfl
theorem State.setReg_mem (s : State) (fn blk off : Nat) (x : DWord) : (s.setReg fn blk off x).mm.mem = s.mm.mem := rfl
theorem State.setRingReg_mem (s : State) (r k v : Nat) : (s.setRingReg r k v).mm.mem = s.mm.mem := State.setReg_mem _ _ _ _ _
theorem State.regSat_mem (s : State) (fn blk off n k : Nat) : (s.regSat fn blk off n k).mm.mem = s.mm.mem := State.setReg_mem _ _ _ _ _
theorem State.setRegBits_mem (s : State) (fn blk off hi lo v : Nat) : (s.setRegBits fn blk off hi lo v).mm.mem = s.mm.mem := State.setReg_mem _ _ _ _ _

theorem State.ringAdvance_mem (s : State) (r : Nat) : (s.ringAdvance r).mm.mem = s.mm.mem :=
  State.ite_mem ((State.signal_mem _ _ _).trans (State.setRingReg_mem _ _ _ _)) (State.setRingReg_mem _ _ _ _)

theorem State.drainNotices_mem (l : List (BitVec 256)) : ∀ s : State, (s.drainNotices l).mm.mem = s.mm.mem := by
  induction l with
  | nil => exact fun _ => rfl
  | cons r l ih => exact fun s => State.ite_mem ((ih _).trans ((State.ringAdvance_mem _ _).trans (State.writeRecordAt_mem _ _ _))) rfl

theorem State.notice_mem (s : State) (typ port pkg part vf task detail : Nat) : (s.notice typ port pkg part vf task detail).mm.mem = s.mm.mem :=
  State.drainNotices_mem _ _

theorem State.errBank_mem (s : State) (fn bank : Nat) (uc attr : Bool) (dom kind addr : Nat) : (s.errBank fn bank uc attr dom kind addr).mm.mem = s.mm.mem := by
  have take : ∀ (s : State) (a b c : Nat) (x y z : DWord), (((s.setReg fn blkErr a x).setReg fn blkErr b y).setReg fn blkErr c z).mm.mem = s.mm.mem := fun _ _ _ _ _ _ _ => rfl
  unfold State.errBank
  refine State.ite_mem ?_ ?_
  · exact (State.regSat_mem _ _ _ _ _ _).trans (State.ite_mem (take _ _ _ _ _ _ _) ((State.notice_mem _ _ _ _ _ _ _ _).trans (State.setReg_mem _ _ _ _ _)))
  · exact State.ite_mem (State.ite_mem (take _ _ _ _ _ _ _) rfl) ((State.setRegBits_mem _ _ _ _ _ _ _).trans (State.ite_mem (take _ _ _ _ _ _ _) rfl))

theorem State.lineDomain_mem (s : State) (line dom : Nat) : (s.lineDomain line dom).mm.mem = s.mm.mem := by
  unfold State.lineDomain
  split
  · split
    · rfl
    · exact (State.errBank_mem _ _ _ _ _ _ _ _).trans (State.foldl_mem _ (fun _ _ => State.discardDirty_mem _ _) _ _)
  · rfl

theorem State.quietWrite_mem (s : State) (spa : Nat) (l : List Nat) : (s.quietWrite spa l).mm.mem = s.mm.mem :=
  State.ite_mem rfl ((State.foldl_mem _ (fun _ _ => State.setMemByte_mem _ _ _) _ _).trans ((State.homeTime_mem _ _ _).trans (State.lineDomain_mem _ _ _)))

theorem State.unitError_mem (s : State) (unit : Nat) (uc : Bool) (kind spa consumer : Nat) : (s.unitError unit uc kind spa consumer).mm.mem = s.mm.mem :=
  have h := State.errBank_mem
  State.ite_mem ((h _ _ _ _ _ _ _ _).trans (h _ _ _ _ _ _ _ _)) (State.ite_mem ((h _ _ _ _ _ _ _ _).trans (h _ _ _ _ _ _ _ _)) (h _ _ _ _ _ _ _ _))

theorem State.memError_mem (s : State) (uc : Bool) (kind spa consumer : Nat) : (s.memError uc kind spa consumer).mm.mem = s.mm.mem := State.unitError_mem _ _ _ _ _ _

theorem State.raisePath_mem (s : State) (dom slot : Nat) : (s.raisePath dom slot).mm.mem = s.mm.mem := by
  unfold State.raisePath
  exact State.foldl_mem _ (by intro s k; rfl) _ _

theorem State.eccStep_mem (s : State) (sec consumer : Nat) : (s.eccStep sec consumer).2.mm.mem = s.mm.mem := by
  unfold State.eccStep
  split
  · rfl
  · dsimp only
    split
    · exact State.unitError_mem _ _ _ _ _ _
    · split
      · exact State.memError_mem _ _ _ _ _
      · exact State.memError_mem _ _ _ _ _

theorem State.ctrPut_mem (s : State) (dom k i : Nat) (d : Bool) : (s.ctrPut dom k i d).mm.mem = s.mm.mem := State.ite_mem rfl rfl

theorem State.ctrFill_mem (s : State) (dom slot : Nat) : (s.ctrFill dom slot).mm.mem = s.mm.mem :=
  State.foldl_mem _ (fun _ _ => State.ctrPut_mem _ _ _ _ _) _ _

/-! The operations that write the list keep its form -/

theorem State.ite_inv {c : Prop} [Decidable c] {s t : State} (hs : s.Inv) (ht : t.Inv) : (if c then s else t).Inv := by
  split
  · exact hs
  · exact ht

theorem State.Inv.after_set {s t : State} (l : List (Nat × Byte)) (h : s.Inv) (e : t.mm.mem = l.foldl (fun t e => Tbl.set t e.1 e.2) s.mm.mem) : t.Inv := by
  unfold State.Inv at *
  rw [e]; exact Tbl.wf_foldl_set l _ h

/-- Writing back a sector keeps the form. -/
theorem State.writeBackSector_inv (s : State) (sec : Nat) (h : s.Inv) : (s.writeBackSector sec).Inv := by
  have bad : ∀ t : State, t.mm.mem = s.mm.mem → (t.memError true 4 (sec * 64) Config.vfs).Inv := fun t e => h.of_mem ((State.memError_mem _ _ _ _ _).trans e)
  have start : ∀ x : Bool × State, x = (if (s.dirtyOf sec).length = 64 then (false, s.modM fun m => { m with upsets := AL.del m.upsets sec }) else s.eccStep sec Config.vfs) → x.2.mm.mem = s.mm.mem := by
    intro x e
    rw [e]
    split
    · rfl
    · exact State.eccStep_mem s sec _
  unfold State.writeBackSector
  dsimp only
  generalize hx : (if (s.dirtyOf sec).length = 64 then (false, s.modM fun m => { m with upsets := AL.del m.upsets sec }) else s.eccStep sec Config.vfs) = x
  have hm := start x hx.symm
  refine State.ite_inv h (State.ite_inv (bad _ rfl) (State.ite_inv (bad _ hm) (State.ite_inv (bad _ hm) ?_)))
  refine h.after_set (s.dirtyOf sec).reverse ?_
  show List.foldl _ (State.ctrPut _ _ _ _ _).mm.mem _ = _
  rw [State.ctrPut_mem, State.ctrFill_mem]
  show List.foldl _ x.2.mm.mem _ = _
  rw [hm]

/-- Writing back a line keeps the form. -/
theorem State.writeBackLine_inv (s : State) (line : Nat) (h : s.Inv) : (s.writeBackLine line).Inv :=
  State.foldl_inv _ (fun s _ hs => State.writeBackSector_inv s _ hs) _ s h

/-- Flushing domains keeps the form. -/
theorem State.flushDomains_inv (s : State) (p : Nat → Bool) (h : s.Inv) : (s.flushDomains p).Inv :=
  State.foldl_inv _ (fun s l hs => State.writeBackLine_inv s l hs) _ s h

/-- The scrub of an adopted frame keeps the form. -/
theorem State.adoptScrub_inv (s : State) (frame : Nat) (h : s.Inv) : (s.adoptScrub frame).Inv := Tbl.wf_filter _ _ h

/-- Bytes loaded from outside keep the form. -/
theorem State.loadBytes_inv (s : State) (spa : Nat) (l : List Nat) (h : s.Inv) : (s.loadBytes spa l).Inv := Tbl.wf_setBytes _ _ _ h

/-- Loading a program keeps the form. -/
theorem State.loadProgram_inv (s : State) (l : List Nat) (h : s.Inv) : (s.loadProgram l).Inv := State.loadBytes_inv s _ l h

theorem State.setDir_mem (s : State) (die cause : Nat) : (s.setDir die cause).mm.mem = s.mm.mem := rfl

theorem State.setReg_inv (s : State) (fn blk off : Nat) (x : DWord) (h : s.Inv) : (s.setReg fn blk off x).Inv := h

/-- Starting the firmware, with the carve-out scrubbed, keeps the form. -/
theorem State.bootStart_inv (s : State) (h : s.Inv) : s.bootStart.Inv := by
  unfold State.bootStart State.setBstate State.setRegBits
  dsimp only
  apply State.setReg_inv
  apply State.foldl_inv _ (fun s k hs => State.setReg_inv s _ _ _ _ hs)
  apply State.setReg_inv
  apply State.foldl_inv _ (fun s d hs => ?_)
  · exact Tbl.wf_filter _ _ h
  · split
    · exact hs.of_mem (State.setDir_mem _ _ _)
    · exact hs

end Sys2Proof.Machine
end

