-- ==== Sys2Proof/Laws/PerInstr.lean ====
section
/-! SUPPORT. Laws stated for each constructor: an instruction is one to ten whole words long (R320). -/

set_option Elab.async false

namespace Sys2Proof.Laws.Length

/-- A well-formed instruction is a whole number of words, from one to ten (R320). -/
def Statement (i : Instr) : Prop := i.wf = true → ∃ n, i.length = 4 * n ∧ 1 ≤ n ∧ n ≤ maxWords

/-- An instruction of one word. -/
theorem ofOne {i : Instr} (h : i.length = 4) : Statement i := fun _ => ⟨1, h, Nat.le_refl 1, by decide⟩

/-- An instruction of two words. -/
theorem ofTwo {i : Instr} (h : i.length = 8) : Statement i := fun _ => ⟨2, h, by decide, by decide⟩

theorem nop : Statement (.nop) := ofOne rfl
theorem exit : Statement (.exit) := ofOne rfl
theorem yield : Statement (.yield) := ofOne rfl
theorem trap : ∀ x0, Statement (.trap x0) := fun _ => ofOne rfl
theorem brkpt : Statement (.brkpt) := ofOne rfl
theorem eret : ∀ x0, Statement (.eret x0) := fun _ => ofOne rfl
theorem rwp : ∀ x0, Statement (.rwp x0) := fun _ => ofTwo rfl
theorem join : Statement (.join) := ofOne rfl
theorem ret : ∀ x0, Statement (.ret x0) := fun _ => ofOne rfl
theorem jmpr : ∀ x0, Statement (.jmpr x0) := fun _ => ofOne rfl
theorem qhelpOn : Statement (.qhelpOn) := ofOne rfl
theorem qhelpOff : Statement (.qhelpOff) := ofOne rfl
theorem bra : ∀ x0, Statement (.bra x0) := fun _ => ofOne rfl
theorem call : ∀ x0, Statement (.call x0) := fun _ => ofOne rfl
theorem bs : ∀ x0 x1 x2, Statement (.bs x0 x1 x2) := fun _ _ _ => ofOne rfl
theorem vbr : ∀ x0 x1 x2, Statement (.vbr x0 x1 x2) := fun _ _ _ => ofTwo rfl
theorem vswitch (n va sb : Nat) (table : List Int) : Statement (.vswitch n va sb table) := by
  intro h
  simp only [Instr.wf, Bool.and_eq_true, decide_eq_true_eq] at h
  exact ⟨n + 2, rfl, Nat.le_add_left 1 (n + 1), Nat.add_le_add_right h.1.1.1.2 2⟩
theorem mode : ∀ x0 x1, Statement (.mode x0 x1) := fun _ _ => ofTwo rfl
theorem modex : ∀ x0 x1, Statement (.modex x0 x1) := fun _ _ => ofOne rfl
theorem sregS : ∀ x0 x1, Statement (.sregS x0 x1) := fun _ _ => ofOne rfl
theorem sregV : ∀ x0 x1, Statement (.sregV x0 x1) := fun _ _ => ofOne rfl
theorem mfmt : ∀ x0, Statement (.mfmt x0) := fun _ => ofOne rfl
theorem role : ∀ x0, Statement (.role x0) := fun _ => ofOne rfl
theorem vadd : ∀ x0 x1 x2, Statement (.vadd x0 x1 x2) := fun _ _ _ => ofOne rfl
theorem vsub : ∀ x0 x1 x2, Statement (.vsub x0 x1 x2) := fun _ _ _ => ofOne rfl
theorem vmul : ∀ x0 x1 x2, Statement (.vmul x0 x1 x2) := fun _ _ _ => ofOne rfl
theorem vmin : ∀ x0 x1 x2, Statement (.vmin x0 x1 x2) := fun _ _ _ => ofOne rfl
theorem vmax : ∀ x0 x1 x2, Statement (.vmax x0 x1 x2) := fun _ _ _ => ofOne rfl
theorem vfma : ∀ x0 x1 x2, Statement (.vfma x0 x1 x2) := fun _ _ _ => ofOne rfl
theorem vfms : ∀ x0 x1 x2, Statement (.vfms x0 x1 x2) := fun _ _ _ => ofOne rfl
theorem vdiv : ∀ x0 x1 x2, Statement (.vdiv x0 x1 x2) := fun _ _ _ => ofOne rfl
theorem vand : ∀ x0 x1 x2, Statement (.vand x0 x1 x2) := fun _ _ _ => ofOne rfl
theorem vor : ∀ x0 x1 x2, Statement (.vor x0 x1 x2) := fun _ _ _ => ofOne rfl
theorem vxor : ∀ x0 x1 x2, Statement (.vxor x0 x1 x2) := fun _ _ _ => ofOne rfl
theorem vshl : ∀ x0 x1 x2, Statement (.vshl x0 x1 x2) := fun _ _ _ => ofOne rfl
theorem vshr : ∀ x0 x1 x2, Statement (.vshr x0 x1 x2) := fun _ _ _ => ofOne rfl
theorem vmulhi : ∀ x0 x1 x2, Statement (.vmulhi x0 x1 x2) := fun _ _ _ => ofOne rfl
theorem vdot4 : ∀ x0 x1 x2, Statement (.vdot4 x0 x1 x2) := fun _ _ _ => ofOne rfl
theorem vsel : ∀ x0 x1 x2, Statement (.vsel x0 x1 x2) := fun _ _ _ => ofOne rfl
theorem vabs : ∀ x0 x1, Statement (.vabs x0 x1) := fun _ _ => ofOne rfl
theorem vneg : ∀ x0 x1, Statement (.vneg x0 x1) := fun _ _ => ofOne rfl
theorem vnot : ∀ x0 x1, Statement (.vnot x0 x1) := fun _ _ => ofOne rfl
theorem vrcp : ∀ x0 x1, Statement (.vrcp x0 x1) := fun _ _ => ofOne rfl
theorem vrsq : ∀ x0 x1, Statement (.vrsq x0 x1) := fun _ _ => ofOne rfl
theorem vsqrt : ∀ x0 x1, Statement (.vsqrt x0 x1) := fun _ _ => ofOne rfl
theorem vexp2 : ∀ x0 x1, Statement (.vexp2 x0 x1) := fun _ _ => ofOne rfl
theorem vlog2 : ∀ x0 x1, Statement (.vlog2 x0 x1) := fun _ _ => ofOne rfl
theorem vsin : ∀ x0 x1, Statement (.vsin x0 x1) := fun _ _ => ofOne rfl
theorem vcos : ∀ x0 x1, Statement (.vcos x0 x1) := fun _ _ => ofOne rfl
theorem vpopc : ∀ x0 x1, Statement (.vpopc x0 x1) := fun _ _ => ofOne rfl
theorem vclz : ∀ x0 x1, Statement (.vclz x0 x1) := fun _ _ => ofOne rfl
theorem vmov : ∀ x0 x1, Statement (.vmov x0 x1) := fun _ _ => ofOne rfl
theorem vcvt : ∀ x0 x1 x2, Statement (.vcvt x0 x1 x2) := fun _ _ _ => ofOne rfl
theorem vbfe : ∀ x0 x1 x2, Statement (.vbfe x0 x1 x2) := fun _ _ _ => ofOne rfl
theorem vbfi : ∀ x0 x1 x2, Statement (.vbfi x0 x1 x2) := fun _ _ _ => ofOne rfl
theorem vmovi : ∀ x0 x1, Statement (.vmovi x0 x1) := fun _ _ => ofOne rfl
theorem vmoviLiteral : ∀ x0 x1, Statement (.vmoviLiteral x0 x1) := fun _ _ => ofTwo rfl
theorem vcmp : ∀ x0 x1 x2 x3, Statement (.vcmp x0 x1 x2 x3) := fun _ _ _ _ => ofOne rfl
theorem pand : ∀ x0 x1 x2, Statement (.pand x0 x1 x2) := fun _ _ _ => ofOne rfl
theorem por : ∀ x0 x1 x2, Statement (.por x0 x1 x2) := fun _ _ _ => ofOne rfl
theorem pxor : ∀ x0 x1 x2, Statement (.pxor x0 x1 x2) := fun _ _ _ => ofOne rfl
theorem pnot : ∀ x0 x1, Statement (.pnot x0 x1) := fun _ _ => ofOne rfl
theorem pmovPS : ∀ x0 x1, Statement (.pmovPS x0 x1) := fun _ _ => ofOne rfl
theorem pmovSP : ∀ x0 x1, Statement (.pmovSP x0 x1) := fun _ _ => ofOne rfl
theorem pcnt : ∀ x0 x1, Statement (.pcnt x0 x1) := fun _ _ => ofOne rfl
theorem pffs : ∀ x0 x1, Statement (.pffs x0 x1) := fun _ _ => ofOne rfl
theorem pmovPP : ∀ x0 x1, Statement (.pmovPP x0 x1) := fun _ _ => ofOne rfl
theorem vshflIdx : ∀ x0 x1 x2, Statement (.vshflIdx x0 x1 x2) := fun _ _ _ => ofOne rfl
theorem vshflUp : ∀ x0 x1 x2, Statement (.vshflUp x0 x1 x2) := fun _ _ _ => ofOne rfl
theorem vshflDown : ∀ x0 x1 x2, Statement (.vshflDown x0 x1 x2) := fun _ _ _ => ofOne rfl
theorem vshflXor : ∀ x0 x1 x2, Statement (.vshflXor x0 x1 x2) := fun _ _ _ => ofOne rfl
theorem vbcast : ∀ x0 x1 x2, Statement (.vbcast x0 x1 x2) := fun _ _ _ => ofOne rfl
theorem vred : ∀ x0 x1 x2, Statement (.vred x0 x1 x2) := fun _ _ _ => ofOne rfl
theorem vscan : ∀ x0 x1 x2 x3, Statement (.vscan x0 x1 x2 x3) := fun _ _ _ _ => ofOne rfl
theorem vvote : ∀ x0 x1 x2, Statement (.vvote x0 x1 x2) := fun _ _ _ => ofOne rfl
theorem qswz : ∀ x0 x1 x2, Statement (.qswz x0 x1 x2) := fun _ _ _ => ofOne rfl
theorem qbcast : ∀ x0 x1 x2, Statement (.qbcast x0 x1 x2) := fun _ _ _ => ofOne rfl
theorem vget : ∀ x0 x1 x2, Statement (.vget x0 x1 x2) := fun _ _ _ => ofOne rfl
theorem vput : ∀ x0 x1 x2, Statement (.vput x0 x1 x2) := fun _ _ _ => ofOne rfl
theorem sadd : ∀ x0 x1 x2, Statement (.sadd x0 x1 x2) := fun _ _ _ => ofOne rfl
theorem ssub : ∀ x0 x1 x2, Statement (.ssub x0 x1 x2) := fun _ _ _ => ofOne rfl
theorem smul : ∀ x0 x1 x2, Statement (.smul x0 x1 x2) := fun _ _ _ => ofOne rfl
theorem sand : ∀ x0 x1 x2, Statement (.sand x0 x1 x2) := fun _ _ _ => ofOne rfl
theorem sor : ∀ x0 x1 x2, Statement (.sor x0 x1 x2) := fun _ _ _ => ofOne rfl
theorem sxor : ∀ x0 x1 x2, Statement (.sxor x0 x1 x2) := fun _ _ _ => ofOne rfl
theorem sshl : ∀ x0 x1 x2, Statement (.sshl x0 x1 x2) := fun _ _ _ => ofOne rfl
theorem sshr : ∀ x0 x1 x2, Statement (.sshr x0 x1 x2) := fun _ _ _ => ofOne rfl
theorem sshrA : ∀ x0 x1 x2, Statement (.sshrA x0 x1 x2) := fun _ _ _ => ofOne rfl
theorem smin : ∀ x0 x1 x2, Statement (.smin x0 x1 x2) := fun _ _ _ => ofOne rfl
theorem smax : ∀ x0 x1 x2, Statement (.smax x0 x1 x2) := fun _ _ _ => ofOne rfl
theorem sminU : ∀ x0 x1 x2, Statement (.sminU x0 x1 x2) := fun _ _ _ => ofOne rfl
theorem smaxU : ∀ x0 x1 x2, Statement (.smaxU x0 x1 x2) := fun _ _ _ => ofOne rfl
theorem smov : ∀ x0 x1, Statement (.smov x0 x1) := fun _ _ => ofOne rfl
theorem scmp : ∀ x0 x1 x2 x3, Statement (.scmp x0 x1 x2 x3) := fun _ _ _ _ => ofOne rfl
theorem smovi : ∀ x0 x1, Statement (.smovi x0 x1) := fun _ _ => ofOne rfl
theorem sliLo : ∀ x0 x1, Statement (.sliLo x0 x1) := fun _ _ => ofTwo rfl
theorem sliHi : ∀ x0 x1, Statement (.sliHi x0 x1) := fun _ _ => ofTwo rfl
theorem ld : ∀ x0 x1 x2 x3, Statement (.ld x0 x1 x2 x3) := fun _ _ _ _ => ofOne rfl
theorem st : ∀ x0 x1 x2 x3, Statement (.st x0 x1 x2 x3) := fun _ _ _ _ => ofOne rfl
theorem atom : ∀ x0 x1 x2 x3 x4 x5 x6, Statement (.atom x0 x1 x2 x3 x4 x5 x6) := fun _ _ _ _ _ _ _ => ofTwo rfl
theorem ldu : ∀ x0 x1 x2 x3, Statement (.ldu x0 x1 x2 x3) := fun _ _ _ _ => ofOne rfl
theorem stu : ∀ x0 x1 x2 x3, Statement (.stu x0 x1 x2 x3) := fun _ _ _ _ => ofOne rfl
theorem atomu : ∀ x0 x1 x2 x3 x4, Statement (.atomu x0 x1 x2 x3 x4) := fun _ _ _ _ _ => ofOne rfl
theorem pf : ∀ x0 x1 x2, Statement (.pf x0 x1 x2) := fun _ _ _ => ofOne rfl
theorem pgreq : ∀ x0 x1 x2, Statement (.pgreq x0 x1 x2) := fun _ _ _ => ofOne rfl
theorem pgreqY : ∀ x0 x1 x2, Statement (.pgreqY x0 x1 x2) := fun _ _ _ => ofOne rfl
theorem brec : ∀ x0 x1 x2 x3, Statement (.brec x0 x1 x2 x3) := fun _ _ _ _ => ofOne rfl
theorem brecr : ∀ x0 x1 x2 x3, Statement (.brecr x0 x1 x2 x3) := fun _ _ _ _ => ofOne rfl
theorem fence : ∀ x0 x1, Statement (.fence x0 x1) := fun _ _ => ofOne rfl
theorem fenceSc : ∀ x0 x1, Statement (.fenceSc x0 x1) := fun _ _ => ofOne rfl
theorem qfence : ∀ x0 x1, Statement (.qfence x0 x1) := fun _ _ => ofOne rfl
theorem qwait : ∀ x0 x1, Statement (.qwait x0 x1) := fun _ _ => ofOne rfl
theorem wacq : ∀ x0 x1, Statement (.wacq x0 x1) := fun _ _ => ofOne rfl
theorem wrel : ∀ x0 x1, Statement (.wrel x0 x1) := fun _ _ => ofOne rfl
theorem tld : ∀ x0 x1 x2 x3, Statement (.tld x0 x1 x2 x3) := fun _ _ _ _ => ofOne rfl
theorem tst : ∀ x0 x1 x2 x3, Statement (.tst x0 x1 x2 x3) := fun _ _ _ _ => ofOne rfl
theorem tatom : ∀ x0 x1 x2 x3 x4 x5 x6, Statement (.tatom x0 x1 x2 x3 x4 x5 x6) := fun _ _ _ _ _ _ _ => ofTwo rfl
theorem talloc : ∀ x0 x1 x2, Statement (.talloc x0 x1 x2) := fun _ _ _ => ofOne rfl
theorem tfree : ∀ x0 x1, Statement (.tfree x0 x1) := fun _ _ => ofOne rfl
theorem tinfo : ∀ x0 x1 x2, Statement (.tinfo x0 x1 x2) := fun _ _ _ => ofOne rfl
theorem bar : ∀ x0 x1, Statement (.bar x0 x1) := fun _ _ => ofOne rfl
theorem gbar : Statement (.gbar) := ofOne rfl
theorem arrive : ∀ x0 x1, Statement (.arrive x0 x1) := fun _ _ => ofOne rfl
theorem cpy : ∀ x0, Statement (.cpy x0) := fun _ => ofTwo rfl
theorem sattach : ∀ x0 x1 x2 x3, Statement (.sattach x0 x1 x2 x3) := fun _ _ _ _ => ofOne rfl
theorem qdrop : ∀ x0 x1, Statement (.qdrop x0 x1) := fun _ _ => ofOne rfl
theorem qpop : ∀ x0 x1, Statement (.qpop x0 x1) := fun _ _ => ofOne rfl
theorem mma : ∀ x0 x1 x2, Statement (.mma x0 x1 x2) := fun _ _ _ => ofOne rfl
theorem mmag : ∀ x0 x1 x2 x3, Statement (.mmag x0 x1 x2 x3) := fun _ _ _ _ => ofOne rfl
theorem mmas : ∀ x0 x1 x2, Statement (.mmas x0 x1 x2) := fun _ _ _ => ofOne rfl
theorem mbld : ∀ x0 x1, Statement (.mbld x0 x1) := fun _ _ => ofOne rfl
theorem mbldPair : ∀ x0 x1, Statement (.mbldPair x0 x1) := fun _ _ => ofOne rfl
theorem mwb : ∀ x0 x1 x2 x3, Statement (.mwb x0 x1 x2 x3) := fun _ _ _ _ => ofOne rfl
theorem mqnt : ∀ x0 x1 x2 x3, Statement (.mqnt x0 x1 x2 x3) := fun _ _ _ _ => ofOne rfl
theorem mpair : ∀ x0 x1, Statement (.mpair x0 x1) := fun _ _ => ofOne rfl
theorem munpair : ∀ x0, Statement (.munpair x0) := fun _ => ofOne rfl
theorem tskpost : ∀ x0 x1 x2 x3, Statement (.tskpost x0 x1 x2 x3) := fun _ _ _ _ => ofOne rfl
theorem tskdec : ∀ x0 x1 x2 x3, Statement (.tskdec x0 x1 x2 x3) := fun _ _ _ _ => ofOne rfl
theorem tskadd : ∀ x0 x1 x2 x3, Statement (.tskadd x0 x1 x2 x3) := fun _ _ _ _ => ofOne rfl
theorem tskq : ∀ x0 x1 x2, Statement (.tskq x0 x1 x2) := fun _ _ _ => ofOne rfl
theorem sigadd : ∀ x0, Statement (.sigadd x0) := fun _ => ofOne rfl
theorem issueSlot : ∀ x0 x1, Statement (.issueSlot x0 x1) := fun _ _ => ofOne rfl
theorem issueVfPromote : ∀ x0 x1 x2, Statement (.issueVfPromote x0 x1 x2) := fun _ _ _ => ofOne rfl
theorem issuePathPromote : ∀ x0 x1, Statement (.issuePathPromote x0 x1) := fun _ _ => ofOne rfl
theorem issueRoundBoundary : ∀ x0 x1, Statement (.issueRoundBoundary x0 x1) := fun _ _ => ofOne rfl
theorem roleGrant : ∀ x0, Statement (.roleGrant x0) := fun _ => ofOne rfl
theorem yieldWake : ∀ x0 x1, Statement (.yieldWake x0 x1) := fun _ _ => ofOne rfl
theorem startTokenGrant : ∀ x0, Statement (.startTokenGrant x0) := fun _ => ofOne rfl
theorem coreRest : ∀ x0, Statement (.coreRest x0) := fun _ => ofOne rfl
theorem matrixQueueStep : ∀ x0, Statement (.matrixQueueStep x0) := fun _ => ofOne rfl
theorem copyLineTransfer : ∀ x0, Statement (.copyLineTransfer x0) := fun _ => ofOne rfl
theorem copyEntryComplete : ∀ x0 x1, Statement (.copyEntryComplete x0 x1) := fun _ _ => ofOne rfl
theorem copyEntryStop : ∀ x0 x1, Statement (.copyEntryStop x0 x1) := fun _ _ => ofOne rfl
theorem streamFetch : ∀ x0 x1, Statement (.streamFetch x0 x1) := fun _ _ => ofOne rfl
theorem homeSliceRequest : ∀ x0, Statement (.homeSliceRequest x0) := fun _ => ofOne rfl
theorem storeAck : ∀ x0, Statement (.storeAck x0) := fun _ => ofOne rfl
theorem writeBack : ∀ x0, Statement (.writeBack x0) := fun _ => ofOne rfl
theorem directoryModeSwitch : ∀ x0 x1, Statement (.directoryModeSwitch x0 x1) := fun _ _ => ofOne rfl
theorem directorySwitchDone : ∀ x0, Statement (.directorySwitchDone x0) := fun _ => ofOne rfl
theorem walkComplete : ∀ x0 x1 x2, Statement (.walkComplete x0 x1 x2) := fun _ _ _ => ofOne rfl
theorem reportRecordWrite : Statement (.reportRecordWrite) := ofOne rfl
theorem reportFnPromote : ∀ x0, Statement (.reportFnPromote x0) := fun _ => ofOne rfl
theorem post : ∀ x0, Statement (.post x0) := fun _ => ofOne rfl
theorem taskPostValidated : ∀ x0, Statement (.taskPostValidated x0) := fun _ => ofOne rfl
theorem jigHitRetire : ∀ x0 x1, Statement (.jigHitRetire x0 x1) := fun _ _ => ofOne rfl
theorem blockPlace : ∀ x0, Statement (.blockPlace x0) := fun _ => ofOne rfl
theorem gangStart : ∀ x0, Statement (.gangStart x0) := fun _ => ofOne rfl
theorem gangTargetWindow : ∀ x0, Statement (.gangTargetWindow x0) := fun _ => ofOne rfl
theorem blockComplete : ∀ x0, Statement (.blockComplete x0) := fun _ => ofOne rfl
theorem tenonStart : ∀ x0, Statement (.tenonStart x0) := fun _ => ofOne rfl
theorem tenonEnd : ∀ x0, Statement (.tenonEnd x0) := fun _ => ofOne rfl
theorem dowelStart : ∀ x0, Statement (.dowelStart x0) := fun _ => ofOne rfl
theorem dowelEnd : ∀ x0, Statement (.dowelEnd x0) := fun _ => ofOne rfl
theorem checkRoomPreempt : ∀ x0, Statement (.checkRoomPreempt x0) := fun _ => ofOne rfl
theorem checkRoleTimeout : ∀ x0, Statement (.checkRoleTimeout x0) := fun _ => ofOne rfl
theorem clampAgeLimit : ∀ x0, Statement (.clampAgeLimit x0) := fun _ => ofOne rfl
theorem demeritDecay : Statement (.demeritDecay) := ofOne rfl
theorem healthRecordRequest : Statement (.healthRecordRequest) := ofOne rfl
theorem preemptRunonTimeout : ∀ x0, Statement (.preemptRunonTimeout x0) := fun _ => ofOne rfl
theorem preemptSaveDone : ∀ x0, Statement (.preemptSaveDone x0) := fun _ => ofOne rfl
theorem sliceEnd : ∀ x0 x1, Statement (.sliceEnd x0 x1) := fun _ _ => ofOne rfl
theorem clustersWrite : ∀ x0 x1, Statement (.clustersWrite x0 x1) := fun _ _ => ofOne rfl
theorem tdmScheduleBoundary : Statement (.tdmScheduleBoundary) := ofOne rfl
theorem quotaWrite : ∀ x0 x1, Statement (.quotaWrite x0 x1) := fun _ _ => ofOne rfl
theorem hseedWrite : ∀ x0 x1, Statement (.hseedWrite x0 x1) := fun _ _ => ofOne rfl
theorem pseedWrite : ∀ x0, Statement (.pseedWrite x0) := fun _ => ofOne rfl
theorem seedFlushDone : ∀ x0, Statement (.seedFlushDone x0) := fun _ => ofOne rfl
theorem waysWrite : ∀ x0 x1 x2, Statement (.waysWrite x0 x1 x2) := fun _ _ _ => ofOne rfl
theorem waySweepDone : ∀ x0 x1, Statement (.waySweepDone x0 x1) := fun _ _ => ofOne rfl
theorem leaseWrite : ∀ x0 x1, Statement (.leaseWrite x0 x1) := fun _ _ => ofOne rfl
theorem chkcmdUnfence : ∀ x0 x1 x2, Statement (.chkcmdUnfence x0 x1 x2) := fun _ _ _ => ofOne rfl
theorem chkcmdSetDemerits : ∀ x0 x1 x2 x3, Statement (.chkcmdSetDemerits x0 x1 x2 x3) := fun _ _ _ _ => ofOne rfl
theorem jquotaWrite : ∀ x0 x1, Statement (.jquotaWrite x0 x1) := fun _ _ => ofOne rfl
theorem jigFlush : ∀ x0 x1, Statement (.jigFlush x0 x1) := fun _ _ => ofOne rfl
theorem stallClr : ∀ x0, Statement (.stallClr x0) := fun _ => ofOne rfl
theorem inval : ∀ x0 x1, Statement (.inval x0 x1) := fun _ _ => ofOne rfl
theorem inval2 : ∀ x0 x1, Statement (.inval2 x0 x1) := fun _ _ => ofOne rfl
theorem invalidationComplete : ∀ x0 x1, Statement (.invalidationComplete x0 x1) := fun _ _ => ofOne rfl
theorem resolve : ∀ x0 x1, Statement (.resolve x0 x1) := fun _ _ => ofOne rfl
theorem ringRbaseWrite : ∀ x0 x1, Statement (.ringRbaseWrite x0 x1) := fun _ _ => ofOne rfl
theorem keyAdopt : ∀ x0, Statement (.keyAdopt x0) := fun _ => ofOne rfl
theorem adoptDrainDone : Statement (.adoptDrainDone) := ofOne rfl
theorem keyWcreate : ∀ x0, Statement (.keyWcreate x0) := fun _ => ofOne rfl
theorem keyWdestroy : ∀ x0, Statement (.keyWdestroy x0) := fun _ => ofOne rfl
theorem keyTreecfg : ∀ x0, Statement (.keyTreecfg x0) := fun _ => ofOne rfl
theorem keyCommandDone : Statement (.keyCommandDone) := ofOne rfl
theorem dcopyGo : ∀ x0 x1, Statement (.dcopyGo x0 x1) := fun _ _ => ofOne rfl
theorem dcopyDone : ∀ x0, Statement (.dcopyDone x0) := fun _ => ofOne rfl
theorem fabricCommit : ∀ x0, Statement (.fabricCommit x0) := fun _ => ofOne rfl
theorem fabricCommitDone : ∀ x0, Statement (.fabricCommitDone x0) := fun _ => ofOne rfl
theorem fabricHoldWrite : ∀ x0, Statement (.fabricHoldWrite x0) := fun _ => ofOne rfl
theorem fabricHeld : ∀ x0, Statement (.fabricHeld x0) := fun _ => ofOne rfl
theorem flitArrive : ∀ x0 x1, Statement (.flitArrive x0 x1) := fun _ _ => ofOne rfl
theorem fabricRefusalReturn : ∀ x0 x1, Statement (.fabricRefusalReturn x0 x1) := fun _ _ => ofOne rfl
theorem fibreLoss : ∀ x0 x1, Statement (.fibreLoss x0 x1) := fun _ _ => ofOne rfl
theorem linkdownNotice : ∀ x0, Statement (.linkdownNotice x0) := fun _ => ofOne rfl
theorem neighbourNotice : ∀ x0 x1, Statement (.neighbourNotice x0 x1) := fun _ _ => ofOne rfl
theorem linkHoldTimeout : ∀ x0, Statement (.linkHoldTimeout x0) := fun _ => ofOne rfl
theorem wavelengthBerCrossed : ∀ x0 x1, Statement (.wavelengthBerCrossed x0 x1) := fun _ _ => ofOne rfl
theorem wavelengthRetrainDone : ∀ x0 x1 x2, Statement (.wavelengthRetrainDone x0 x1 x2) := fun _ _ _ => ofOne rfl
theorem scTicketRequest : ∀ x0 x1, Statement (.scTicketRequest x0 x1) := fun _ _ => ofOne rfl
theorem scTicketGrant : Statement (.scTicketGrant) := ofOne rfl
theorem debugStop : ∀ x0 x1, Statement (.debugStop x0 x1) := fun _ _ => ofOne rfl
theorem debugResume : ∀ x0 x1, Statement (.debugResume x0 x1) := fun _ _ => ofOne rfl
theorem debugStep : ∀ x0 x1, Statement (.debugStep x0 x1) := fun _ _ => ofOne rfl
theorem debugSave : ∀ x0 x1, Statement (.debugSave x0 x1) := fun _ _ => ofOne rfl
theorem debugStopRecordPop : ∀ x0, Statement (.debugStopRecordPop x0) := fun _ => ofOne rfl
theorem errBankClear : ∀ x0 x1, Statement (.errBankClear x0 x1) := fun _ _ => ofOne rfl
theorem capAccept : ∀ x0 x1 x2, Statement (.capAccept x0 x1 x2) := fun _ _ _ => ofOne rfl
theorem bootAuth : Statement (.bootAuth) := ofOne rfl
theorem bootVerifyDone : Statement (.bootVerifyDone) := ofOne rfl
theorem vfEnable : ∀ x0, Statement (.vfEnable x0) := fun _ => ofOne rfl
theorem vfDisable : ∀ x0, Statement (.vfDisable x0) := fun _ => ofOne rfl
theorem vfFlr : ∀ x0, Statement (.vfFlr x0) := fun _ => ofOne rfl
theorem pfFlr : Statement (.pfFlr) := ofOne rfl
theorem packageReset : Statement (.packageReset) := ofOne rfl
theorem registerWrite : ∀ x0 x1 x2 x3, Statement (.registerWrite x0 x1 x2 x3) := fun _ _ _ _ => ofOne rfl
theorem linkup : ∀ x0, Statement (.linkup x0) := fun _ => ofOne rfl
theorem loadResponse : ∀ x0, Statement (.loadResponse x0) := fun _ => ofOne rfl

end Sys2Proof.Laws.Length
end

