-- ==== Sys2Proof/Laws/Results.lean ====
section
/-! SUPPORT. What the shared operations on registers and the issuing path do: one lemma for each, for statements to cite. -/

set_option Elab.async false

namespace Sys2Proof.Machine

variable {s t u : State} {l : List RegRef}

/-! Frames compose -/

theorem rest_cur (h : t.rest = s.rest) : t.cur = s.cur := (congrArg State.cur h :)
theorem rest_curB (h : t.rest = s.rest) : t.curB = s.curB := (congrArg State.curB h :)
theorem rest_blocks (h : t.rest = s.rest) : t.blocks = s.blocks := (congrArg State.blocks h :)
theorem rest_tasks (h : t.rest = s.rest) : t.tasks = s.tasks := (congrArg State.tasks h :)
theorem rest_clock (h : t.rest = s.rest) : t.clock = s.clock := (congrArg State.clock h :)
theorem rest_mm (h : t.rest = s.rest) : t.mm = s.mm := (congrArg State.mm h :)

theorem KeptBut.cur (h : KeptBut l s t) : t.cur = s.cur := rest_cur h.1.1
theorem KeptBut.curB (h : KeptBut l s t) : t.curB = s.curB := rest_curB h.1.1
theorem KeptBut.bid (h : KeptBut l s t) : t.w.bid = s.w.bid := (congrArg Warp.bid h.2.1 :)
theorem KeptBut.blk (h : KeptBut l s t) : t.blk = s.blk := by
  unfold State.blk State.bid State.blockOf
  rw [h.bid, rest_blocks h.1.1]
theorem KeptBut.injKey (h : KeptBut l s t) : t.injKey = s.injKey := by unfold State.injKey; rw [h.blk]

theorem KeptBut.refl (l : List RegRef) (s : State) : KeptBut l s s :=
  ⟨⟨rfl, fun _ => rfl, fun _ _ => rfl, fun _ _ => rfl, rfl, fun _ _ => rfl⟩, rfl, rfl, rfl, fun _ _ => rfl, fun _ _ _ _ => rfl, fun _ _ => rfl, fun _ _ => rfl⟩

/-- Two steps with one frame are a step with it. -/
theorem KeptBut.trans (h : KeptBut l s t) (k : KeptBut l t u) : KeptBut l s u := by
  have hk := h.injKey
  have hc := h.cur
  have hb := h.curB
  obtain ⟨⟨a1, a2, a3, a4, a5, a6⟩, b1, b2, b3, b4, b5, b6, b7⟩ := h
  obtain ⟨⟨c1, c2, c3, c4, c5, c6⟩, d1, d2, d3, d4, d5, d6, d7⟩ := k
  refine ⟨⟨c1.trans a1, fun a => (c2 a).trans (a2 a), fun k hn => ?_, fun k hn => ?_, ?_, fun k hn => (c6 k hn).trans (a6 k hn)⟩,
    d1.trans b1, ?_, d3.trans b3, fun k hn => (d4 k hn).trans (b4 k hn), fun k i hi hn => (d5 k i hi hn).trans (b5 k i hi hn),
    fun k hn => (d6 k hn).trans (b6 k hn), fun k hn => (d7 k hn).trans (b7 k hn)⟩
  · exact (c3 k (by rw [hc]; exact hn)).trans (a3 k hn)
  · exact (c4 k (by rw [hk]; exact hn)).trans (a4 k hn)
  · rw [c5, a5]
  · rw [hb] at d2; exact d2.trans b2

theorem KeptBut.mono {l' : List RegRef} (h : KeptBut l s t) (hl : ∀ r, r ∈ l → r ∈ l') : KeptBut l' s t :=
  ⟨h.1, h.2.1, h.2.2.1, h.2.2.2.1, fun k hk => h.2.2.2.2.1 k fun hm => hk (hl _ hm),
    fun k i hi hk => h.2.2.2.2.2.1 k i hi fun hm => hk (hl _ hm), fun k hk => h.2.2.2.2.2.2.1 k fun hm => hk (hl _ hm),
    fun k hk => h.2.2.2.2.2.2.2 k fun hm => hk (hl _ hm)⟩

/-- A change of the current warp that leaves what a frame keeps of it. -/
theorem KeptBut.putW (s : State) (x : Warp) (h1 : x.rest = s.w.rest) (h2 : x.path (!s.curB) = s.w.path (!s.curB)) (h3 : (x.path s.curB).rest = s.path.rest)
    (h4 : ∀ k, .s k ∉ l → x.rS k = s.rS k) (h5 : ∀ k i, i < 32 → .v k ∉ l → x.rV k i = s.rV k i) (h6 : ∀ k, .p k ∉ l → x.rP k = s.rP k)
    (h7 : ∀ k, .b k ∉ l → x.rB k = s.rB k) : KeptBut l s (s.putWarp s.cur x) := by
  refine ⟨⟨rfl, fun _ => rfl, fun k hk => State.warpOf_putWarp_ne _ _ _ hk, fun _ _ => rfl, rfl, fun _ _ => rfl⟩, ?_, ?_, ?_, ?_, ?_, ?_, ?_⟩ <;>
    simp only [State.rS, State.rV, State.rP, State.rB, State.w_putWarp, State.path_putWarp] <;> assumption

/-! Injected faults (R244) -/

/-- An injection touches only the injection register of its core and the count of injections. -/
theorem State.inject_kept (l : List RegRef) (s : State) (tgt : Nat) : KeptBut l s (s.inject tgt).2 := by
  unfold State.inject
  simp only
  split
  · split
    · refine ⟨⟨rfl, fun _ => rfl, fun _ _ => rfl, fun k h => AL.get?_put_ne _ _ h, rfl, fun k h => Tbl.get_set_ne _ _ h⟩, rfl, rfl, rfl, fun _ _ => rfl, fun _ _ _ _ => rfl, fun _ _ => rfl, fun _ _ => rfl⟩
    · exact ⟨⟨rfl, fun _ => rfl, fun _ _ => rfl, fun k h => AL.get?_put_ne _ _ h, rfl, fun _ _ => rfl⟩, rfl, rfl, rfl, fun _ _ => rfl, fun _ _ _ _ => rfl, fun _ _ => rfl, fun _ _ => rfl⟩
  · exact KeptBut.refl l s

theorem State.inject_warps (s : State) (tgt : Nat) : (s.inject tgt).2.warps = s.warps := by
  unfold State.inject; simp only; split
  · split <;> rfl
  · rfl

theorem State.inject_w (s : State) (tgt : Nat) : (s.inject tgt).2.w = s.w := by
  unfold State.w State.warpOf
  rw [State.inject_warps, (State.inject_kept [] s tgt).cur]

/-- An injection depends on the block and the registers alone. -/
theorem State.inject_fst (tgt : Nat) (hb : t.blk = s.blk) (hr : t.regs = s.regs) : (t.inject tgt).1 = (s.inject tgt).1 := by
  have h : ∀ a b c, t.reg a b c = s.reg a b c := fun a b c => by unfold State.reg; rw [hr]
  have hq : ∀ i k, injQualifies t i k = injQualifies s i k := fun i k => by unfold injQualifies; rw [hb]
  unfold State.inject
  simp only [hb, h, hq]
  split
  · split <;> rfl
  · rfl

/-! The issuing path and the signatures -/

/-- A path whose signature and records only differ. -/
theorem Path.rest_sig (p : Path) (g : Sig) (f : List FoldItem) : ({ p with sig := g, folds := f } : Path).rest = p.rest := rfl

theorem rest_setPath (w : Warp) (b : Bool) (p : Path) : (w.setPath b p).rest = w.rest := by cases b <;> rfl

/-- Changing the issuing path's PC, signature or mark of a wait changes nothing a frame keeps. -/
theorem State.modPath_kept (l : List RegRef) (s : State) (f : Path → Path) (h : (f s.path).rest = s.path.rest) : KeptBut l s (s.modPath f) := by
  refine KeptBut.putW s _ (rest_setPath _ _ _) (Warp.path_setPath_not _ _ _) (by rw [Warp.path_setPath]; exact h) ?_ ?_ ?_ ?_ <;> intros <;>
    simp [State.rS, State.rV, State.rP, State.rB, Warp.rS, Warp.rV, Warp.rP, Warp.rB]

/-- A fold changes the signature and the records of the path alone (R226). -/
theorem State.fold_kept (l : List RegRef) (s : State) (cls : Nat) (b : List Nat) : KeptBut l s (s.fold cls b) := by
  unfold State.fold
  split
  · refine State.modPath_kept l s _ ?_
    split <;> rfl
  · exact KeptBut.refl l s

theorem State.fold_path (s : State) (cls : Nat) (b : List Nat) : (s.fold cls b).path.pc = s.path.pc ∧ (s.fold cls b).path.waited = s.path.waited := by
  unfold State.fold
  split
  · simp only [State.modPath_eq, State.path_putWarp, Warp.path_setPath]
    constructor <;> split <;> rfl
  · exact ⟨rfl, rfl⟩

/-- A fold leaves every part of the warp but its paths. -/
theorem State.fold_w (s : State) (cls : Nat) (b : List Nat) : ∃ p, (s.fold cls b).w = s.w.setPath s.curB p := by
  unfold State.fold
  split
  · exact ⟨_, State.w_putWarp s _⟩
  · exact ⟨s.path, by unfold State.path; cases s.curB <;> rfl⟩

/-- `advance` moves the PC and nothing else. -/
theorem State.advance_kept (l : List RegRef) (n : Nat) (s : State) : KeptBut l s (s.advance n) := State.modPath_kept l s _ rfl

@[simp] theorem State.advance_pc (n : Nat) (s : State) : (s.advance n).path.pc = s.path.pc + BitVec.ofNat 57 n := by
  simp [State.advance, State.path]
@[simp] theorem State.advance_w (n : Nat) (s : State) : (s.advance n).w = s.w.setPath s.curB { s.path with pc := s.path.pc + BitVec.ofNat 57 n, waited := false } := by
  simp [State.advance, State.path]

theorem State.noPoint_kept (l : List RegRef) (s : State) : KeptBut l s s.noPoint := by
  refine KeptBut.putW s _ rfl rfl rfl ?_ ?_ ?_ ?_ <;> intros <;> rfl

/-! Scalar, predicate and buffer results (R65) -/

theorem Warp.rS_wS (w : Warp) (d k : Nat) (x : DWord) : (w.wS d x).rS k = if k = d then (if d = 0 then 0 else x) else w.rS k := by
  unfold Warp.wS Warp.rS
  by_cases hd : d = 0
  · by_cases hk : k = 0 <;> simp_all
  · simp only [hd, if_false, Tbl.get_set]
    by_cases hk : k = 0
    · simp [hk, Ne.symm hd]
    · simp [hk]

theorem Warp.rP_wP (w : Warp) (d k : Nat) (x : Word) : (w.wP d x).rP k = if k = d then (if d = 0 then 0xFFFFFFFF#32 else x) else w.rP k := by
  unfold Warp.wP Warp.rP
  by_cases hd : d = 0
  · by_cases hk : k = 0 <;> simp_all
  · simp only [hd, if_false, Tbl.get_set]
    by_cases hk : k = 0
    · simp [hk, Ne.symm hd]
    · simp [hk]

theorem Warp.wS_rest (w : Warp) (d : Nat) (x : DWord) : (w.wS d x).rest = w.rest ∧ (∀ b, (w.wS d x).path b = w.path b) ∧ (w.wS d x).point = w.point ∧
    (w.wS d x).fpflags = w.fpflags ∧ (∀ k i, (w.wS d x).rV k i = w.rV k i) ∧ (∀ k, (w.wS d x).rP k = w.rP k) ∧ ∀ k, (w.wS d x).rB k = w.rB k := by
  unfold Warp.wS; split <;> exact ⟨rfl, fun _ => rfl, rfl, rfl, fun _ _ => rfl, fun _ => rfl, fun _ => rfl⟩

theorem Warp.wP_rest (w : Warp) (d : Nat) (x : Word) : (w.wP d x).rest = w.rest ∧ (∀ b, (w.wP d x).path b = w.path b) ∧ (w.wP d x).point = w.point ∧
    (w.wP d x).fpflags = w.fpflags ∧ (∀ k i, (w.wP d x).rV k i = w.rV k i) ∧ (∀ k, (w.wP d x).rS k = w.rS k) ∧ ∀ k, (w.wP d x).rB k = w.rB k := by
  unfold Warp.wP; split <;> exact ⟨rfl, fun _ => rfl, rfl, rfl, fun _ _ => rfl, fun _ => rfl, fun _ => rfl⟩

/-- A scalar result: the register takes the value as an injected fault leaves it, and nothing else changes but the path's signature (R65, R226, R244). -/
theorem State.writeS_spec (s : State) (d : Nat) (x : DWord) :
    KeptBut [.s d] s (s.writeS d x) ∧ (s.writeS d x).rS d = (if d = 0 then 0 else s.scalarIn x) ∧ (s.writeS d x).w.fpflags = s.w.fpflags ∧
    (s.writeS d x).w.point = s.w.point ∧ (s.writeS d x).path.pc = s.path.pc := by
  let s1 := (s.inject 1).2
  let y := s.scalarIn x
  let s2 := s1.putWarp s1.cur (s1.w.wS d y)
  have hw : s1.w = s.w := State.inject_w s 1
  have h1 : KeptBut [.s d] s s1 := State.inject_kept _ s 1
  have h2 : KeptBut [.s d] s1 s2 := by
    obtain ⟨a, b, c, e, f, g, h⟩ := Warp.wS_rest s1.w d y
    refine KeptBut.putW s1 _ a (b _) ?_ (fun k hk => ?_) (fun k i _ _ => f k i) (fun k _ => g k) (fun k _ => h k)
    · rw [b]; rfl
    · have : k ≠ d := by simpa using hk
      simp [Warp.rS_wS, this, State.rS]
  have hd : s2.rS d = if d = 0 then 0 else y := by simp [s2, State.rS, Warp.rS_wS]
  have hf : s2.w.fpflags = s.w.fpflags := by rw [← hw, ← (Warp.wS_rest s1.w d y).2.2.2.1]; simp [s2]
  have hp : s2.w.point = s.w.point := by rw [← hw, ← (Warp.wS_rest s1.w d y).2.2.1]; simp [s2]
  have hq : s2.path.pc = s.path.pc := by
    have := (Warp.wS_rest s1.w d y).2.1 s1.curB
    rw [State.path_putWarp, this, hw, h1.curB]; rfl
  have key : s.writeS d x = if d = 0 then s2 else s2.fold 1 (0x12 :: d :: leBytes 8 y.toNat) := by
    unfold State.writeS State.putS
    by_cases hd0 : d = 0 <;> simp [hd0, s2, s1, y, State.foldVS, State.scalarIn]
  rw [key]
  split
  · rename_i h0
    exact ⟨h1.trans h2, by rw [hd, if_pos h0], hf, hp, hq⟩
  · rename_i h0
    obtain ⟨p, hp'⟩ := State.fold_w s2 1 (0x12 :: d :: leBytes 8 y.toNat)
    refine ⟨(h1.trans h2).trans (State.fold_kept _ _ _ _), ?_, ?_, ?_, ?_⟩
    · unfold State.rS at hd ⊢; rw [hp']; simpa [Warp.rS, h0] using hd
    · rw [hp']; simpa using hf
    · rw [hp']; simpa using hp
    · rw [(State.fold_path _ _ _).1, hq]

/-- A predicate result (R65, R226). -/
theorem State.writeP_spec (s : State) (d : Nat) (x : Word) :
    KeptBut [.p d] s (s.writeP d x) ∧ (s.writeP d x).rP d = (if d = 0 then 0xFFFFFFFF#32 else x) ∧ (s.writeP d x).w.fpflags = s.w.fpflags ∧
    (s.writeP d x).w.point = s.w.point ∧ (s.writeP d x).path.pc = s.path.pc := by
  let s2 := s.putWarp s.cur (s.w.wP d x)
  have h2 : KeptBut [.p d] s s2 := by
    obtain ⟨a, b, c, e, f, g, h⟩ := Warp.wP_rest s.w d x
    refine KeptBut.putW s _ a (b _) ?_ (fun k _ => g k) (fun k i _ _ => f k i) (fun k hk => ?_) (fun k _ => h k)
    · rw [b]; rfl
    · have : k ≠ d := by simpa using hk
      simp [Warp.rP_wP, this, State.rP]
  have hd : s2.rP d = if d = 0 then 0xFFFFFFFF#32 else x := by simp [s2, State.rP, Warp.rP_wP]
  have hf : s2.w.fpflags = s.w.fpflags := by simp [s2, (Warp.wP_rest s.w d x).2.2.2.1]
  have hp : s2.w.point = s.w.point := by simp [s2, (Warp.wP_rest s.w d x).2.2.1]
  have hq : s2.path.pc = s.path.pc := by
    rw [State.path_putWarp, (Warp.wP_rest s.w d x).2.1]; rfl
  have key : s.writeP d x = if d = 0 then s2 else s2.fold 1 (0x14 :: d :: leBytes 4 x.toNat) := by
    unfold State.writeP
    by_cases hd0 : d = 0 <;> simp [hd0, s2, State.foldVS]
  rw [key]
  split
  · rename_i h0
    exact ⟨h2, by rw [hd, if_pos h0], hf, hp, hq⟩
  · rename_i h0
    obtain ⟨p, hp'⟩ := State.fold_w s2 1 (0x14 :: d :: leBytes 4 x.toNat)
    refine ⟨h2.trans (State.fold_kept _ _ _ _), ?_, ?_, ?_, ?_⟩
    · unfold State.rP at hd ⊢; rw [hp']; simpa [Warp.rP, h0] using hd
    · rw [hp']; simpa using hf
    · rw [hp']; simpa using hp
    · rw [(State.fold_path _ _ _).1, hq]

/-! Instructions that write registers -/

/-- An instruction that writes registers and is not forbidden by recipe mode: its effect, in a state whose rewind point has ended when it names one of them (R282, R284). -/
theorem State.writing_eq (s : State) (l : List RegRef) (k : State → State) (h : s.recipeBlocks l = false) :
    s.writing l k = k (if s.named l then s.noPoint else s) := by
  unfold State.writing; rw [h]; cases s.named l <;> rfl

/-- Where recipe mode forbids it, it traps ILLOP. -/
theorem State.writing_illop (s : State) (l : List RegRef) (k : State → State) (h : s.recipeBlocks l = true) : s.writing l k = s.illop := by
  unfold State.writing; rw [h]; rfl

/-- The state an instruction's effect starts from, after the rewind point has ended if it must. -/
theorem State.pointed_kept (l l' : List RegRef) (s : State) : KeptBut l s (if s.named l' then s.noPoint else s) := by
  split
  · exact State.noPoint_kept l s
  · exact KeptBut.refl l s

theorem State.noPoint_w (s : State) : s.noPoint.w = { s.w with point := none } := by simp [State.noPoint]

/-- A scalar result and the next instruction: everything it does (R65, R226, R244, R282). -/
theorem State.writing_scalar (s : State) (d n : Nat) (x : DWord) (h : s.recipeBlocks [.s d] = false) :
    let t := s.writing [.s d] fun s => (s.writeS d x).advance n
    t.rS d = (if d = 0 then 0 else s.scalarIn x) ∧ t.w.fpflags = s.w.fpflags ∧ Onward [.s d] n s t ∧ KeptBut [.s d] s t := by
  intro t
  have ht : t = ((if s.named [.s d] then s.noPoint else s).writeS d x).advance n := by simp only [t, State.writing_eq s _ _ h]
  generalize hu : (if s.named [.s d] then s.noPoint else s) = u at ht
  have hk : KeptBut [.s d] s u := hu ▸ State.pointed_kept _ _ s
  have hi : u.scalarIn x = s.scalarIn x := by
    unfold State.scalarIn
    rw [State.inject_fst 1 hk.blk (by subst hu; split <;> rfl)]
  have hf : u.w.fpflags = s.w.fpflags := by subst hu; split <;> simp [State.noPoint_w]
  have hp : u.w.point = if s.named [.s d] then none else s.w.point := by subst hu; split <;> simp [State.noPoint_w]
  have hq : u.path.pc = s.path.pc := by
    subst hu; split
    · simp only [State.path, State.noPoint_w]; rfl
    · rfl
  obtain ⟨a, b, c, e, f⟩ := State.writeS_spec u d x
  clear_value t; subst ht
  refine ⟨?_, ?_, ⟨?_, ?_⟩, (hk.trans a).trans (State.advance_kept _ _ _)⟩
  · simp only [State.rS, State.advance_w] at *
    rw [← hi, ← b]; simp [Warp.rS]
  · simp [c, hf]
  · simp [f, hq]
  · simp [e, hp]

end Sys2Proof.Machine
end

