-- ==== Sys2Proof/Laws/Vectors.lean ====
section
/-! SUPPORT. What writing lanes of v registers does: one lemma for each shared operation of the vector instructions. -/

set_option Elab.async false

namespace Sys2Proof.Machine

variable {α : Type}

/-- A word read after a lane is written. -/
theorem Warp.rV_wV (w : Warp) {k j lane i : Nat} (x : Word) (hl : lane < 32) (hi : i < 32) :
    (w.wV k lane x).rV j i = if j = k ∧ i = lane then x else w.rV j i := by
  unfold Warp.wV Warp.rV
  rw [Tbl.get_set]
  have : (32 * j + i = 32 * k + lane) ↔ (j = k ∧ i = lane) := by omega
  simp only [this]

/-- A key that is not listed. -/
theorem AL.get?_none (l : AL α) {k : Nat} (h : k ∉ l.map (·.1)) : AL.get? l k = none := by
  induction l with
  | nil => rfl
  | cons e r ih => simp only [List.map_cons, List.mem_cons, not_or] at h; rw [AL.get?_cons, if_neg (Ne.symm h.1), ih h.2]

theorem Warp.rV_wVL (k j i : Nat) (hi : i < 32) (l : List (Nat × Word)) : ∀ w : Warp, (∀ e ∈ l, e.1 < 32) → (l.map (·.1)).Nodup →
    (w.wVL k l).rV j i = if j = k then (AL.get? l i).getD (w.rV j i) else w.rV j i := by
  induction l with
  | nil => intro w _ _; simp [Warp.wVL]
  | cons e r ih =>
    intro w hl hn
    obtain ⟨lane, x⟩ := e
    simp only [List.map_cons, List.nodup_cons] at hn
    have h1 : lane < 32 := hl (lane, x) (List.mem_cons_self ..)
    have h2 := ih (w.wV k lane x) (fun e he => hl e (List.mem_cons_of_mem _ he)) hn.2
    have h3 : AL.get? r lane = none := AL.get?_none _ hn.1
    have h4 : Warp.wVL w k ((lane, x) :: r) = Warp.wVL (w.wV k lane x) k r := rfl
    rw [h4, h2, AL.get?_cons]
    simp only [Warp.rV_wV w x h1 hi]
    by_cases hj : j = k
    · by_cases hil : lane = i
      · subst hil; simp [hj, h3]
      · simp [hj, hil, Ne.symm hil]
    · simp [hj]

/-- What a warp has apart from its v registers. -/
theorem Warp.wV_rest (w : Warp) (k lane : Nat) (x : Word) : (w.wV k lane x) = { w with v := (w.wV k lane x).v } := rfl

theorem Warp.wVL_rest (k : Nat) (l : List (Nat × Word)) : ∀ w : Warp, (w.wVL k l) = { w with v := (w.wVL k l).v } := by
  induction l with
  | nil => intro w; rfl
  | cons e r ih =>
    intro w
    have h4 : Warp.wVL w k (e :: r) = Warp.wVL (w.wV k e.1 e.2) k r := rfl
    rw [h4, ih]; rfl

/-- The parts of n registers' values written from k up. -/
def Warp.wParts (w : Warp) (k n : Nat) (l : List (Nat × Nat)) : Warp := (List.range n).foldl (fun w i => w.wVL (k + i) (vecPart l i)) w

theorem Warp.wParts_succ (w : Warp) (k n : Nat) (l : List (Nat × Nat)) : w.wParts k (n + 1) l = (w.wParts k n l).wVL (k + n) (vecPart l n) := by
  simp [Warp.wParts, List.range_succ, List.foldl_append]

theorem Warp.wParts_rest (k n : Nat) (l : List (Nat × Nat)) (w : Warp) : w.wParts k n l = { w with v := (w.wParts k n l).v } := by
  induction n with
  | zero => rfl
  | succ n ih => rw [Warp.wParts_succ, Warp.wVL_rest, ih]

theorem AL.get?_map {β : Type} (f : Nat × α → β) (l : AL α) (i : Nat) : AL.get? (l.map fun e => (e.1, f e)) i = (AL.get? l i).map fun x => f (i, x) := by
  induction l with
  | nil => rfl
  | cons e r ih =>
    simp only [List.map_cons, AL.get?_cons]
    split
    · rename_i h; obtain ⟨a, b⟩ := e; simp_all [AL.get?_cons]
    · rename_i h; obtain ⟨a, b⟩ := e; simp_all [AL.get?_cons]

theorem Warp.rV_wParts (w : Warp) (k n j i : Nat) (l : List (Nat × Nat)) (hi : i < 32) (hl : ∀ e ∈ l, e.1 < 32) (hn : (l.map (·.1)).Nodup) :
    (w.wParts k n l).rV j i =
      if k ≤ j ∧ j < k + n then ((AL.get? l i).map fun x => BitVec.ofNat 32 (x / 2 ^ (32 * (j - k)))).getD (w.rV j i) else w.rV j i := by
  induction n with
  | zero => exact (if_neg (by omega)).symm
  | succ n ih =>
    have hp : ∀ m, (vecPart l m).map (·.1) = l.map (·.1) := fun m => by simp [vecPart]
    rw [Warp.wParts_succ, Warp.rV_wVL _ _ _ hi _ _ (by intro e he; simp only [vecPart, List.mem_map] at he; obtain ⟨a, ha, rfl⟩ := he; exact hl a ha) (by rw [hp]; exact hn), ih]
    have hg : AL.get? (vecPart l n) i = (AL.get? l i).map fun x => BitVec.ofNat 32 (x / 2 ^ (32 * n)) := AL.get?_map (fun e => BitVec.ofNat 32 (e.2 / 2 ^ (32 * n))) l i
    rw [hg]
    by_cases hj : j = k + n
    · subst hj
      simp only [if_true, Nat.le_add_right, true_and, Nat.lt_irrefl, and_false, if_false, Nat.add_sub_cancel_left, show k + n < k + (n + 1) by omega]
    · simp only [hj, if_false]
      by_cases hk : k ≤ j ∧ j < k + n
      · simp only [hk, and_self, if_true, show k ≤ j ∧ j < k + (n + 1) by omega]
      · have : ¬ (k ≤ j ∧ j < k + (n + 1)) := by omega
        simp only [hk, this, if_false]

/-- The lanes of a mask, and their values. -/
theorem get?_lanesOf {β : Type} (m : Word) (f : Nat → β) (i : Nat) (hi : i < 32) :
    AL.get? ((lanesOf m).map fun k => (k, f k)) i = if m.getLsbD i then some (f i) else none := by
  have h : (lanesOf m).map (fun k => (k, f k)) = ((List.range 32).map fun k => (k, f k)).filter fun e => m.getLsbD e.1 := by
    simp [lanesOf, List.filter_map, Function.comp_def]
  rw [h, AL.get?_filter (((List.range 32).map fun k => (k, f k)) : AL β) fun k => m.getLsbD k]
  have h2 : AL.get? ((List.range 32).map fun k => (k, f k)) i = some (f i) := by
    have : ∀ n, i < n → AL.get? ((List.range n).map fun k => (k, f k)) i = some (f i) := by
      intro n
      induction n with
      | zero => omega
      | succ n ih =>
        intro hin
        rw [List.range_succ, List.map_append]
        have happ : ∀ (a b : AL β), AL.get? (a ++ b) i = (AL.get? a i).or (AL.get? b i) := by
          intro a b
          induction a with
          | nil => simp
          | cons e r ih => obtain ⟨x, y⟩ := e; simp only [List.cons_append, AL.get?_cons]; split <;> simp_all
        rw [happ]
        by_cases h : i < n
        · rw [ih h]; rfl
        · have hin' : i = n := by omega
          subst hin'
          have hno : ∀ l : List Nat, i ∉ l → AL.get? (l.map fun k => (k, f k)) i = none := by
            intro l
            induction l with
            | nil => intro _; rfl
            | cons a r ih => intro h; simp only [List.map_cons, AL.get?_cons]; simp_all [Ne.symm]
          rw [hno _ (by simp)]
          simp [AL.get?_cons]
    exact this 32 hi
  rw [h2]

theorem lanesOf_lt (m : Word) {k : Nat} (h : k ∈ lanesOf m) : k < 32 := by simp [lanesOf] at h; exact h.1
theorem lanesOf_nodup (m : Word) : (lanesOf m).Nodup := List.nodup_range.sublist List.filter_sublist

/-- The registers a vector result writes. -/
theorem not_mem_destRegs {d n k : Nat} (h : RegRef.v k ∉ (List.range n).map fun j => RegRef.v (d + j)) : ¬ (d ≤ k ∧ k < d + n) := by
  intro hk
  exact h (List.mem_map.mpr ⟨k - d, List.mem_range.mpr (by omega), by congr 1; omega⟩)

/-- Writing lanes of n registers as one vector result: the registers take the values as an injected fault leaves them, and nothing else changes but the path's signature (R226, R244). -/
theorem State.writeVec_spec (s : State) (d n : Nat) (m : Word) (f : Nat → Nat) :
    let t := s.writeVec d n ((lanesOf m).map fun i => (i, f i))
    KeptBut ((List.range n).map fun j => .v (d + j)) s t ∧
    (∀ j i, j < n → i < 32 → t.rV (d + j) i = if m.getLsbD i then BitVec.ofNat 32 (s.laneIn n i (f i) / 2 ^ (32 * j)) else s.rV (d + j) i) ∧
    t.w.fpflags = s.w.fpflags ∧ t.w.point = s.w.point ∧ t.path.pc = s.path.pc := by
  intro t
  let l := (lanesOf m).map fun i => (i, f i)
  let q := if l.any fun e => e.1 == s.injLane then s.inject 0 else (none, s)
  let g : Nat × Nat → Nat := fun e => if e.1 = s.injLane then flipAt (32 * n) e.2 q.1 else e.2
  let l1 := l.map fun e => (e.1, g e)
  let s2 := q.2.putWarp q.2.cur (q.2.w.wParts d n l1)
  have hqk : ∀ r, KeptBut r s q.2 := by
    intro r; simp only [q]; split
    · exact State.inject_kept r s 0
    · exact KeptBut.refl r s
  have hqw : q.2.w = s.w := by
    simp only [q]; split
    · exact State.inject_w s 0
    · rfl
  have hqp : q.2.path = s.path := by unfold State.path; rw [hqw, (hqk []).curB]
  have hmap : l.map (fun e => if e.1 = s.injLane then (e.1, flipAt (32 * n) e.2 q.1) else e) = l1 := by
    apply List.map_congr_left; intro e _; simp only [g]; split <;> rfl
  have ht : ∃ r, t = s2.fold 1 r := by
    have h0 : s2 = q.2.modW fun w => (List.range n).foldl (fun w i => w.wVL (d + i) (vecPart (l.map fun e => if e.1 = s.injLane then (e.1, flipAt (32 * n) e.2 q.1) else e) i)) w := by
      rw [hmap]; rfl
    rw [h0]
    exact ⟨_, rfl⟩
  have hl1 : ∀ e ∈ l1, e.1 < 32 := by
    intro e he; simp only [l1, l, List.mem_map] at he
    obtain ⟨_, ⟨k, hk, rfl⟩, rfl⟩ := he; exact lanesOf_lt m hk
  have hn1 : (l1.map (·.1)).Nodup := by
    have : l1.map (·.1) = lanesOf m := by simp [l1, l, Function.comp_def]
    rw [this]; exact lanesOf_nodup m
  have hg1 : ∀ i, i < 32 → AL.get? l1 i = if m.getLsbD i then some (g (i, f i)) else none := by
    intro i hi
    have : l1 = (lanesOf m).map fun i => (i, g (i, f i)) := by simp [l1, l, Function.comp_def]
    rw [this]; exact get?_lanesOf m (fun i => g (i, f i)) i hi
  have hrest := Warp.wParts_rest d n l1 q.2.w
  have hk2 : KeptBut ((List.range n).map fun j => .v (d + j)) q.2 s2 := by
    refine KeptBut.putW q.2 _ (by rw [hrest]; rfl) (by rw [hrest]; rfl) (by rw [hrest]; rfl) (fun k _ => by rw [hrest]; rfl) (fun k i hi hk => ?_) (fun k _ => by rw [hrest]; rfl) (fun k _ => by rw [hrest]; rfl)
    rw [Warp.rV_wParts _ _ _ _ _ _ hi hl1 hn1, if_neg (not_mem_destRegs hk)]; rfl
  have hv2 : ∀ j i, j < n → i < 32 → s2.rV (d + j) i = if m.getLsbD i then BitVec.ofNat 32 (s.laneIn n i (f i) / 2 ^ (32 * j)) else s.rV (d + j) i := by
    intro j i hj hi
    have : s2.rV (d + j) i = (q.2.w.wParts d n l1).rV (d + j) i := by simp [s2, State.rV]
    rw [this, Warp.rV_wParts _ _ _ _ _ _ hi hl1 hn1, if_pos (by omega), hg1 i hi, hqw]
    split
    · rename_i hm
      simp only [Option.map_some, Option.getD_some, Nat.add_sub_cancel_left]
      congr 2
      unfold State.laneIn
      simp only [g]
      by_cases hil : i = s.injLane
      · rw [if_pos hil, if_pos hil]
        have : (l.any fun e => e.1 == s.injLane) = true := by
          rw [List.any_eq_true]
          refine ⟨(i, f i), ?_, by simp [hil]⟩
          simp only [l, List.mem_map]
          exact ⟨i, by simp [lanesOf, hi, hm], rfl⟩
        simp only [q, this, if_true]
      · rw [if_neg hil, if_neg hil]
    · rfl
  obtain ⟨r, hr⟩ := ht
  obtain ⟨p, hp⟩ := State.fold_w s2 1 r
  rw [hr]
  refine ⟨((hqk _).trans hk2).trans (State.fold_kept _ _ _ _), fun j i hj hi => ?_, ?_, ?_, ?_⟩
  · have : (s2.fold 1 r).rV (d + j) i = s2.rV (d + j) i := by unfold State.rV; rw [hp]; simp [Warp.rV]
    rw [this]; exact hv2 j i hj hi
  · rw [hp]; simp [s2]; rw [hrest, hqw]
  · rw [hp]; simp [s2]; rw [hrest, hqw]
  · rw [(State.fold_path _ _ _).1]
    have : s2.path = (q.2.w.wParts d n l1).path q.2.curB := State.path_putWarp _ _
    rw [this, hrest]
    exact congrArg Path.pc hqp

/-- Raising flags changes FPFLAGS alone. -/
theorem State.orFlags_spec (s : State) (l : List RegRef) (f : BitVec 6) :
    (s.orFlags f).w = { s.w with fpflags := s.w.fpflags ||| f } ∧ KeptBut l s (s.orFlags f) := by
  refine ⟨by simp [State.orFlags], KeptBut.putW s _ rfl rfl rfl ?_ ?_ ?_ ?_⟩ <;> intros <;> rfl

/-- A result in lanes of n registers, its flags, and the next instruction: everything it does (R226, R244, R282, R441). -/
theorem State.vecLanes_spec (s : State) (lanes : Word) (d n len : Nat) (f : Nat → FRes) (h : s.recipeBlocks ((List.range n).map fun j => .v (d + j)) = false) :
    let t := s.vecLanes lanes d n len f
    (∀ j l, j < n → l < 32 → t.rV (d + j) l = if lanes.getLsbD l then BitVec.ofNat 32 (s.laneIn n l (f l).bits / 2 ^ (32 * j)) else s.rV (d + j) l) ∧
    t.w.fpflags = s.w.fpflags ||| BitVec.ofNat 6 (flagsOf ((lanesOf lanes).map f)) ∧
    Onward ((List.range n).map fun j => .v (d + j)) len s t ∧ KeptBut ((List.range n).map fun j => .v (d + j)) s t := by
  intro t
  generalize hL : ((List.range n).map fun j => RegRef.v (d + j)) = L at *
  let u := if s.named L then s.noPoint else s
  let v := u.orFlags (BitVec.ofNat 6 (flagsOf ((lanesOf lanes).map f)))
  have hu : KeptBut L s u := State.pointed_kept L L s
  have huw : u.w = { s.w with point := if s.named L then none else s.w.point } := by
    simp only [u]; split <;> simp [State.noPoint_w]
  obtain ⟨hv, hvk⟩ := State.orFlags_spec u L (BitVec.ofNat 6 (flagsOf ((lanesOf lanes).map f)))
  have hreg : v.regs = s.regs := by simp only [v, u]; split <;> rfl
  have hvb : v.blk = s.blk := hvk.blk.trans hu.blk
  have hlane : ∀ i x, v.laneIn n i x = s.laneIn n i x := by
    intro i x
    unfold State.laneIn State.injLane
    rw [State.inject_fst 0 hvb hreg]
    unfold State.reg
    rw [hvb, hreg]
  have ht : t = (v.writeVec d n ((lanesOf lanes).map fun i => (i, (f i).bits))).advance len := by
    simp only [t, State.vecLanes]
    rw [hL, State.writing_eq s L _ h]
    simp only [List.map_map, Function.comp_def, v, u]
  obtain ⟨a, b, c, e, g⟩ := State.writeVec_spec v d n lanes fun i => (f i).bits
  rw [hL] at a
  clear_value t
  subst ht
  have hpath : v.path.pc = s.path.pc := by
    unfold State.path
    rw [hv, huw, hvk.curB, hu.curB]; cases s.curB <;> rfl
  refine ⟨fun j l hj hl => ?_, ?_, ⟨?_, ?_⟩, ((hu.trans hvk).trans a).trans (State.advance_kept _ _ _)⟩
  · have h1 := b j l hj hl
    simp only [State.rV, State.advance_w] at *
    rw [show (Warp.setPath _ _ _).rV (d + j) l = _ from by simp only [Warp.rV, Warp.setPath_v]; exact h1, hlane]
    rw [hv, huw]; rfl
  · change v.w = _ at hv; simp only [State.advance_w, Warp.setPath_fpflags, c]; rw [hv, huw]
  · simp [g, hpath]
  · change v.w = _ at hv; simp only [State.advance_w, Warp.setPath_point, e]; rw [hv, huw]

end Sys2Proof.Machine
end

