-- ==== Sys2Proof/Tests/Slice0.lean ====
section
/-! SUPPORT. Tests: ill-formed terms, decoding, one step of an instruction, and witnesses of the statements' hypotheses. -/

open Sys2Proof Sys2Proof.Machine Sys2Proof.Claims

namespace Sys2Proof.Tests

set_option Elab.async false

/-! Well-formed terms: one ill-formed term for each check (R323 to R331) -/

/-- None of these terms stands for words. -/
def refused (l : List Instr) : Bool := l.all fun i => !i.wf

theorem test_wf_refuses_register_names : refused [.trap 64, .eret 64, .ret 64, .jmpr 64, .vadd 256 0 0, .vadd 0 256 0, .vadd 0 0 256, .vabs 256 0, .vabs 0 256, .vmovi 256 0,
    .pand 16 0 0, .pand 0 16 0, .pand 0 0 16, .pnot 16 0, .pmovPS 0 64, .pmovSP 64 0, .pcnt 0 16, .pffs 64 0, .pmovPP 0 16, .vcmp .eq 16 0 0, .vcmp .eq 0 256 0,
    .sadd 64 0 0, .sadd 0 64 0, .sadd 0 0 64, .smov 64 0, .scmp .eq 0 0 64, .smovi 64 0, .sigadd 64, .mfmt 64, .sregS 64 0, .sregV 256 0] = true := by decide +kernel

theorem test_wf_refuses_memory_names : refused [.ld 256 0 0 0, .ld 0 32 0 0, .ld 0 0 256 0, .ld 0 0 0 16, .st 32 0 0 0, .st 0 0 256 0, .atom .add 256 0 0 0 false 0, .atom .add 0 32 0 0 false 0,
    .atom .add 0 0 0 1 false 0, .atom .cas 0 0 0 256 false 0, .ldu 64 0 0 0, .ldu 0 32 0 0, .ldu 0 0 64 0, .stu 32 0 0 0, .atomu .cas 1 0 0 0, .atomu .add 64 0 0 0, .pf 32 0 0, .pgreq 0 256 0,
    .pgreqY 0 0 16, .brec 32 0 0 0, .brec 0 64 0 0, .brecr 0 32 0 0, .brecr 0 0 64 0, .tld 0 64 0 0, .tld 0 0 0 8, .tst 64 0 0 0, .tst 0 0 0 8, .tatom .max 0 0 0 1 false 0, .tatom .cas 0 64 0 0 false 0] = true := by decide +kernel

theorem test_wf_refuses_field_values : refused [.bra (2 ^ 23), .bra (-2 ^ 23 - 1), .call (2 ^ 23), .bs .z 0 (2 ^ 16), .bs .z 64 0, .vbr 16 0 0, .vbr 0 (2 ^ 21) 0, .vbr 0 0 (2 ^ 31), .vswitch 0 0 0 [0],
    .vswitch 9 0 0 [0, 0, 0, 0, 0, 0, 0, 0, 0, 0], .vswitch 1 0 0 [0], .vswitch 1 0 0 [0, 2 ^ 31], .mode 9 0, .mode 0 (2 ^ 32), .mode 1 16, .mode 4 8, .mode 6 2, .mode 8 64, .modex 9 0, .modex 0 64, .role 4,
    .vmovi 0 128, .vmovi 0 (-129), .vmoviLiteral 0 (2 ^ 32), .smovi 0 8192, .sliLo 0 (2 ^ 32), .sliHi 64 0, .vshflUp 0 0 32, .vshflDown 0 256 0, .vshflXor 0 0 32, .vbcast 0 0 32, .vred .add 256 0,
    .vscan .add true 0 256, .vvote .all 64 0, .vvote .all 0 16, .qswz 0 0 256, .qbcast 0 0 4, .vget 64 0 0, .vget 0 0 32, .vput 0 64 0, .rwp ⟨4, 0, 0, 0, 0⟩, .rwp ⟨0, 16, 0, 0, 0⟩, .rwp ⟨0, 0, 2048, 0, 0⟩,
    .rwp ⟨0, 0, 0, 2 ^ 16, 0⟩, .rwp ⟨0, 0, 0, 0, 2 ^ 16⟩] = true := by decide +kernel

theorem test_wf_refuses_engine_names : refused [.fence .block 16, .fenceSc .block 16, .qfence 256 0, .qwait 256 0, .wacq 32 0, .wrel 32 0, .talloc 64 0 0, .tfree 64 0, .tinfo 0 64 0, .bar 16 0, .bar 0 33, .arrive 16 0, .arrive 0 33,
    .cpy ⟨256, 0, 0, 0, 0, 0, 0, false, 0, 0, 0, false, false⟩, .cpy ⟨0, 0, 32, 0, 0, 0, 0, false, 0, 0, 0, false, false⟩, .cpy ⟨0, 0, 0, 0, 3, 0, 0, false, 0, 0, 0, false, false⟩,
    .cpy ⟨0, 0, 0, 0, 0, 5, 0, false, 0, 0, 0, false, false⟩, .cpy ⟨0, 0, 0, 0, 0, 0, 5, false, 0, 0, 0, false, false⟩, .cpy ⟨0, 0, 0, 0, 0, 0, 0, false, 8, 0, 0, false, false⟩,
    .cpy ⟨0, 0, 0, 0, 0, 0, 0, false, 0, 3, 0, false, false⟩, .cpy ⟨0, 0, 0, 0, 0, 0, 0, false, 0, 0, 1, false, false⟩, .cpy ⟨0, 0, 0, 0, 0, 0, 0, false, 0, 1, 64, false, false⟩,
    .sattach 8 0 0 0, .qdrop 8 0, .qpop 256 0, .qpop 0 8, .mma 64 0 0, .mmag 0 0 64 0, .mmas 64 0 0, .mbld 64 0, .mbldPair 64 0, .mwb 0 64 0 0, .mqnt 0 0 64 0, .mpair 64 0, .munpair 16,
    .tskpost 64 0 0 0, .tskdec 0 64 0 0, .tskadd 0 0 64 0, .tskq 0 64 0] = true := by decide +kernel

/-! Decoding: the spec's worked words, and words written out from its field tables (R323 to R331) -/

/-- A word and its literals decode to an instruction. -/
def reads (e : Nat × List Nat × Instr) : Bool :=
  match decode e.1 e.2.1 with
  | .ok i => i == e.2.2
  | .error _ => false

theorem test_decode_control : ([(0, [], .nop), (0x00040000, [], .exit), (0x00080000, [], .yield), (0x000C5000, [], .trap 5), (0x00100000, [], .brkpt), (0x00147000, [], .eret 7),
    (0x00192020, [0x00300103], .rwp ⟨1, 2, 32, 0x103, 0x30⟩), (0x001C0000, [], .join), (0x0020C000, [], .ret 12), (0x0024C000, [], .jmpr 12), (0x00280001, [], .qhelpOn), (0x00280000, [], .qhelpOff),
    (0x04FFFFF8, [], .bra (-8)), (0x05000010, [], .call 16), (0x084BFFFA, [], .bs .gt 4 (-6)), (0x0C400003, [0x28], .vbr 1 3 40),
    (0x10030204, [5, 6, 7, 8], .vswitch 3 2 4 [5, 6, 7, 8]), (0x1C000002, [], .role 2)] : List (Nat × List Nat × Instr)).all reads = true := by decide +kernel

theorem test_decode_mode : ([(0x14000000, [0x000422F0], .mode 0 0x000422F0), (0x1410000F, [0], .mode 1 15), (0x1430000C, [0], .mode 3 12), (0x1480003F, [0], .mode 8 63), (0x18018000, [], .modex 0 6),
    (0x18514000, [], .modex 5 5), (0x18400901, [], .sregS 4 9), (0x18004202, [], .sregV 1 2), (0x18028003, [], .mfmt 10)] : List (Nat × List Nat × Instr)).all reads = true := by decide +kernel

theorem test_decode_vector : ([(0x20050607, [], .vadd 5 6 7), (0x21050607, [], .vsub 5 6 7), (0x22010203, [], .vmul 1 2 3), (0x23010203, [], .vmin 1 2 3), (0x24010203, [], .vmax 1 2 3), (0x25040506, [], .vfma 4 5 6),
    (0x26040506, [], .vfms 4 5 6), (0x2708090A, [], .vdiv 8 9 10), (0x28010203, [], .vand 1 2 3), (0x29010203, [], .vor 1 2 3), (0x2A010203, [], .vxor 1 2 3), (0x2B010203, [], .vshl 1 2 3),
    (0x2C010102, [], .vshr 1 1 2), (0x2D010203, [], .vmulhi 1 2 3), (0x2E0C0405, [], .vdot4 12 4 5), (0x2F030405, [], .vsel 3 4 5),
    (0x30030400, [], .vabs 3 4), (0x30030401, [], .vneg 3 4), (0x30030402, [], .vnot 3 4), (0x30030403, [], .vrcp 3 4), (0x30030404, [], .vrsq 3 4), (0x30030405, [], .vsqrt 3 4), (0x30030406, [], .vexp2 3 4),
    (0x30030407, [], .vlog2 3 4), (0x30030408, [], .vsin 3 4), (0x30030409, [], .vcos 3 4), (0x3003040A, [], .vpopc 3 4), (0x3006070B, [], .vclz 6 7), (0x3002090C, [], .vmov 2 9),
    (0x31080203, [], .vcvt .bf16x2 8 2), (0x310C0502, [], .vcvt .f32 12 5), (0x34040506, [], .vbfe 4 5 6), (0x35040506, [], .vbfi 4 5 6), (0x360200FF, [], .vmovi 2 (-1)),
    (0x37070000, [0x40200000], .vmoviLiteral 7 0x40200000), (0x38500203, [], .vcmp .lt 1 2 3), (0x38B80404, [], .vcmp .unord 2 4 4)] : List (Nat × List Nat × Instr)).all reads = true := by decide +kernel

theorem test_decode_lanes : ([(0x3C0C4800, [], .pand 3 1 2), (0x3C4C4800, [], .por 3 1 2), (0x3CBFFC00, [], .pxor 15 15 15), (0x3CC84000, [], .pnot 2 1), (0x3D100090, [], .pmovPS 4 9), (0x3D410090, [], .pmovSP 9 4),
    (0x3D83C0A0, [], .pcnt 10 15), (0x3DC080B0, [], .pffs 11 2), (0x3E3BC000, [], .pmovPP 14 15), (0x40040506, [], .vshflIdx 4 5 6), (0x41040501, [], .vshflUp 4 5 1), (0x42040502, [], .vshflDown 4 5 2),
    (0x43040510, [], .vshflXor 4 5 16), (0x44040507, [], .vbcast 4 5 7), (0x45040500, [], .vred .add 4 5), (0x46040510, [], .vscan .add true 4 5), (0x470A0302, [], .vvote .ballot 10 3),
    (0x480405B1, [], .qswz 4 5 0xB1), (0x49060502, [], .qbcast 6 5 2), (0x4C040911, [], .vget 4 9 17), (0x4D090411, [], .vput 9 4 17)] : List (Nat × List Nat × Instr)).all reads = true := by decide +kernel

theorem test_decode_scalar : ([(0x50310500, [], .sadd 3 4 5), (0x50310501, [], .ssub 3 4 5), (0x50310502, [], .smul 3 4 5), (0x50310503, [], .sand 3 4 5), (0x50310504, [], .sor 3 4 5), (0x50310505, [], .sxor 3 4 5),
    (0x50310506, [], .sshl 3 4 5), (0x50310507, [], .sshr 3 4 5), (0x50410508, [], .sshrA 4 4 5), (0x50310509, [], .smin 3 4 5), (0x5031050A, [], .smax 3 4 5), (0x5031050B, [], .sminU 3 4 5), (0x5031050C, [], .smaxU 3 4 5),
    (0x5022400D, [], .smov 2 9), (0x50720926, [], .scmp .ltu 7 8 9), (0x54303FFE, [], .smovi 3 (-2)), (0x58500000, [0x12345678], .sliLo 5 0x12345678), (0x58500001, [1], .sliHi 5 1),
    (0xAC007000, [], .sigadd 7)] : List (Nat × List Nat × Instr)).all reads = true := by decide +kernel

theorem test_decode_memory : ([(0x6082040C, [], .ld 8 2 6 2), (0x6400C200, [], .st 1 0 3 0), (0x64490440, [], .st 2 32 36 1), (0x68010204, [0], .atom .add 4 1 2 0 false 0), (0x68010204, [0x2004], .atom .or 4 1 2 0 true 0),
    (0x68018604, [0x107], .atom .cas 6 3 2 8 false 0), (0x6C005046, [], .ldu 5 1 6 0), (0x6C045046, [], .stu 1 6 5 0), (0x6C08A08B, [], .atomu .add 10 2 11 0), (0x6C24A08B, [], .atomu .cas 10 2 11 0),
    (0x70000204, [], .pf 1 2 0), (0x70004204, [], .pgreq 1 2 0), (0x70404205, [], .pgreqY 1 2 1), (0x7400428B, [], .brec 4 10 11 0), (0x7404504C, [], .brecr 5 1 12 0),
    (0x78002000, [], .fence .die 0), (0x78043000, [], .fenceSc .package 0), (0x78080003, [], .qfence 3 0), (0x780C0005, [], .qwait 5 0), (0x78100140, [], .wacq 5 0), (0x78140140, [], .wrel 5 0),
    (0x8C080C22, [0x48A49000], .cpy ⟨2, 3, 1, 2, 1, 1, 0, true, 2, 1, 9, false, false⟩)] : List (Nat × List Nat × Instr)).all reads = true := by decide +kernel

theorem test_decode_engines : ([(0x7C810C07, [], .tld 4 12 7 2), (0x7E010C07, [], .tst 12 7 4 0), (0x80010C07, [0], .tatom .add 4 12 7 0 false 0), (0x80018C07, [0x107], .tatom .cas 6 12 7 8 false 0),
    (0x8400A2C0, [], .talloc 10 11 0), (0x8404A000, [], .tfree 10 0), (0x8408C280, [], .tinfo 12 10 0), (0x880000C8, [], .bar 3 8), (0x88000000, [], .bar 0 0), (0x88040000, [], .gbar), (0x88080084, [], .arrive 2 4),
    (0x90004142, [], .sattach 2 4 5 0), (0x90040002, [], .qdrop 2 0), (0x94050002, [], .qpop 5 2), (0x9880A2C0, [], .mma 10 11 2), (0x9804A2CC, [], .mmag 10 11 12 0), (0x9808A00C, [], .mmas 10 12 0),
    (0x9CC0E000, [], .mbld 14 3), (0x9C04E000, [], .mbldPair 14 0), (0x9C08A2CC, [], .mwb 10 11 12 0), (0xA000A2CC, [], .mqnt 10 11 12 0), (0xA4014000, [], .mpair 20 0), (0xA4040000, [], .munpair 0),
    (0xA800A2CC, [], .tskpost 10 11 12 0), (0xA804A34E, [], .tskdec 10 13 14 0), (0xA808A34E, [], .tskadd 10 13 14 0), (0xA80CF340, [], .tskq 15 13 0)] : List (Nat × List Nat × Instr)).all reads = true := by decide +kernel

/-- Words that stand for nothing (R331). -/
theorem test_decode_refuses : (([(0xFFFFFFFF, []), (0x5C000000, []), (0xB0000000, []), (0x00000001, []), (0x00400000, []), (0x002C0000, []), (0x080C0000, []), (0x10000000, [0]), (0x10090000, [0]), (0x14900000, [0]),
    (0x1410000F, [1]), (0x1C000004, []), (0x3003040D, []), (0x3203040D, []), (0x38500203 + 2 ^ 16, []), (0x3C0C4801, []), (0x41040520, []), (0x5031050E, []), (0x58500002, [0]), (0x6082040D, []), (0x68010204, [0x20]),
    (0x70008204, []), (0x7404884C, []), (0x78145000, []), (0x8C080C22, [0xC8A49000]), (0x8C080C22, [0x48A49001]), (0x90040008, []), (0xAC407000, [])] : List (Nat × List Nat)).all fun e => match decode e.1 e.2 with
      | .ok _ => false
      | .error _ => true) = true := by decide +kernel

/-! Small states -/

/-- A path at 0x1000 with four lanes. -/
def path0 : Path := { Path.idle with pc := 0x1000, mask := 0xF, st := .ready }

/-- A warp of block 1: s1 = 5, s2 = −3, p1 the two low lanes, v1 the lane numbers and v2 ones. -/
def warp0 : Warp :=
  { Warp.idle with
    bid := 1, live := 0xF, allot := 16, pathA := path0
    s := [(1, 5), (2, 0xFFFFFFFFFFFFFFFD#64), (3, 2)], p := [(1, 3)], v := [(33, 1), (34, 2), (35, 3), (64, 1), (65, 1), (66, 1), (67, 1)] }

/-- A block of one warp on core 0, of task 3 of VF 0. -/
def block0 : Block := { Block.idle with vf := 0, task := 3, nwarps := 1 }

/-- A task record: code at 0x1000, a trap handler at 0x100 past it, one block of one warp. -/
def record0 : BitVec 2048 := BitVec.ofNat 2048 (0x1000 + 2 ^ 57 + 3 * 2 ^ 64 + (1 + 2 ^ 16 + 2 ^ 32) * 2 ^ 128 + 0x100 * 2 ^ 32 * 2 ^ 192)

/-- The task of that record. -/
def task0 : Task := { Task.idle with record := record0, st := .running, placed := 1 }

/-- A package that runs the warp. -/
def base : State := { State.reset with cur := 32, warps := [(32, warp0)], blocks := [(1, block0)], tasks := [(3, task0)], nextId := 100 }

/-- The same with a warp changed. -/
def withW (f : Warp → Warp) : State := { base with warps := [(32, f warp0)] }

/-- The same with a block changed. -/
def withB (f : Block → Block) : State := { base with blocks := [(1, f block0)] }

/-- The state an instruction leaves, or the state before where it leaves none. -/
def after (i : Instr) (s : State) : State :=
  match exec i s with
  | .next t => t
  | _ => s

/-- A register written. -/
def setR (l : List (Nat × Nat × Nat × DWord)) (s : State) : State := l.foldl (fun s e => s.setReg e.1 e.2.1 e.2.2.1 e.2.2.2) s

/-- A block of registers active in a booted package. -/
def active (fn blk : Nat) (s : State) : State := setR [(Config.pf, blkBoot, 0x100008, 3), (fn, 0, blk, 1)] s

/-! Witnesses: encoding, fetch and step -/

/-- The word of `vadd v5, v6, v7` at the PC, in a page that the core's first-level TLB holds. -/
def fetching : State :=
  { base with keys := { base.keys with fot := [(2, ⟨0, true, some 0⟩)] }, mm := { base.mm with tlb1 := [⟨0, 0, 0, 0x1000, 0x1000, 0x2000, false, true, false⟩], mem := [(0x2000, 7), (0x2001, 6), (0x2002, 5), (0x2003, 0x20)] } }

/-- A line that does not stand in L2 is of the domain that owns its frame. -/
theorem fits_of {s : State} {line dom : Nat} (h : dom = (s.fotOf (line / 16)).owner) (h2 : AL.get? s.mm.l2dom line = none) : LineFits s line dom :=
  ⟨h, fun d e => by rw [h2] at e; cases e⟩

/-- A value that a computation is known to end with. -/
theorem ok_of {ε α : Type} [DecidableEq α] {x : Except ε α} {a : α} (h : (match x with | .ok b => decide (b = a) | .error _ => false) = true) : x = .ok a := by
  cases x <;> simp_all

/-- The package once the word is fetched. -/
def fetched : State :=
  match (issuingAt { fetching with issue := some (32, false) } (32, false)).fetchInstr with
  | .ok (_, u) => u
  | .error _ => fetching

theorem holds_word : HoldsWord fetching 0x1000 0x20050607 := by
  refine ⟨.inl (by decide +kernel), _, (by rfl : tlbFind fetching.mm.tlb1 fetching.blk.core fetching.blk.vf 0x1000 = some ⟨0, 0, 0, 0x1000, 0x1000, 0x2000, false, true, false⟩), ?_⟩
  unfold CleanSector
  refine ⟨by decide +kernel, by decide +kernel, by decide +kernel, by decide +kernel, fits_of (by decide +kernel) (by decide +kernel), by decide +kernel⟩

theorem witness_DecodeOfEncode : (Instr.vadd 5 6 7).isInstruction = true ∧ (Instr.vadd 5 6 7).wf = true := by decide

theorem witness_EncodeOfDecode : (∀ b, b ∈ [7, 6, 5, 0x20, 9] → b < 256) ∧ decodeBytes [7, 6, 5, 0x20, 9] = .ok (.vadd 5 6 7, [9]) := ⟨by decide, by rfl⟩

theorem witness_FetchReadsTheBytesAtThePc : HoldsWords fetching [0x20050607] ∧ decodeBytes (wordBytes [0x20050607]) = .ok (.vadd 5 6 7, []) ∧
    (∀ w, [0x20050607][0]? = some w → fetching.firstWordBad w = false) := by
  refine ⟨fun k w h => ?_, by rfl, fun w h => by cases h; decide +kernel⟩
  rcases k with _ | k
  · cases h; exact holds_word
  · cases h

theorem witness_StepRunsTheDecodedInstruction :
    (issuingAt { fetching with issue := some (32, false) } (32, false)).issuable (32, false) = true ∧
    (issuingAt { fetching with issue := some (32, false) } (32, false)).fetchInstr = .ok (.vadd 5 6 7, fetched) ∧
    fetched.gate (.vadd 5 6 7) = none ∧ base.closing = none ∧ ({ base with signals := [1] } : State).closing.isSome = true ∧
    (withW fun w => { w with pend := [⟨7, false, [.v 6], 6, 4, 0, 0, 0, 0, [], [9], 0, 0, 0, 0⟩] }).gate (.vadd 5 6 7) ≠ none ∧
    fetching.firstWordBad 0xFFFFFFFF = true ∧ fetching.firstWordBad 0x37140000 = true ∧ fetching.firstWordBad 0x37020000 = false ∧ HoldsWord fetching 0x1000 0x20050607 ∧
    (issuingAt { (withW fun w => { w with exited := true }) with issue := some (32, false) } (32, false)).issuable (32, false) = false := by
  refine ⟨by decide +kernel, ok_of (by decide +kernel), by decide +kernel, by decide +kernel, by decide +kernel, by decide +kernel, by decide +kernel, by decide +kernel, by decide +kernel, holds_word, by decide +kernel⟩

theorem witness_StepKeepsTheMemoryForm : base.Inv ∧ step { base with agenda := [.linkup 3] } = exec (.linkup 3) base := ⟨(by decide : Memory.wf base.mm.mem = true), rfl⟩

/-! Witnesses: register results -/

/-- A warp in recipe mode whose rewind point names s1 and v1. -/
def inRecipe : State :=
  withW fun w => { w with recipe := true, point := some ⟨0x1000, 0, BitVec.ofNat 32 (2 + 2 * 2 ^ 16), 0xF, [], Sig.zero, Sig.zero, 0, 0, 0, 0⟩ }

/-- The path's MODE changed. -/
def withMode (x : Word) : State := withW fun w => { w with pathA := { w.pathA with mode := x } }

theorem witness_ScalarResultsAndFrame : scalarOut base (.sadd 3 1 2) = some (3, 2, 4) ∧ base.recipeBlocks [.s 3] = false ∧ scalarOut inRecipe (.smov 0 1) = some (0, 5, 4) ∧ inRecipe.recipeBlocks [.s 0] = false := by decide +kernel

theorem witness_ScalarCompareWritesZeroOrOne : base.recipeBlocks [.s 3] = false ∧ scmpNum .lt (base.rS 2) (base.rS 1) ∧ ¬ scmpNum .ltu (base.rS 2) (base.rS 1) := by
  unfold scmpNum; decide +kernel

theorem witness_RecipeModeForbidsNamedRegisters : scalarOut inRecipe (.smov 1 2) = some (1, 0xFFFFFFFFFFFFFFFD#64, 4) ∧ inRecipe.w.recipe = true ∧ inRecipe.named [.s 1] = true := by decide +kernel

theorem witness_PredicateLogicResultsAndFrame : base.recipeBlocks [.p 0] = false ∧ base.recipeBlocks [.p 15] = false := by decide +kernel

theorem witness_PredicateToScalarResultsAndFrame : base.recipeBlocks [.s 63] = false ∧ base.rP 2 = 0 ∧ ((base.rP 1).getLsbD 0 = true ∧ ∀ j, j < 0 → (base.rP 1).getLsbD j = false) ∧
    (∀ i, i < 32 → base.activeGuarded.getLsbD i = true → (base.rP 0).getLsbD i = true) ∧ (base.activeGuarded.getLsbD 3 = true ∧ (base.rP 1).getLsbD 3 = false) ∧
    (base.activeGuarded.getLsbD 0 = true ∧ (base.rP 1).getLsbD 0 = true) ∧ ∀ i, i < 32 → base.activeGuarded.getLsbD i = true → (base.rP 2).getLsbD i = false := by decide +kernel

/-- A block whose run is checked, with a log slot of 1 MiB. -/
def logged0 : State := withB fun b => { b with kind := .mortise, origin := 1, logAt := 0x100000, logSize := 0x100000 }

/-- A check run (block 2) of block 1, whose log holds the entries given. -/
def checking (l : List LogEntry) : State :=
  { base with
    cur := 64
    warps := [(64, { warp0 with bid := 2 })]
    blocks := [(1, { block0 with kind := .mortise, origin := 1, st := .held, log := l }), (2, { block0 with kind := .tenon, origin := 1 })] }

/-- A value that a mortise run logged for the first access of its warp's path A. -/
def valEntry : LogEntry := ⟨leVal, 0, false, 0, 3, 0, leBytes 8 77, true, false, 0, 0⟩

/-- The task is pure now, with a trap handler or without. -/
def pure0 (te : Bool) : State :=
  { base with tasks := [(3, { task0 with pureNow := true, record := if te then record0 else BitVec.ofNat 2048 (0x1000 + 3 * 2 ^ 64 + (1 + 2 ^ 16 + 2 ^ 32) * 2 ^ 128) })] }

theorem witness_TimeIsLogged : PlainRead base ∧ (Logs logged0 8 ∧ logged0.task.pureNow = false) ∧ (Takes (checking [valEntry]) valEntry ∧ valEntry.is leVal 0 = true) ∧
    (Takes (checking [{ valEntry with typ := leLoad }]) { valEntry with typ := leLoad } ∧ ({ valEntry with typ := leLoad } : LogEntry).is leVal 0 = false) ∧
    ((pure0 true).task.pureNow = true ∧ (pure0 true).task.te = true ∧ (pure0 true).logging = false) ∧ ((pure0 false).task.pureNow = true ∧ (pure0 false).task.te = false) := by
  unfold PlainRead Logs Stands Takes; decide +kernel

theorem witness_SpecialRegisterToScalar : base.recipeBlocks [.s 4] = false ∧ (1 ≤ 21 ∧ 21 ≤ 21 ∧ 21 ≠ 9 ∧ 21 ≠ 10) ∧ 22 ≤ 22 := by decide +kernel

/-! Witnesses: vector results -/

theorem witness_VectorBinaryResultsAndFrame : (binaryForm (.vadd 15 1 2)).map (·.1) = some (15, 1, 2) ∧ etNum base.ctl.et = true ∧
    (base.vRegsOk 15 (etRegs base.ctl.et) && base.vRegsOk 1 (etRegs base.ctl.et) && base.vRegsOk 2 (etRegs base.ctl.et)) = true ∧ base.recipeBlocks (destRegs 15 (etRegs base.ctl.et)) = false ∧
    base.acting.getLsbD 3 = true ∧ base.acting.getLsbD 4 = false ∧ (base.inject 0).1 = none := by decide +kernel

theorem witness_VectorUnaryResultsAndFrame : (unaryForm (.vabs 14 8)).map (·.1) = some (14, 8) ∧ etNum (withMode 0x222900).ctl.et = true ∧
    ((withMode 0x222900).vRegsOk 14 (etRegs (withMode 0x222900).ctl.et) && (withMode 0x222900).vRegsOk 8 (etRegs (withMode 0x222900).ctl.et)) = true ∧
    (withMode 0x222900).recipeBlocks (destRegs 14 (etRegs (withMode 0x222900).ctl.et)) = false := by decide +kernel

theorem witness_VectorFusedResultsAndFrame : (etNum base.ctl.et && base.vRegsOk 3 (etRegs base.ctl.et) && base.vRegsOk 1 (etRegs base.ctl.et) && base.vRegsOk 2 (etRegs base.ctl.et)) = true ∧
    base.recipeBlocks (destRegs 3 (etRegs base.ctl.et)) = false ∧ (3 ≤ (withMode 0x700).ctl.et ∧ (withMode 0x700).ctl.et ≤ 7) ∧ ((withMode 0x700).vOk 3 && (withMode 0x700).vOk 1 && (withMode 0x700).vOk 2) = true ∧
    (withMode 0x700).recipeBlocks (destRegs 3 1) = false := by decide +kernel

theorem witness_VectorDataResultsAndFrame : (base.vRegsOk 3 (etRegs base.ctl.et) && base.vRegsOk 1 (etRegs base.ctl.et) && base.vRegsOk 2 (etRegs base.ctl.et)) = true ∧ (withMode 0x100).path.modeET ≤ 1 ∧
    ((withMode 0x100).vOk 15 && (withMode 0x100).vOk 1 && (withMode 0x100).vOk 2) = true ∧ (withMode 0x100).recipeBlocks (destRegs 15 1) = false ∧ base.vOk 15 = true ∧ (21 ≤ 21 ∧ 21 ≠ 9 ∧ 21 ≠ 10) ∧
    (base.vRegsOk 4 (rangeRegs (groupOf base.ctl.et (etCode .f64)) (etCode .f64)) && base.vRegsOk 1 (rangeRegs (groupOf base.ctl.et (etCode .f64)) base.ctl.et)) = true := by decide +kernel

theorem witness_LaneExchangeResultsAndFrame : (exchangeForm (.vshflUp 3 1 31)).map (·.1) = some (3, 1) ∧ (base.vOk 3 && base.vOk 1) = true ∧ base.recipeBlocks (destRegs 3 1) = false ∧ (base.vOk 3 && base.vOk 1 && base.vOk 2) = true := by decide +kernel

theorem witness_ReductionResultsAndFrame : (redOk .add base.ctl.et && base.vRegsOk 3 (etRegs base.ctl.et) && base.vRegsOk 1 (etRegs base.ctl.et)) = true ∧ base.recipeBlocks (destRegs 3 (etRegs base.ctl.et)) = false := by decide +kernel

theorem witness_VectorCompareResultsAndFrame : (etNum base.ctl.et && base.vRegsOk 1 (etRegs base.ctl.et) && base.vRegsOk 2 (etRegs base.ctl.et)) = true ∧ base.recipeBlocks [.p 1] = false := by decide +kernel

theorem witness_SingleLaneResultsAndFrame : base.vRegsOk 1 (etRegs base.path.modeET) = true ∧ base.recipeBlocks [.s 3] = false ∧ base.recipeBlocks (destRegs 1 (etRegs base.path.modeET)) = false := by decide +kernel

theorem witness_IntegerAddWrapsOrClamps : (withMode 0).path.modeET = 0 ∧ ((withMode 0).vOk 3 && (withMode 0).vOk 1 && (withMode 0).vOk 2) = true ∧ (withMode 0).recipeBlocks [.v 3] = false ∧ (withMode 0).acting.getLsbD 3 = true ∧
    3 ≠ (withMode 0).injLane ∧ (withMode 0).path.modeSAT = false ∧ (withMode 0x40000).path.modeSAT = true ∧ (withMode 0x40000).path.modeET = 0 := by decide +kernel

/-! Witnesses: control transfer -/

/-- The task changed. -/
def withT (f : Task → Task) : State := { base with tasks := [(3, f task0)] }

/-- Two streams that meet at 0x1000, path A there with lanes 0 and 1. -/
def splitW : State := withW fun w => { w with split := true, pathA := { path0 with mask := 3 }, pathB := { path0 with mask := 12, pc := 0x1010 }, top := ⟨0, 0, 0, 0, 0x222200, 0x40000⟩ }

/-- The same with path B's arm done. -/
def splitDone : State := withW fun w => { w with split := true, pathA := { path0 with mask := 3 }, pathB := { path0 with mask := 0, st := .ended }, top := ⟨0, 0, 0, 12, 0x222200, 0x40000⟩ }

/-- A serial entry on the stack, with given pending lanes and reconvergence offset. -/
def stacked (rpc : BitVec 32) (pend : Word) : State := withW fun w => { w with pathA := { path0 with mask := 3, stack := [⟨rpc, 9, pend, 0, 0x222300, 0⟩] } }

/-- A handler of a `trap`. -/
def inHandler0 : State := withW fun w => { w with inHandler := true, xcode := 0x0E, xfirst := 0x2000, xmode := 0x222300, xfmt := 1 }

/-- A block whose run is checked: its paths fold signatures. -/
def mortise0 : State := withB fun b => { b with kind := .mortise }

/-- A check run. -/
def tenon0 : State := withB fun b => { b with kind := .tenon }

/-- A package whose VF 0 is debugged. -/
def debugged : State := setR [(0, blkDebug, 0x80, 1)] base

/-- A load owed to s1. -/
def owing : State := withW fun w => { w with pend := [⟨7, false, [.s 1], 1, 8, 0, 1, 0, 0, [], [9], 0, 0, 0, 0⟩] }

/-- A task with one role of 16 registers, entered 0x40 past the code. -/
def roled : State := withT fun t => { t with record := record0 ||| BitVec.ofNat 2048 ((0x40 + 2 * 2 ^ 32 + 2 ^ 40 + 2 ^ 47) * 2 ^ (8 * 0xC0)) }

theorem witness_BsRule : (63 < 64 ∧ 5 < 8 ∧ 2 ^ 17 - 1 < 2 ^ 17) ∧ bsNum .gt (base.rS 1).toInt ∧ ¬ bsNum .ge (base.rS 2).toInt ∧ ∃ p, p ∈ owing.w.pend ∧ .s 1 ∈ p.regs := by
  refine ⟨by decide, ?_, ?_, _, List.mem_cons_self, by decide +kernel⟩
  · show 0 < (base.rS 1).toInt; decide +kernel
  · show ¬ 0 ≤ (base.rS 2).toInt; decide +kernel

theorem witness_NopRule : 15 < 16 ∧ 63 < 64 := by decide

theorem witness_JmprRule : (15 < 16 ∧ 63 < 64) ∧ (base.rS 0).toNat % 4 = 0 ∧ (base.rS 1).toNat % 4 ≠ 0 := by decide +kernel

theorem witness_BranchesMoveOnlyThePath : (base.rS 0).toNat % 4 = 0 ∧ (base.rS 1).toNat % 4 ≠ 0 ∧ base.recipeBlocks [.s 63] = false := by decide +kernel

theorem witness_VectorBranchDiverges : base.path.mask &&& ~~~base.rP 0 = 0 ∧ (base.path.mask &&& ~~~base.rP 2 ≠ 0 ∧ base.path.mask &&& base.rP 2 = 0) ∧
    (base.path.mask &&& ~~~base.rP 1 ≠ 0 ∧ base.path.mask &&& base.rP 1 ≠ 0 ∧ base.w.recipe = false ∧ base.w.split = false) ∧
    (inRecipe.path.mask &&& ~~~inRecipe.rP 1 ≠ 0 ∧ inRecipe.path.mask &&& inRecipe.rP 1 ≠ 0 ∧ inRecipe.w.recipe = true) ∧
    (let s := withW fun w => { w with split := true, pathA := { path0 with stack := List.replicate 15 StackEntry.zero, spilled := 48 } }
     s.path.mask &&& ~~~s.rP 1 ≠ 0 ∧ s.path.mask &&& s.rP 1 ≠ 0 ∧ s.w.recipe = false ∧ s.w.split = true ∧ s.path.stack.length < 16 ∧ s.path.depth < 64) ∧
    (let s := withW fun w => { w with split := true, pathA := { path0 with stack := List.replicate 16 StackEntry.zero, spilled := 48 } }
     s.path.mask &&& ~~~s.rP 1 ≠ 0 ∧ s.path.mask &&& s.rP 1 ≠ 0 ∧ s.w.recipe = false ∧ s.w.split = true ∧ 64 ≤ s.path.depth) := by decide +kernel

theorem witness_VectorSwitchDiverges : base.vOk 1 = true ∧ base.parts 1 2 0 [4, 9] = [(0x1024, 0xF)] ∧ base.parts 2 1 1 [4, 9, 14] = [(0x1024, 1), (0x1038, 0xE)] ∧ base.w.recipe = false ∧ base.w.split = false ∧
    (inRecipe.vOk 1 = true ∧ inRecipe.parts 2 1 1 [4, 9, 14] = [(0x1024, 1), (0x1038, 0xE)] ∧ inRecipe.w.recipe = true) ∧
    (splitW.vOk 1 = true ∧ splitW.parts 2 1 1 [4, 9, 14] = [(0x1024, 1), (0x1038, 2)] ∧ splitW.w.split = true ∧ splitW.path.stack.length + (0 + 1) ≤ 16 ∧ splitW.path.depth + (0 + 1) ≤ 64) := by decide +kernel

theorem witness_JoinReconverges : ((stacked 4 0xC).path.stack = [⟨4, 9, 0xC, 0, 0x222300, 0⟩] ∧ offAddr (stacked 4 0xC).codeva 4 ≠ (stacked 4 0xC).path.pc) ∧
    (base.path.stack = [] ∧ ¬ (base.w.split = true ∧ offAddr base.codeva base.w.top.rpc = base.path.pc)) ∧
    ((stacked 0 0xC).path.stack = [⟨0, 9, 0xC, 0, 0x222300, 0⟩] ∧ offAddr (stacked 0 0xC).codeva 0 = (stacked 0 0xC).path.pc ∧ (0xC : Word) &&& (stacked 0 0xC).w.live ≠ 0) ∧
    ((stacked 0 0).path.stack = [⟨0, 9, 0, 0, 0x222300, 0⟩] ∧ (stacked 0 0).path.spilled = 0 ∧ (0 : Word) &&& (stacked 0 0).w.live = 0 ∧ ((0 : Word) ||| (stacked 0 0).path.mask) &&& (stacked 0 0).w.live ≠ 0 ∧
      ¬ ((stacked 0 0).w.split = true ∧ offAddr (stacked 0 0).codeva (stacked 0 0).w.top.rpc = (stacked 0 0).path.pc)) ∧
    (splitW.path.stack = [] ∧ splitW.w.split = true ∧ offAddr splitW.codeva splitW.w.top.rpc = splitW.path.pc ∧ (splitW.w.path (!splitW.curB)).st ≠ .ended) ∧
    (splitDone.path.stack = [] ∧ splitDone.w.split = true ∧ offAddr splitDone.codeva splitDone.w.top.rpc = splitDone.path.pc ∧ (splitDone.w.path (!splitDone.curB)).st = .ended ∧
      (splitDone.w.top.dmask ||| splitDone.path.mask) &&& splitDone.w.live ≠ 0) := by decide +kernel

/-- A warp with one use of barrier 2 under way, that another warp of its block waits at. -/
def exitBar (expected : Nat) : State :=
  { base with
    warps := [(32, warp0), (33, { warp0 with idx := 1, pathA := { path0 with st := .barrier 2 0 true } })]
    blocks := [(1, { block0 with nwarps := 2, bars := [(2, ⟨none, expected, 1, 2⟩)] })] }

/-- Path A alone in a split warp, with an entry on its stack that two pending lanes, two done lanes or none belong to. -/
def exitEntry (pend done_ : Word) : State :=
  withW fun w => { w with split := true, live := 0x3F, pathA := { path0 with mask := 3, stack := [⟨4, 9, pend, done_, 0x222300, 0⟩] }, pathB := { path0 with mask := 0x30 }, top := ⟨0, 0, 0, 0, 0x222200, 0x40000⟩ }

theorem witness_ExitEndsLanes_warp : inRecipe.w.recipe = true ∧ base.w.recipe = false ∧ base.path.spilled = 0 ∧
    (base.w.split = false ∧ base.blk.kind = .plain ∧ ∀ k, k ∈ base.warpsOf base.bid → (base.warpOf k).roleWaits = none) ∧
    (let s := exitBar 2
     (s.w.split = false ∧ s.blk.kind = .plain ∧ ∀ k, k ∈ s.warpsOf s.bid → (s.warpOf k).roleWaits = none) ∧ AL.has s.blocks s.bid = true ∧ AL.get? s.gangs (s.gangKey s.blk) = none ∧
       s.blk.bars = [(2, ⟨none, 2, 1, 2⟩)] ∧ (2#32).getLsbD s.w.idx = false ∧ 33 ∈ s.warpsOf s.bid ∧ (s.warpOf 33).pathA.barCounted 2 = true) ∧
    (exitBar 3).blk.bars = [(2, ⟨none, 3, 1, 2⟩)] := by decide +kernel

theorem witness_ExitEndsLanes_arms : (splitW.w.recipe = false ∧ splitW.w.split = true ∧ splitW.path.stack = [] ∧ (splitW.w.path (!splitW.curB)).st ≠ .ended) ∧
    (splitDone.w.split = true ∧ splitDone.path.stack = [] ∧ (splitDone.w.path (!splitDone.curB)).st = .ended ∧ splitDone.w.top.dmask &&& (splitDone.w.live &&& ~~~splitDone.path.mask) ≠ 0) ∧
    (let s := withW fun w => { splitDone.w with top := { splitDone.w.top with dmask := 0 }, allot := w.allot }
     s.w.split = true ∧ s.path.stack = [] ∧ (s.w.path (!s.curB)).st = .ended ∧ s.w.top.dmask &&& (s.w.live &&& ~~~s.path.mask) = 0 ∧ s.blk.kind = .plain ∧ ∀ k, k ∈ s.warpsOf s.bid → (s.warpOf k).roleWaits = none) ∧
    ((exitEntry 0xC 0).w.split = true ∧ (exitEntry 0xC 0).path.stack = [⟨4, 9, 0xC, 0, 0x222300, 0⟩] ∧ (0xC : Word) &&& ((exitEntry 0xC 0).w.live &&& ~~~(exitEntry 0xC 0).path.mask) ≠ 0) ∧
    ((exitEntry 0 0xC).path.stack = [⟨4, 9, 0, 0xC, 0x222300, 0⟩] ∧ (exitEntry 0 0xC).path.spilled = 0 ∧ (0xC : Word) &&& ((exitEntry 0 0xC).w.live &&& ~~~(exitEntry 0 0xC).path.mask) ≠ 0 ∧
      ¬ MeetsAt (exitEntry 0 0xC) [] (offAddr (exitEntry 0 0xC).codeva 4)) ∧
    ((exitEntry 0 0).path.stack = [⟨4, 9, 0, 0, 0x222300, 0⟩] ∧ (0 : Word) &&& ((exitEntry 0 0).w.live &&& ~~~(exitEntry 0 0).path.mask) = 0) := by
  unfold MeetsAt; decide +kernel

theorem witness_SoftwareTrapsEnterTheHandler : base.task.te = true ∧ base.w.inHandler = false ∧ base.w.recipe = false ∧ base.checkRun = false ∧ base.den base.blk.vf = false := by decide +kernel

theorem witness_UnhandledTrapKillsTheTask : inHandler0.w.recipe = false ∧ inHandler0.w.inHandler = true ∧ inHandler0.blk.kind = .plain ∧ inHandler0.taskLive inHandler0.blk.vf inHandler0.blk.task = true ∧ inHandler0.task.termSent = false ∧
    (let s := withT fun t => { t with record := 0 }
     s.w.recipe = false ∧ s.task.te = false ∧ s.blk.kind = .plain ∧ s.taskLive s.blk.vf s.blk.task = true ∧ s.task.termSent = false) := by decide +kernel

theorem witness_BreakpointStopsOrPasses : tenon0.checkRun = true ∧ (debugged.checkRun = false ∧ debugged.den debugged.blk.vf = true ∧ debugged.w.dbg = false ∧ AL.has debugged.warps debugged.cur = true ∧ debugged.blk.kind = .plain ∧
    ((AL.get? debugged.stops debugged.blk.vf).getD []).length < 16) := by decide +kernel

theorem witness_EretRestores : base.w.recipe = false ∧ base.w.inHandler = false ∧ inHandler0.w.recipe = false ∧ inHandler0.w.inHandler = true ∧ inHandler0.w.split = false ∧ (inHandler0.rS 63).toNat % 4 = 0 ∧
    (splitW.w.recipe = false ∧ splitW.w.split = true ∧ (splitW.w.path (!splitW.curB)).held = false) ∧
    (let s := withW fun w => { w with split := true, inHandler := true, pathB := { path0 with held := true } }
     s.w.recipe = false ∧ s.w.inHandler = true ∧ s.w.split = true ∧ (s.w.path (!s.curB)).held = true ∧ s.path.depth ≤ s.w.handlerDepth) ∧
    (let s := withW fun w => { w with split := true, inHandler := true, pathA := { path0 with stack := [StackEntry.zero] }, pathB := { path0 with held := true } }
     s.w.handlerDepth < s.path.depth) := by decide +kernel

theorem witness_RewindPointIsMade : rwpVBad ⟨0, 7, 2, 1, 0⟩ base.w.allot = true ∧ rwpVBad ⟨0, 0, 2, 2, 2⟩ base.w.allot = false ∧ base.w.recipe = false ∧ base.w.inHandler = false ∧ base.w.split = false ∧
    (rwpVBad ⟨0, 0, 2, 2, 2⟩ inHandler0.w.allot = false ∧ inHandler0.w.recipe = false ∧ inHandler0.w.inHandler = true) ∧ (rwpVBad ⟨0, 0, 2, 2, 2⟩ splitW.w.allot = false ∧ splitW.w.split = true) := by decide +kernel

/-- b1 an ordinary record of 64 elements, s3 its narrowing from element 2. -/
def recorded : State := withW fun w => { w with b := [(1, BitVec.ofNat 128 (0x4000 + 4 * 2 ^ 64 + 64 * 2 ^ 96))], s := [(3, BitVec.ofNat 64 (2 + 8 * 2 ^ 32))] }

theorem witness_RewindPointInRecipe :
    (let s := withW fun w => { w with recipe := true, point := some ⟨0x1000, 0, BitVec.ofNat 32 (2 + 2 * 2 ^ 16), 0xF, [], Sig.zero, Sig.zero, 0, 0, 0, 0⟩, pathA := { w.pathA with pc := 0x1000 } }
     rwpVBad ⟨0, 0, 2, 2, 2⟩ s.w.allot = false ∧ s.w.recipe = true ∧ s.w.point.map (·.pc) = some s.path.pc) ∧
    (let s := withW fun w => { w with recipe := true, point := some ⟨0x2000, 0, BitVec.ofNat 32 (2 + 2 * 2 ^ 16), 0xF, [], Sig.zero, Sig.zero, 0, 0, 0, 0⟩, pathA := { w.pathA with pc := 0x1000 } }
     rwpVBad ⟨0, 0, 2, 2, 2⟩ s.w.allot = false ∧ s.w.recipe = true ∧ ∀ p, p ∈ s.w.point.toList → p.pc ≠ s.path.pc) := by decide +kernel

theorem witness_HelperSignatureAndRecordWrites : base.w.recipe = false ∧ (mortise0.folds = true ∧ mortise0.path.folds = []) ∧ base.folds = false ∧ base.recipeBlocks [.b 2] = false ∧
    (recorded.recipeBlocks [.b 2] = false ∧ (narrow (recorded.rB 1) ((recorded.rS 3).toNat % 2 ^ 32) ((recorded.rS 3).toNat / 2 ^ 32)).isSome = true) ∧
    (inRecipe.w.recipe = true ∧ (withW fun w => { w with recipe := true, point := some ⟨0x1000, rwpWord ⟨0, 15, 2, 2, 2⟩, rwpLit ⟨0, 15, 2, 2, 2⟩, 0xF, [], Sig.zero, Sig.zero, 0, 0, 0, 0⟩ }).recipeBlocks [.b 1] = true) := by decide +kernel

theorem witness_ModeWritesOneField : (base.w.recipe || 9 ≤ 0 || 2 ^ modeWidth 0 ≤ 9 || (0 != 8 && !modeLegal (modeNew base.path.mode.toNat 0 9))) = false ∧
    (base.w.recipe || 9 ≤ 8 || 2 ^ modeWidth 8 ≤ 63 || (8 != 8 && !modeLegal (modeNew base.path.mode.toNat 8 63))) = false ∧
    (base.w.recipe || 9 ≤ 9 || 2 ^ modeWidth 9 ≤ 0 || (9 != 8 && !modeLegal (modeNew base.path.mode.toNat 9 0))) = true ∧
    (base.w.recipe || 9 ≤ 0 || 2 ^ modeWidth 0 ≤ (base.rS 1).toNat || (0 != 8 && !modeLegal (modeNew base.path.mode.toNat 0 (base.rS 1).toNat))) = false ∧
    (base.w.recipe || 9 ≤ 8 || 2 ^ modeWidth 8 ≤ (base.rS 2).toNat || (8 != 8 && !modeLegal (modeNew base.path.mode.toNat 8 (base.rS 2).toNat))) = true := by decide +kernel

theorem witness_FmtWrite : base.w.recipe = false ∧ fmtLegal (base.rS 0).toNat = true ∧ fmtLegal (base.rS 2).toNat = false ∧ inRecipe.w.recipe = true := by decide +kernel

theorem witness_RoleIsGranted : (base.w.recipe = false ∧ base.blk.kind = .plain ∧ roleCount base.task.record ≤ 0) ∧ splitW.w.split = true ∧ roleCount roled.task.record = 1 ∧ roled.w.split = false ∧ roled.w.pend = [] ∧ roled.curB = false ∧
    roled.task.roleV 0 ≤ roled.w.allot ∧ (let s := { roled with warps := [(32, { warp0 with allot := 8 })], blocks := [(1, { block0 with val := 16 })] }
     roled.task.roleV 0 = 16 ∧ s.oldestRole s.bid (quarterOf s.cur) = none ∧ s.roleFits s.cur 0 = true) := by decide +kernel

theorem witness_RoleWaits :
    (let s := { roled with warps := [(32, { warp0 with allot := 8 }), (36, { warp0 with idx := 4 })], blocks := [(1, { block0 with val := 8 })] }
     s.w.split = false ∧ roleCount s.task.record = 1 ∧ s.w.pend = [] ∧ s.curB = false ∧ s.w.allot < s.task.roleV 0 ∧ s.roleFits s.cur 0 = false ∧
       36 ∈ s.liveWarps s.bid ∧ quarterOf 36 = quarterOf s.cur ∧ (s.warpOf 36).roleWaits = none) ∧
    (let s := { roled with warps := [(32, { warp0 with allot := 8 })], blocks := [(1, { block0 with val := 8 })] }
     s.w.allot < s.task.roleV 0 ∧ (s.liveWarps s.bid).filter (fun k => quarterOf k == quarterOf s.cur) = [s.cur] ∧ s.roleFits s.cur 0 = false ∧ s.task.te = true ∧ s.w.inHandler = false) := by decide +kernel

/-! Witnesses: memory accesses -/

/-- Records of the warp: b1 64 words at 0x4000, b2 the same and read-only, b3 from a misaligned base, b4 malformed, b5 three words, b7 a word in each page. -/
def records : Tbl 128 :=
  [(1, BitVec.ofNat 128 (0x4000 + 4 * 2 ^ 64 + 64 * 2 ^ 96)), (2, BitVec.ofNat 128 (0x4000 + 2 ^ 59 + 4 * 2 ^ 64 + 64 * 2 ^ 96)),
   (3, BitVec.ofNat 128 (0x4002 + 4 * 2 ^ 64 + 64 * 2 ^ 96)), (4, BitVec.ofNat 128 (3 * 2 ^ 57 + 4 * 2 ^ 64 + 64 * 2 ^ 96)),
   (5, BitVec.ofNat 128 (0x4000 + 4 * 2 ^ 64 + 3 * 2 ^ 96)), (7, BitVec.ofNat 128 (0x4000 + 0x1000 * 2 ^ 64 + 64 * 2 ^ 96))]

/-- A page of data at 0x4000 that the core's first-level TLB holds. -/
def dataPage : TlbEntry := ⟨0, 0, 0, 0x4000, 0x1000, 0x3000, true, false, false⟩

/-- A warp with those records, in a package whose TLB holds the page. -/
def accessing : State := { withW (fun w => { w with b := records, s := (8, 2) :: w.s }) with mm := { base.mm with tlb1 := [dataPage] } }

/-- The same with a copy of the line in the core's L1. -/
def caching : State := { accessing with mm := { accessing.mm with l1 := [(l1Key 0 0x30, ⟨0, 0xF, BitVec.ofNat 2048 0x0706050403020100, 5, 9, 0⟩)] } }

/-- The access that an instruction asks for. -/
def asked (s : State) (i : Instr) : MemIns := ((memForm s i).getD (s.uniIns 0 0 0 0, false, [])).1

/-- A property of an option's value. -/
def holdsSome {α : Type} (x : Option α) (p : α → Bool) : Bool :=
  match x with
  | some y => p y
  | none => false

/-- A load finds no copy of its line of another domain's, and none with an error. -/
def copyOk (s : State) (m : MemIns) (a : Nat) : Bool :=
  match AL.get? s.mm.l1 (l1Key s.blk.core ((walkAt (pageWalks s m) a).spa a / 256)) with
  | some c => c.dom == (walkAt (pageWalks s m) a).dom && !s.mm.l1Bad.contains (l1Key s.blk.core ((walkAt (pageWalks s m) a).spa a / 256))
  | none => true

/-- A lane's page is held with the rights its access needs. -/
def pageOk (s : State) (m : MemIns) (a : Nat) : Bool :=
  holdsSome (tlbFind s.mm.tlb1 s.blk.core s.blk.vf (a / 4096 * 4096)) fun t => (m.kind == 0 || t.w) && (!m.noWindow || !t.win)

/-- The tags of a lane's sector are as its record gives them, and none is on its way. -/
def tagOk (s : State) (m : MemIns) (a : Nat) : Bool :=
  let spa := (walkAt (pageWalks s m) a).spa a
  s.tagSeen [] spa == recTag (s.rB m.bk) && s.tagSeen [spa / 256] spa == recTag (s.rB m.bk) && (s.tagHeld s.bid [spa / 256]).isEmpty && (s.tagPending [spa / 256]).isEmpty && (s.tagMats [spa / 256]).isEmpty

theorem laneClear_of {s : State} {m : MemIns} {e : Nat × Nat} (h1 : pageOk s m e.2 = true) (h2 : tagOk s m e.2 = true) (h3 : copyOk s m e.2 = true) : LaneClear s m e := by
  refine ⟨?_, .inr (.inr ?_), fun _ _ c hc => ?_⟩
  · unfold pageOk at h1
    cases ht : tlbFind s.mm.tlb1 s.blk.core s.blk.vf (e.2 / 4096 * 4096) with
    | none => rw [ht] at h1; cases h1
    | some t =>
      rw [ht] at h1
      simp only [holdsSome, Bool.and_eq_true, Bool.or_eq_true, beq_iff_eq, Bool.not_eq_true'] at h1
      exact ⟨t, rfl, fun hk => h1.1.resolve_left hk, fun hn => h1.2.resolve_left fun h0 => by rw [hn] at h0; cases h0⟩
  · simpa [tagOk, and_assoc] using h2
  · unfold copyOk at h3
    rw [hc] at h3
    simpa using h3

/-- The checks of an access pass. -/
def passes (s : State) (m : MemIns) : Bool :=
  decide (accCheck (badRecord m.bk (s.rB m.bk) (s.rB (m.bk + 1))) (recRo (s.rB m.bk)) (m.kind != 0) m.width m.accs m.helpers = none)

theorem unhindered_of {s : State} {m : MemIns} (h : passes s m = true) (h2 : s.w.slow = []) : Unhindered s m := by
  refine ⟨by simpa [passes] using h, fun d => ?_⟩
  unfold State.windowOrders
  rw [h2]; rfl

theorem clear_of {s : State} {m : MemIns} (h : passes s m = true) (h2 : s.w.slow = []) (h3 : ∀ e, e ∈ reach m → (pageOk s m e.2 && tagOk s m e.2 && copyOk s m e.2) = true) : Clear s m :=
  ⟨unhindered_of h h2, fun e he => by
    have := h3 e he
    simp only [Bool.and_eq_true] at this
    exact laneClear_of this.1.1 this.1.2 this.2⟩

theorem witness_AccessChecksTrapInOrder :
    ((memForm accessing (.ld 15 1 40 0)).map (fun x => x.2.1) = some false ∧ accessing.w.recipe = false) ∧
    ((memForm accessing (.ld 5 4 1 0)).map (fun x => x.2.1) = some true ∧ badRecord 4 (accessing.rB 4) (accessing.rB 5) = true) ∧
    ((memForm accessing (.st 5 1 6 0)).map (fun x => x.2.1) = some true ∧ badRecord 5 (accessing.rB 5) (accessing.rB 6) = false ∧ (3, LaneAcc.bounds) ∈ (asked accessing (.st 5 1 6 0)).real) ∧
    ((memForm accessing (.ld 5 3 1 0)).map (fun x => x.2.1) = some true ∧ badRecord 3 (accessing.rB 3) (accessing.rB 4) = false ∧ (∀ e, e ∈ (asked accessing (.ld 5 3 1 0)).real → e.2 ≠ .bounds) ∧
      Accs.addrs (asked accessing (.ld 5 3 1 0)).real = [] ++ (0, 0x4002) :: [(1, 0x4006), (2, 0x400A), (3, 0x400E)] ∧ 0x4002 % (asked accessing (.ld 5 3 1 0)).width ≠ 0) ∧
    ((memForm accessing (.st 2 1 6 0)).map (fun x => x.2.1) = some true ∧ badRecord 2 (accessing.rB 2) (accessing.rB 3) = false ∧ (∀ e, e ∈ (asked accessing (.st 2 1 6 0)).real → e.2 ≠ .bounds) ∧
      Accs.addrs (asked accessing (.st 2 1 6 0)).real = (0, 0x4000) :: [(1, 0x4004), (2, 0x4008), (3, 0x400C)] ∧
      (∀ x, x ∈ [(0, 0x4000), (1, 0x4004), (2, 0x4008), (3, 0x400C)] → x.2 % (asked accessing (.st 2 1 6 0)).width = 0) ∧ recRo (accessing.rB 2) = true) := by decide +kernel

theorem clear_store : Clear accessing (asked accessing (.st 1 1 2 0)) := clear_of (by decide +kernel) (by decide +kernel) (by decide +kernel)
theorem clear_atomic : Clear accessing (asked accessing (.atom .add 5 1 1 6 false 0)) := clear_of (by decide +kernel) (by decide +kernel) (by decide +kernel)
theorem clear_load : Clear accessing (asked accessing (.ld 5 1 1 0)) := clear_of (by decide +kernel) (by decide +kernel) (by decide +kernel)
theorem clear_cached : Clear caching (asked caching (.ldu 5 1 8 0)) := clear_of (by decide +kernel) (by decide +kernel) (by decide +kernel)
theorem clear_cached_lanes : Clear caching (asked caching (.ld 5 1 1 0)) := clear_of (by decide +kernel) (by decide +kernel) (by decide +kernel)

theorem witness_StoresAndAtomicsAreSent :
    ((memForm accessing (.st 1 1 2 0)).map (·.2) = some (true, []) ∧ (asked accessing (.st 1 1 2 0)).kind = 1 ∧ accessing.w.recipe = false ∧ Ordinary accessing ∧ Clear accessing (asked accessing (.st 1 1 2 0))) ∧
    ((memForm accessing (.atom .add 5 1 1 6 false 0)).map (·.2) = some (true, []) ∧ (asked accessing (.atom .add 5 1 1 6 false 0)).kind = 2 ∧ Clear accessing (asked accessing (.atom .add 5 1 1 6 false 0)) ∧
      sentLines accessing (asked accessing (.atom .add 5 1 1 6 false 0)) ≠ []) := by
  refine ⟨⟨by decide +kernel, by decide +kernel, by decide +kernel, ⟨by decide +kernel, by decide +kernel⟩, clear_store⟩, by decide +kernel, by decide +kernel, clear_atomic, by decide +kernel⟩

/-- The copy that serves a group of lines. -/
def hitOf (s : State) (g : LineGroup) : Option L1Line :=
  if g.win || spaRemote g.spa || s.storeAhead s.cur (g.spa / 256) then none else s.l1Hit s.blk.core g.dom (g.spa / 256) (sectorMask g.lanes) (Tbl.get s.w.pts (homeDie g.spa))

theorem witness_LoadsAreSentOrAnsweredFromL1 :
    ((memForm accessing (.ld 5 1 1 0)).map (·.2) = some (true, [.v 5]) ∧ (asked accessing (.ld 5 1 1 0)).kind = 0 ∧ accessing.w.recipe = false ∧ Ordinary accessing ∧ Clear accessing (asked accessing (.ld 5 1 1 0)) ∧
      sendGroups (pageWalks accessing (asked accessing (.ld 5 1 1 0))) (reach (asked accessing (.ld 5 1 1 0))) ≠ [] ∧
      ∀ g, g ∈ sendGroups (pageWalks accessing (asked accessing (.ld 5 1 1 0))) (reach (asked accessing (.ld 5 1 1 0))) → hitOf accessing g = none) ∧
    ((memForm caching (.ldu 5 1 8 0)).map (·.2) = some (true, [.s 5]) ∧ (asked caching (.ldu 5 1 8 0)).kind = 0 ∧ Ordinary caching ∧ Clear caching (asked caching (.ldu 5 1 8 0)) ∧
      (∀ g, g ∈ sendGroups (pageWalks caching (asked caching (.ldu 5 1 8 0))) (reach (asked caching (.ldu 5 1 8 0))) → caching.unacked caching.cur (homeDie g.spa) = [] ∧
        (hitOf caching g).any (fun c => decide (c.wts.toNat ≤ c.rts.toNat)) = true) ∧
      (sendGroups (pageWalks caching (asked caching (.ldu 5 1 8 0))) (reach (asked caching (.ldu 5 1 8 0)))).length = 1 ∧
      bitOf (caching.reg Config.pf blkRas (0x1000 + 8 * caching.blk.core)).toNat 0 = false ∧ (caching.w.pathA.windows ++ caching.w.pathB.windows).any (fun x => x.1 == caching.nextId) = false ∧
      caching.w.pend.any (fun p => p.id == caching.nextId) = false) ∧
    ((memForm caching (.ld 5 1 1 0)).map (·.2) = some (true, [.v 5]) ∧ Clear caching (asked caching (.ld 5 1 1 0)) ∧
      (sendGroups (pageWalks caching (asked caching (.ld 5 1 1 0))) (reach (asked caching (.ld 5 1 1 0)))).all (fun g => (hitOf caching g).any fun c => decide (c.wts.toNat ≤ c.rts.toNat)) = true ∧
      (sendGroups (pageWalks caching (asked caching (.ld 5 1 1 0))) (reach (asked caching (.ld 5 1 1 0)))).length = 1) := by
  refine ⟨⟨by decide +kernel, by decide +kernel, by decide +kernel, ⟨by decide +kernel, by decide +kernel⟩, clear_load, by decide +kernel, by decide +kernel⟩,
    ⟨by decide +kernel, by decide +kernel, ⟨by decide +kernel, by decide +kernel⟩, clear_cached, by decide +kernel, by decide +kernel, by decide +kernel, by decide +kernel, by decide +kernel⟩,
    by decide +kernel, clear_cached_lanes, by decide +kernel, by decide +kernel⟩

/-- A package whose host table of VF 0 has an entry that is valid and not present. -/
def absent : State := { accessing with keys := { accessing.keys with fot := [(0, ⟨Config.pfDomain, true, none⟩)] }, mm := { accessing.mm with tlb1 := [], mem := [(0, 1)] } }

/-- Lane 0's page held by the TLB, and the others' not resident. -/
def halfAbsent : State := { absent with mm := { absent.mm with tlb1 := [dataPage] } }

theorem errorFree_absent : ErrorFree absent ∧ ErrorFree halfAbsent := ⟨⟨rfl, rfl, rfl, rfl, rfl, rfl, fun _ _ h => by cases h⟩, rfl, rfl, rfl, rfl, rfl, rfl, fun _ _ h => by cases h⟩

theorem witness_NonResidentLanesAreFlaggedAndAskedFor :
    ((memForm absent (.ld 5 1 1 0)).map (·.2) = some (true, [.v 5]) ∧ absent.w.recipe = false ∧ Ordinary absent ∧ Unhindered absent (asked absent (.ld 5 1 1 0)) ∧
      (∀ e, e ∈ reach (asked absent (.ld 5 1 1 0)) → (walkAt (pageWalks absent (asked absent (.ld 5 1 1 0))) e.2).isNonres = true) ∧ absentReal absent (asked absent (.ld 5 1 1 0)) ≠ 0 ∧
      sentBut absent (asked absent (.ld 5 1 1 0)) absent.nextId (absentLanes absent (asked absent (.ld 5 1 1 0))) = [] ∧ NotArmed absent ∧ FreshId absent) ∧
    ((memForm halfAbsent (.atom .add 5 7 1 6 false 0)).map (·.2) = some (true, []) ∧ Unhindered halfAbsent (asked halfAbsent (.atom .add 5 7 1 6 false 0)) ∧
      (∀ e, e ∈ reach (asked halfAbsent (.atom .add 5 7 1 6 false 0)) → (walkAt (pageWalks halfAbsent (asked halfAbsent (.atom .add 5 7 1 6 false 0))) e.2).isNonres = true ∨ LaneClear halfAbsent (asked halfAbsent (.atom .add 5 7 1 6 false 0)) e) ∧
      absentReal halfAbsent (asked halfAbsent (.atom .add 5 7 1 6 false 0)) = 0xE ∧
      (sentBut halfAbsent (asked halfAbsent (.atom .add 5 7 1 6 false 0)) halfAbsent.nextId (absentLanes halfAbsent (asked halfAbsent (.atom .add 5 7 1 6 false 0)))).length = 1 ∧
      (nonresPages (pageWalks halfAbsent (asked halfAbsent (.atom .add 5 7 1 6 false 0))) ((Accs.addrs (asked halfAbsent (.atom .add 5 7 1 6 false 0)).real).filter fun e => (0xE#32).getLsbD e.1)) ≠ []) := by
  refine ⟨⟨by decide +kernel, by decide +kernel, ⟨by decide +kernel, by decide +kernel⟩, unhindered_of (by decide +kernel) rfl, by decide +kernel, by decide +kernel, by decide +kernel, by unfold NotArmed; decide +kernel, by unfold FreshId; decide +kernel⟩,
    by decide +kernel, unhindered_of (by decide +kernel) rfl, fun e he => ?_, by decide +kernel, by decide +kernel, by decide +kernel⟩
  by_cases h : e.1 = 0
  · exact .inr (laneClear_of (by revert e; decide +kernel) (by revert e; decide +kernel) (by revert e; decide +kernel))
  · exact .inl (by revert e; decide +kernel)

/-- A logging mortise run's warp with those records. -/
def loggedAccess : State := { accessing with blocks := logged0.blocks }

/-- A check run's warp with those records, whose log holds the entries given. -/
def checkedAccess (k : RunKind) (l : List LogEntry) : State :=
  { accessing with
    cur := 64
    warps := [(64, { warp0 with bid := 2, b := records })]
    blocks := [(1, { block0 with kind := .mortise, origin := 1, st := .held, log := l }), (2, { block0 with kind := k, origin := 1 })] }

/-- The entry of a load of four words, and of an atomic of four. -/
def loadEntry : LogEntry := ⟨leLoad, 0, false, 0xF, 2, 0, leBytes 16 77, true, false, 1, 0⟩
def atomEntry : LogEntry := ⟨leAtom, 0, false, 0xF, 2, 0, leBytes 16 77, true, false, 1, 0⟩

theorem clear_logged (i : Instr) (h : i = .ld 5 1 1 0 ∨ i = .ld 5 2 1 0 ∨ i = .st 1 1 2 0 ∨ i = .atom .add 5 1 1 6 false 0) : Clear loggedAccess (asked loggedAccess i) := by
  rcases h with rfl | rfl | rfl | rfl <;> exact clear_of (by decide +kernel) rfl (by decide +kernel)

theorem clear_checked (k : RunKind) (h : k = .tenon ∨ k = .dowel) (i : Instr) (hi : i = .ld 5 1 1 0 ∨ i = .st 1 1 2 0) : Clear (checkedAccess k [loadEntry]) (asked (checkedAccess k [loadEntry]) i) := by
  rcases h with rfl | rfl <;> rcases hi with rfl | rfl <;> exact clear_of (by decide +kernel) rfl (by decide +kernel)

theorem witness_MemoryUnderChecks :
    (Logs loggedAccess (logBytesOf (asked loggedAccess (.ld 5 1 1 0))) ∧ loggedAccess.task.pureNow = false ∧ (memForm loggedAccess (.ld 5 1 1 0)).map (·.2) = some (true, [.v 5]) ∧ recRo (loggedAccess.rB 1) = false ∧
      recRo (loggedAccess.rB 2) = true ∧ sentLines loggedAccess (asked loggedAccess (.ld 5 1 1 0)) ≠ [] ∧
      (∀ g, g ∈ sendGroups (pageWalks loggedAccess (asked loggedAccess (.ld 5 1 1 0))) (reach (asked loggedAccess (.ld 5 1 1 0))) → loggedAccess.l1Lines (asked loggedAccess (.ld 5 1 1 0)) [g] = []) ∧
      sentLines loggedAccess (asked loggedAccess (.atom .add 5 1 1 6 false 0)) ≠ [] ∧ (asked loggedAccess (.st 1 1 2 0)).kind = 1) ∧
    ((checkedAccess .tenon [loadEntry]).checkRun = true ∧ (checkedAccess .tenon [loadEntry]).nrTaken = none ∧ (checkedAccess .tenon [loadEntry]).logNext = some loadEntry ∧
      loadEntry.is (logTyp (asked (checkedAccess .tenon [loadEntry]) (.ld 5 1 1 0))) (logLanes (asked (checkedAccess .tenon [loadEntry]) (.ld 5 1 1 0))) = true ∧
      atomEntry.is (logTyp (asked (checkedAccess .tenon [loadEntry]) (.ld 5 1 1 0))) (logLanes (asked (checkedAccess .tenon [loadEntry]) (.ld 5 1 1 0))) = false ∧ (checkedAccess .tenon [atomEntry]).logNext = some atomEntry ∧
      NotArmed (checkedAccess .tenon [loadEntry]) ∧ (checkedAccess .dowel [loadEntry]).checkRun = true ∧ AL.has (checkedAccess .tenon []).blocks (checkedAccess .tenon []).bid = true) := by
  unfold Logs Stands NotArmed; decide +kernel

theorem witness_PrefetchAndPageRequests : accessing.idxOk 1 40 = false ∧ (accessing.idxOk 4 1 = true ∧ badRecord 4 (accessing.rB 4) (accessing.rB 5) = true) ∧
    (accessing.idxOk 5 1 = true ∧ badRecord 5 (accessing.rB 5) (accessing.rB 6) = false ∧ (3, LaneAcc.bounds) ∈ accessing.accs 5 1 true accessing.activeGuarded) ∧
    (accessing.idxOk 1 1 = true ∧ accCheck (badRecord 1 (accessing.rB 1) (accessing.rB 2)) false false accessing.path.width (accessing.accs 1 1 true accessing.activeGuarded) 0 = none ∧
      pagesOfAddrs (Accs.addrs (accessing.accs 1 1 true accessing.activeGuarded)) = [4] ∧ (accessing.checkRun = false ∧ accessing.task.pureNow = false) ∧ (tlbFind accessing.mm.tlb1 accessing.blk.core accessing.blk.vf (4 * 4096)).isSome = true ∧
      AL.get? accessing.mm.l1 (l1Key accessing.blk.core 0x30) = none) ∧
    (absent.idxOk 1 1 = true ∧ accCheck (badRecord 1 (absent.rB 1) (absent.rB 2)) false false absent.path.width (absent.accs 1 1 true absent.activeGuarded) 0 = none ∧ absent.checkRun = false ∧
      (∀ e, e ∈ Accs.addrs (absent.accs 1 1 true absent.activeGuarded) → (walkAt (absent.walks absent.blk.core absent.blk.vf [4]).1 e.2).denies false = false) ∧
      nonresPages (absent.walks absent.blk.core absent.blk.vf [4]).1 (Accs.addrs (absent.accs 1 1 true absent.activeGuarded)) = [4] ∧
      ((absent.walks absent.blk.core absent.blk.vf [4]).2.raisePages (absent.walks absent.blk.core absent.blk.vf [4]).1 [4]).1 = some [(0, 0)]) := by decide +kernel

/-- The same with every entry of die 0's merge table in use. -/
def crowded : State := { absent with mm := { absent.mm with merges := (List.range 256).map fun k => (k, ⟨0, false, 0x80000 + k, 1, 4, 0, false, 0, 0, 0, false, 0⟩) } }

theorem witness_PrefetchAndPageRequests_refused : (accessing.walks accessing.blk.core accessing.blk.vf [4]).1.length = 1 ∧
    (let s := { accessing with mm := { accessing.mm with tlb1 := [] } }
     s.idxOk 1 1 = true ∧ accCheck (badRecord 1 (s.rB 1) (s.rB 2)) false false s.path.width (s.accs 1 1 true s.activeGuarded) 0 = none ∧
       (walkAt (s.walks s.blk.core s.blk.vf [4]).1 0x4000).denies false = true) ∧
    (crowded.idxOk 1 1 = true ∧ crowded.checkRun = false ∧ ((crowded.walks crowded.blk.core crowded.blk.vf [4]).2.raisePages (crowded.walks crowded.blk.core crowded.blk.vf [4]).1 [4]).1 = none) := by decide +kernel

/-! Witnesses: home slices -/

/-- A request of the warp for four words at 0x3000 in line 0x30. -/
def request (kind stage : Nat) (pend : Option Nat) : LineReq :=
  ⟨9, 32, false, pend, 0, 0, 0, 0x30, 0x4000, false, kind, .add, 0, 4, 0, false, [(0, 0, 1, 0), (1, 4, 2, 0), (2, 8, 3, 0), (3, 12, 4, 0)], stage, 0, 0, 0, 1, [], [], 0x1000, 0, 9, none, 0, 0, [], none, 9, false, 0⟩

/-- A package with requests on their way. -/
def requested (l : List LineReq) : State := { base with keys := { base.keys with fot := [(3, ⟨0, true, some 0⟩)] }, mm := { base.mm with reqs := l, mem := [(0x3000, 7), (0x3005, 1)] } }

/-- The same in timestamp mode. -/
def timed (l : List LineReq) : State := { requested l with mm := { (requested l).mm with dirMode := [] } }

/-- The same while another block holds the line. -/
def heldLine (l : List LineReq) : State :=
  { requested l with blocks := [(1, block0), (2, { block0 with origin := 2, kind := .mortise, set := ⟨[(0x3002, 5)], [], []⟩ })] }

/-- A warp with a load pending on that request. -/
def loading (p : Pend) (l : List LineReq) : State := { requested l with warps := [(32, { warp0 with pend := [p] })] }

/-- The pending load of v5. -/
def pend5 : Pend := ⟨7, false, [.v 5], 5, 4, 0, 0, 0xF, 0, [], [9], 0, 0, 0, 0⟩

theorem taken_request (kind : Nat) (h : kind = 0 ∨ kind = 1 ∨ kind = 2) : Taken (requested [request kind 0 none]) 9 (request kind 0 none) := by
  rcases h with rfl | rfl | rfl <;> exact ⟨by rfl, by decide +kernel, by decide +kernel, by decide +kernel, by decide +kernel, fits_of (by decide +kernel) (by decide +kernel), by decide +kernel⟩

theorem witness_StoresTakeEffectAtHome :
    (Taken (requested [request 1 0 none]) 9 (request 1 0 none) ∧ (request 1 0 none).kind = 1 ∧ ((requested [request 1 0 none]).blockOf ((request 1 0 none).wid / 32)).holds = false ∧
      writeTime (requested [request 1 0 none]) (request 1 0 none) < Config.rebaseAt ∧ (requested [request 1 0 none]).inDirMode (homeDie ((request 1 0 none).line * 256)) = true) ∧
    ((heldLine [request 1 0 none]).lineReq 9 = some (request 1 0 none) ∧ (heldLine [request 1 0 none]).canServe (request 1 0 none) = true ∧ spaRemote ((request 1 0 none).line * 256) = false ∧
      spaHere ((request 1 0 none).line * 256) = true ∧ (heldLine [request 1 0 none]).reqHeld (request 1 0 none) = true) ∧
    (let r := { request 1 0 none with line := 2 ^ 52 / 256 }
     (requested [r]).lineReq 9 = some r ∧ (requested [r]).canServe r = true ∧ spaRemote (r.line * 256) = false ∧ spaHere (r.line * 256) = false) := by
  refine ⟨⟨taken_request 1 (.inr (.inl rfl)), by decide +kernel, by decide +kernel, by decide +kernel, by decide +kernel⟩, by decide +kernel, by decide +kernel⟩

theorem clean_of {s : State} {r : LineReq} (h : (r.lanes.all fun l => (sectorsOf (r.line * 256 + l.2.1) r.width).all fun sec =>
    (AL.get? s.mm.upsets sec).isNone && !s.mm.poison.contains sec && !s.mm.macBad.contains sec && decide (Tbl.get s.mm.sideTop sec = 0) && !s.mm.treeBad.contains (sec / 64) && (AL.get? s.mm.sealDom sec).isNone) = true) :
    ∀ l, l ∈ r.lanes → CleanRange s (r.line * 256 + l.2.1) r.width := by
  intro l hl sec hs
  have hx := List.all_eq_true.1 (List.all_eq_true.1 h l hl) sec hs
  simp only [Bool.and_eq_true, Bool.not_eq_true', Option.isNone_iff_eq_none, decide_eq_true_eq] at hx
  exact ⟨hx.1.1.1.1.1, hx.1.1.1.1.2, hx.1.1.1.2, hx.1.1.2, hx.1.2, hx.2⟩

theorem witness_AtomicsAndLoadsAtHome :
    (Taken (requested [request 2 0 none]) 9 (request 2 0 none) ∧ ((requested [request 2 0 none]).blockOf 1).set.bytes = [] ∧
      (∀ l, l ∈ (request 2 0 none).lanes → CleanRange (requested [request 2 0 none]) ((request 2 0 none).line * 256 + l.2.1) (request 2 0 none).width) ∧ 2 ≤ (request 2 0 none).kind ∧
      writeTime (requested [request 2 0 none]) (request 2 0 none) < Config.rebaseAt) ∧
    (Taken (requested [request 0 0 none]) 9 (request 0 0 none) ∧ (requested [request 0 0 none]).inDirMode (homeDie ((request 0 0 none).line * 256)) = true) ∧
    (Taken (timed [request 0 0 none]) 9 (request 0 0 none) ∧ (request 0 0 none).win = false ∧ (timed [request 0 0 none]).inDirMode (homeDie ((request 0 0 none).line * 256)) = false ∧
      max (Tbl.get (timed [request 0 0 none]).mm.rts 0x30).toNat (max (((timed [request 0 0 none]).agentPts 32 0).toNat + (timed [request 0 0 none]).lease 0)
        ((Tbl.get (timed [request 0 0 none]).mm.wts 0x30).toNat + (timed [request 0 0 none]).lease 0)) < Config.rebaseAt) := by
  refine ⟨⟨taken_request 2 (.inr (.inr rfl)), by decide +kernel, clean_of (by decide +kernel), by decide +kernel, by decide +kernel⟩,
    ⟨taken_request 0 (.inl rfl), by decide +kernel⟩, ⟨by rfl, by decide +kernel, by decide +kernel, by decide +kernel, by decide +kernel, fits_of (by decide +kernel) (by decide +kernel), by decide +kernel⟩, by decide +kernel, by decide +kernel, by decide +kernel⟩

theorem witness_AnswersComplete :
    ((requested [request 1 2 none]).lineReq 9 = some (request 1 2 none) ∧ spaRemote ((request 1 2 none).line * 256) = false ∧ AL.has (requested [request 1 2 none]).warps (request 1 2 none).wid = true ∧
      (request 1 2 none).kind ≠ 0 ∧ (request 1 2 none).stage = 2 ∧ (request 1 2 none).eng = none) ∧
    ((requested [request 0 2 none]).lineReq 9 = some (request 0 2 none) ∧ (request 0 2 none).kind = 0 ∧ (request 0 2 none).pend = none) ∧
    (let r := { request 0 2 (some 7) with withheld := [8] }
     let l := [{ request 1 0 none with id := 8 }, r]
     (loading pend5 l).lineReq 9 = some r ∧ AL.has (loading pend5 l).warps r.wid = true ∧ r.pend.isSome = true ∧ (loading pend5 l).openBefore r ≠ []) ∧
    (let r := { request 0 3 (some 7) with withheld := [8] }
     (loading pend5 [r]).lineReq 9 = some r ∧ r.stage = 3 ∧ (loading pend5 [r]).openBefore r = [] ∧ (loading pend5 [r]).stale r = true) ∧
    (let r := { request 0 2 (some 7) with got := [(0, 7), (1, 256), (2, 0), (3, 0)] }
     (loading pend5 [r]).lineReq 9 = some r ∧ r.pend = some 7 ∧ (loading pend5 [r]).openBefore r = [] ∧ (loading pend5 [r]).stale r = false ∧
       (((loading pend5 [r]).warpOf r.wid).pend.find? fun q => q.id == 7) = some pend5 ∧ pend5.waiting = [9] ∧ pend5.kind = 0 ∧ pend5.logType = 0 ∧
       bitOf ((loading pend5 [r]).reg Config.pf blkRas (0x1000 + 8 * ((loading pend5 [r]).blockOf ((loading pend5 [r]).warpOf r.wid).bid).core)).toNat 0 = false) := by decide +kernel

/-- A package with a line dirty in its slice, a directory switch in progress, and a translation cached. -/
def homes : State := { accessing with mm := { accessing.mm with dirty := [(0x3001, 9)], switching := [(1, 0)] } }

theorem witness_WriteBackWalksAndDirectory :
    ((∀ k, k < 4 → CleanSector homes (0x30 * 4 + k)) ∧
      (homes.ctrOf (homes.fotOf (0x30 / 16)).owner ((homes.fotOf (0x30 / 16)).cslot.getD 0)).exhausted = false ∧
      (homes.ctrOf (homes.fotOf (0x30 / 16)).owner ((homes.fotOf (0x30 / 16)).cslot.getD 0)).major.toNat + 4 < 2 ^ 64) ∧
    (3 < 4 ∧ 4 ≤ 4 ∧ homes.switchingDie 3 = false) ∧ AL.get? homes.mm.switching 1 = some 0 ∧
    (homes.translate 0 0 (0x4008 % 2 ^ 57)).1 = .ok 0x3008 true false false 0x1000 0 ∧ 0 < 0x1000 := by unfold CleanSector; decide +kernel

/-! Witnesses: fences, barriers and tiles -/

/-- A queued copy of the warp. -/
def copy0 : CopyEntry := ⟨20, 32, false, 0x1000, 0, 0, 0, false, 4, 4, 0, 0, 0, 0, false, [], [], [], [], [], [], [], [], [], false, [], (0, 0), none, (0, 0, none), none, none⟩

/-- The block's first queue holding that copy, and its second one stopped. -/
def queued : State := withB fun b => { b with queues := [(0, ⟨[copy0], none, none, [], [], []⟩), (1, ⟨[], some (0x0C, 0x1000), none, [], [], []⟩)] }

/-- A matrix operation of the warp: its kind and operands. -/
def mat0 (op : Nat) (wa wb wc : DWord) : MatEntry := ⟨30, 1, 32, false, 0x1000, op, wa, wb, wc, 0, 0, 0, false, false, none, [], 0, false, none⟩

/-- The core's matrix queue holding operations. -/
def matting (l : List MatEntry) (s : State) : State := { s with eng := { s.eng with matq := [(0, l)] } }

/-- A queued write-back to memory. -/
def storing : State := matting [mat0 5 0x100 0 0] base

/-- The page at 0x4000 a window of the package. -/
def windowed : State := { accessing with mm := { accessing.mm with tlb1 := [{ dataPage with win := true }] } }

/-- The same with a window load on its way. -/
def windowWait : State := { windowed with mm := { windowed.mm with reqs := [{ request 0 0 (some 7) with win := true }] } }

/-- The same with a copy into the window. -/
def windowCopy : State :=
  { windowed with blocks := [(1, { block0 with queues := [(0, ⟨[{ copy0 with dst := [⟨false, 0, 0x4000⟩] }], none, none, [], [], []⟩)] })] }

/-- Package 5 reached by port 3. -/
def routing5 (s : State) : State := { s with fab := { s.fab with active := [(16 * 2 ^ 16 + 5, BitVec.ofNat 32 (2 ^ 20 + 3 * 2 ^ 16))] } }

/-- Two warps of one block, with the uses of its barriers. -/
def barriers (bars : AL Barrier) : State :=
  { base with warps := [(32, warp0), (33, { warp0 with idx := 1, pathA := { path0 with st := .barrier 2 0 true } })], blocks := [(1, { block0 with nwarps := 2, bars := bars })] }

/-- A gang of the block, with the arrivals counted. -/
def ganged (arrived : List Nat) (expected : Nat) : State :=
  { barriers [] with gangs := [((barriers []).gangKey block0, ⟨[1], arrived, expected, []⟩)] }

/-- An issued tile store that waits. -/
def slowTile : Slow := ⟨99, false, 0x1000, 0, .tile [] [] [], .tst 4 []⟩

/-- A tile of 4 × 4 words, and its descriptor. -/
def desc0 : BitVec 64 := BitVec.ofNat 64 (4 + 4 * 2 ^ 13 + 2 * 2 ^ 26)
def tile0 : Tile := ⟨desc0, false, true, 0, 1, 0, [(4, 0x80)], 0, none, []⟩

/-- A block with that tile as handle 0; s4 is its descriptor and s5 a handle it does not have. -/
def tiled : State := { withW (fun w => { w with s := w.s ++ [(4, desc0), (5, 9)] }) with blocks := [(1, { block0 with banks := 1, tiles := [(0, tile0)] })] }

/-- A queued write-back to memory that stores to line 0x30. -/
def stored0 : MatEntry := { mat0 5 0x100 0 0 with elems := [(0, 0x3000, 4, false)] }

/-- A warp with an issued instruction that waits. -/
def slowed (x : Slow) (s : State) : State := s.modW fun w => { w with slow := [x] }

theorem fence_idle {s : State} (h : s.mm.reqs = []) (h1 : s.queuedMats s.cur s.nextId = []) (h2 : s.eng.tileMsgs = []) (h3 : s.w.slow = []) (scope : Nat) : FenceDone s scope :=
  ⟨by simp [h], by simp [h1], by simp [h2], by simp [h3]⟩

theorem over_idle {s : State} (h : s.mm.reqs = []) (h1 : s.queuedMats s.cur s.nextId = []) (h2 : s.eng.tileMsgs = []) (h3 : s.w.slow = []) (scope : Nat) : FenceOver s scope :=
  .inr ⟨fence_idle h h1 h2 h3 scope, by simp [h2]⟩

theorem not_done : ¬ FenceDone (requested [request 1 0 none]) 0 := fun h => by
  have h1 := h.1 (request 1 0 none) (by decide +kernel) rfl (by decide)
  rw [if_neg (by decide)] at h1
  exact absurd (h1.1 (by decide +kernel)).1 (by decide)

theorem not_done_mat : ¬ FenceDone (matting [stored0] base) 0 := fun h => absurd (h.2.1 stored0 (by decide +kernel)).1 (by decide +kernel)

/-- A tile message of a warp to another holder of its tile. -/
def tileMsg0 (wid : Nat) : TileMsg := ⟨50, wid, 1, 2, 63, 0, [7], 1, 0⟩

/-- A block whose exited warp has a tile store on its way. -/
def lateTile : State :=
  { base with warps := [(32, warp0), (33, { warp0 with idx := 1, exited := true })], blocks := [(1, { block0 with nwarps := 2 })], eng := { base.eng with tileMsgs := [tileMsg0 33] } }

theorem not_over {s : State} {scope : Nat} (h : s.waitDone = false) (h1 : ¬ FenceDone s scope) : ¬ FenceOver s scope := fun h2 =>
  h2.elim (fun h3 => by rw [h] at h3; cases h3) fun h3 => h1 h3.1

theorem not_over_late : ¬ FenceOver lateTile 1 := fun h =>
  h.elim (fun h1 => absurd h1 (by decide +kernel)) fun h1 => absurd (h1.2 rfl (tileMsg0 33) (by decide +kernel) (by decide +kernel)) (by decide +kernel)

/-- An issued fence. -/
def slowFence : Slow := ⟨99, false, 0x1000, 0, .fence [9] [] [], .fence 0 false⟩

theorem witness_FencesWaitForTheirScope : tenon0.checkRun = true ∧ FenceDone base (scopeCode .system) ∧ scopeCode .die ≤ 2 ∧
    ((requested [request 1 0 none]).checkRun = false ∧ ¬ FenceDone (requested [request 1 0 none]) (scopeCode .block)) ∧
    ((matting [stored0] base).checkRun = false ∧ ¬ FenceDone (matting [stored0] base) (scopeCode .block)) ∧
    slowFence.op = .fence (scopeCode .block) false ∧
    (let s := slowed slowFence (requested [request 1 0 none])
     slowFence.wait = .fence (s.fenceNeeds s.cur 0).1 (s.fenceNeeds s.cur 0).2.1 (s.fenceNeeds s.cur 0).2.2) ∧
    (let s := slowed slowFence accessing
     slowFence ∈ s.w.slow ∧ (memForm s (.ld 5 1 6 0)).isSome = true) ∧
    (base.checkRun = false ∧ FenceDone base (scopeCode .package) ∧ AL.has base.warps base.cur = true) ∧
    ((∀ y, y ∈ base.w.slow → y.id ≠ base.nextId) ∧ base.ticketSlow (base.nextId + 1) = none ∧ base.ordpt = base.pkgid) ∧
    (let s := setR [(Config.pf, blkFabric, 8, 5)] base
     s.checkRun = false ∧ FenceDone s (scopeCode .system) ∧ (∀ y, y ∈ s.w.slow → y.id ≠ s.nextId) ∧ s.ticketSlow (s.nextId + 1) = none ∧ s.ordpt ≠ s.pkgid ∧ s.routed 16 s.ordpt = false ∧
       s.blk.kind = .plain ∧ s.taskLive s.blk.vf s.blk.task = true) ∧
    (let s := routing5 (setR [(Config.pf, blkFabric, 8, 5)] base)
     s.checkRun = false ∧ FenceDone s (scopeCode .system) ∧ (∀ y, y ∈ s.w.slow → y.id ≠ s.nextId) ∧ s.ticketSlow (s.nextId + 1) = none ∧ s.ordpt ≠ s.pkgid ∧ s.routed 16 s.ordpt = true) := by
  have h : ∀ n, FenceDone base n := fence_idle (by decide +kernel) (by decide +kernel) (by decide +kernel) (by decide +kernel)
  exact ⟨by decide +kernel, h _, by decide, ⟨by decide +kernel, not_done⟩, ⟨by decide +kernel, not_done_mat⟩, by rfl, by decide +kernel, by decide +kernel, ⟨by decide +kernel, h _, by decide +kernel⟩, by decide +kernel,
    ⟨by decide +kernel, fence_idle (by decide +kernel) (by decide +kernel) (by decide +kernel) (by decide +kernel) _, by decide +kernel⟩,
    ⟨by decide +kernel, fence_idle (by decide +kernel) (by decide +kernel) (by decide +kernel) (by decide +kernel) _, by decide +kernel⟩⟩

theorem witness_QueueAndWindowOrdering : tenon0.checkRun = true ∧ (queued.checkRun = false ∧ AL.has queued.blocks queued.bid = true ∧ 0 ∈ queuesOf 1 ∧ 1 ∉ queuesOf 1) ∧
    ((queuesOf 2).findSome? fun q => (queued.blk.queue q).faulted) = some (0x0C, 0x1000) ∧
    ((∀ q, q ∈ queuesOf 1 → (queued.blk.queue q).faulted = none) ∧ queued.blk.entriesOf (queuesOf 1) ≠ []) ∧
    ((∀ q, q ∈ queuesOf 4 → (queued.blk.queue q).faulted = none) ∧ queued.blk.entriesOf (queuesOf 4) = []) ∧ badRecord 4 (accessing.rB 4) (accessing.rB 5) = true ∧
    (badRecord 1 (accessing.rB 1) (accessing.rB 2) = false ∧ (accessing.translate accessing.blk.core accessing.blk.vf (recBase (accessing.rB 1))).1 = .ok 0x3000 true false false 0x1000 0) ∧
    ((windowed.translate windowed.blk.core windowed.blk.vf (recBase (windowed.rB 1))).1 = .ok 0x3000 true false true 0x1000 0 ∧ windowed.windowReqs 0 true = [] ∧
      windowed.windowReqs 0 false = [] ∧ ∀ c, c ∈ windowed.blk.entriesOf (List.range 8) → c.wid ≠ windowed.cur) ∧
    (windowWait.checkRun = false ∧ windowWait.windowReqs 0 true ≠ [] ∧ windowWait.windowReqs 0 false ≠ []) ∧
    (windowCopy.checkRun = false ∧ windowCopy.windowReqs 0 false = [] ∧ ((windowCopy.blk.entriesOf (List.range 8)).filter fun c => c.wid == windowCopy.cur && windowCopy.copyWrites c 0) ≠ [] ∧
      windowCopy.windowReqs 0 true = []) := by decide +kernel

/-- Page results of the base of record 1. -/
def baseWalk (s : State) : Walk × State := s.translate s.blk.core s.blk.vf (recBase (s.rB 1))

theorem witness_WindowPages : badRecord 1 (absent.rB 1) (absent.rB 2) = false ∧ (baseWalk absent).1.isNonres = true ∧ absent.checkRun = false ∧
    (((baseWalk absent).2.raise (dieOf absent.blk.core) absent.blk.core absent.blk.vf absent.blk.task (recBase (absent.rB 1)) 1 false (baseWalk absent).1).1).isSome = true ∧
    (let s := { absent with keys := accessing.keys }
     badRecord 1 (s.rB 1) (s.rB 2) = false ∧ (baseWalk s).1.denies false = true) := by decide +kernel

theorem may_alone (bars : AL Barrier) (n kk : Nat) : MayArrive (barriers bars) n kk 0 := ⟨by rfl, .inl (by rfl), over_idle (by rfl) (by rfl) (by rfl) (by rfl) _, by rfl, by rw [show (barriers bars).cur = 32 from rfl]; rfl⟩

/-- A split warp whose other path stands at a barrier, its arrival not counted. -/
def splitAt (n kk : Nat) : State :=
  { base with warps := [(32, { warp0 with split := true, pathA := { path0 with mask := 3 }, pathB := { path0 with mask := 12, st := .barrier n kk false } })], blocks := [(1, { block0 with nwarps := 2 })] }

theorem witness_BlockBarriers : (barriers []).blk.nwarps < 3 ∧ inRecipe.w.recipe = true ∧
    (splitW.w.recipe = false ∧ 0 ≤ splitW.blk.nwarps ∧ splitW.w.split = true ∧ (otherPath splitW).st = .ready) ∧
    ((splitAt 3 0).w.recipe = false ∧ (splitAt 3 0).w.split = true ∧ (otherPath (splitAt 3 0)).st = .barrier 3 0 false ∧ ¬ (3 = 2 ∧ 0 = 0)) ∧
    (ArrivesAlone (splitAt 2 0) 2 0 ∧ ArrivesAlone (matting [stored0] base) 2 0 ∧ ¬ FenceOver (matting [stored0] base) 0 ∧ (matting [stored0] base).w.recipe = false) ∧
    (ArrivesAlone (requested [request 1 0 none]) 2 0 ∧ ¬ FenceOver (requested [request 1 0 none]) 0) ∧
    (MayArrive (barriers [(2, ⟨some 2, 2, 0, 0⟩)]) 2 1 0 ∧ 1 ≤ (barriers []).blk.nwarps ∧ (barUse (barriers [(2, ⟨some 2, 2, 0, 0⟩)]) 2 1).count ≠ barForm 1 ∧ (barUse (barriers [(2, ⟨some 2, 2, 0, 0⟩)]) 2 1).arrived.getLsbD (barriers []).w.idx = false) ∧
    (MayArrive (barriers [(2, ⟨some 2, 2, 1, 1⟩)]) 2 2 0 ∧ (barUse (barriers [(2, ⟨some 2, 2, 1, 1⟩)]) 2 2).count = barForm 2 ∧ (barUse (barriers [(2, ⟨some 2, 2, 1, 1⟩)]) 2 2).arrived.getLsbD (barriers []).w.idx = true) ∧
    (MayArrive (barriers []) 2 2 0 ∧ (barUse (barriers []) 2 2).count = barForm 2 ∧ (barUse (barriers []) 2 2).arrived.getLsbD (barriers []).w.idx = false ∧ (barUse (barriers []) 2 2).arrivals + 1 ≠ (barUse (barriers []) 2 2).expected) ∧
    (MayArrive (barriers [(2, ⟨none, 2, 2, 1⟩)]) 2 0 0 ∧ (barUse (barriers [(2, ⟨none, 2, 2, 1⟩)]) 2 0).count = barForm 0 ∧
      (barUse (barriers [(2, ⟨none, 2, 2, 1⟩)]) 2 0).arrived.getLsbD (barriers []).w.idx = false ∧
      (barUse (barriers [(2, ⟨none, 2, 2, 1⟩)]) 2 0).arrivals + 1 = (barUse (barriers [(2, ⟨none, 2, 2, 1⟩)]) 2 0).expected ∧ (barriers [(2, ⟨none, 2, 2, 1⟩)]).blk.kind = .plain ∧
      33 ∈ (barriers [(2, ⟨none, 2, 2, 1⟩)]).warpsOf (barriers [(2, ⟨none, 2, 2, 1⟩)]).bid) := by
  refine ⟨by decide +kernel, by decide +kernel, by decide +kernel, by decide +kernel, ⟨.inr (.inr (by decide +kernel)), .inl (by decide +kernel), not_over (by decide +kernel) not_done_mat, by decide +kernel⟩,
    ⟨.inl (by decide +kernel), not_over (by decide +kernel) not_done⟩, ⟨may_alone _ _ _, by decide +kernel⟩, ⟨may_alone _ _ _, by decide +kernel⟩, ⟨may_alone _ _ _, by decide +kernel⟩, may_alone _ _ _, by decide +kernel⟩

theorem may_gang (arrived : List Nat) (expected : Nat) : MayArrive (ganged arrived expected) 16 0 1 :=
  ⟨by rfl, .inl (by rfl), over_idle (by rfl) (by rfl) (by rfl) (by rfl) _, by rfl, by rw [show (ganged arrived expected).cur = 32 from rfl]; rfl⟩

theorem witness_GangBarrier : (tenon0.w.recipe = false ∧ tenon0.checkRun = true) ∧ inRecipe.w.recipe = true ∧
    (splitW.w.recipe = false ∧ splitW.checkRun = false ∧ splitW.w.split = true ∧ (otherPath splitW).st = .ready) ∧ ((splitAt 2 0).checkRun = false ∧ (otherPath (splitAt 2 0)).st = .barrier 2 0 false) ∧
    (ArrivesAlone lateTile 16 0 ∧ lateTile.checkRun = false ∧ ¬ FenceOver lateTile 1) ∧
    (MayArrive (ganged [] 0) 16 0 1 ∧ (ganged [] 0).checkRun = false ∧ (ganged [] 0).bid ∈ ((ganged [] 0).gangOf (ganged [] 0).bid).bids ∧
      ((ganged [] 0).gangOf (ganged [] 0).bid).arrived.contains (ganged [] 0).cur = false ∧ ((ganged [] 0).gangOf (ganged [] 0).bid).arrived.isEmpty = true ∧
      0 + 1 ≠ (((ganged [] 0).gangOf (ganged [] 0).bid).bids.flatMap (ganged [] 0).liveWarps).length) ∧
    (MayArrive (ganged [32] 2) 16 0 1 ∧ ((ganged [32] 2).gangOf (ganged [32] 2).bid).arrived.contains (ganged [32] 2).cur = true) ∧
    (MayArrive (ganged [33] 2) 16 0 1 ∧ (ganged [33] 2).gangOf (ganged [33] 2).bid = ⟨[1], [33], 2, []⟩ ∧ [33].contains (ganged [33] 2).cur = false ∧ [33].length + 1 = 2) := by
  refine ⟨by decide +kernel, by decide +kernel, by decide +kernel, by decide +kernel, ⟨.inl (by decide +kernel), by decide +kernel, not_over_late⟩, ⟨may_gang _ _, by decide +kernel⟩, ⟨may_gang _ _, by decide +kernel⟩, may_gang _ _, by decide +kernel⟩

/-- The block of a gang of two blocks, with gang-wide allocations made. -/
def gangTiles (allocs : List (BitVec 64 × Nat × Nat × List Nat × List Nat)) (tiles : AL Tile) : State :=
  let b : Block := { block0 with banks := 1, tiles := tiles }
  { withW (fun w => { w with s := w.s ++ [(4, descG), (5, 63)] }) with
    tasks := [(3, { task0 with record := record0 ||| BitVec.ofNat 2048 (2 * 2 ^ (8 * 0x10 + 48)) })]
    blocks := [(1, b), (2, { b with lin := 1 })], gangs := [(base.gangKey block0, ⟨[1, 2], [], 0, allocs⟩)] }
where
  /-- A level-1 tile of the gang. -/
  descG : BitVec 64 := BitVec.ofNat 64 (4 + 4 * 2 ^ 13 + 2 * 2 ^ 26 + 2 ^ 29)

theorem witness_TilesAreAllocatedFreedAndDescribed : Ordinary tiled ∧ Ordinary inRecipe ∧ inRecipe.w.recipe = true ∧ tiled.w.recipe = false ∧ badShape (tiled.rS 0) tiled.task.gang = true ∧
    (badShape (tiled.rS 4) tiled.task.gang = false ∧ tileGang (tiled.rS 4) = false ∧ AL.has tiled.blocks tiled.bid = true ∧ AL.has tiled.blk.tiles 1 = false ∧ (∀ j, j < 1 → AL.has tiled.blk.tiles j = true) ∧
      tileLevel (tiled.rS 4) = 0 ∧ (tiled.fit tiled.bid (tiled.rS 4)).isSome = true) ∧
    (let s := { tiled with blocks := [(1, { block0 with tiles := (List.range 64).map fun h => (h, tile0) })] }
     Ordinary s ∧ badShape (s.rS 4) s.task.gang = false ∧ AL.has s.blocks s.bid = true ∧ ∀ h, h < 64 → AL.has s.blk.tiles h = true) ∧
    (let s := { tiled with blocks := [(1, block0)] }
     AL.has s.blk.tiles 0 = false ∧ s.fit s.bid (s.rS 4) = none) ∧
    64 ≤ (tiled.rS 4).toNat ∧ (tiled.blk.tile? (tiled.rS 0).toNat = some tile0 ∧ tile0.gangwide = false ∧ tiled.copiesNaming tiled.bid (tiled.rS 0).toNat = [] ∧ tiled.matsNaming tiled.bid (tiled.rS 0).toNat = []) ∧
    (let s := { tiled with blocks := [(1, { block0 with tiles := [(0, tile0)], queues := [(0, ⟨[{ copy0 with src := [⟨true, 0, 4⟩] }], none, none, [], [], []⟩)] })] }
     s.blk.tile? (s.rS 0).toNat = some tile0 ∧ s.copiesNaming s.bid (s.rS 0).toNat ≠ []) ∧
    (let s := matting [mat0 5 0 0 0] tiled
     s.blk.tile? (s.rS 0).toNat = some tile0 ∧ s.copiesNaming s.bid (s.rS 0).toNat = [] ∧ s.matsNaming s.bid (s.rS 0).toNat ≠ []) ∧
    (let s := slowed slowTile tiled
     s.blk.tile? (s.rS 0).toNat = some tile0 ∧ s.slowTilesOf s.bid (fun y => y.handle == (s.rS 0).toNat) ≠ []) ∧
    (tiled.slowTilesOf tiled.bid fun y => y.handle == 0) = [] ∧
    ((tiled.rS 5).toNat < 64 ∧ AL.get? tiled.blk.tiles (tiled.rS 5).toNat = none) ∧ tiled.recipeBlocks [.s 6] = false ∧ tiled.blk.tile? (tiled.rS 5).toNat = none := by
  unfold Ordinary; decide +kernel

/-- A warp whose s4 describes a level-2 tile, where every slice has so many ways. -/
def pinning (ways : Nat) : State :=
  { tiled with
    warps := [(32, { warp0 with s := [(4, desc0 ||| BitVec.ofNat 64 (2 ^ 30))] })]
    regs := (List.range 48).map fun k => (regKey Config.pf blkPart (partOff 0 + 0x400 + 2 * k), BitVec.ofNat 64 ways) }

theorem witness_LevelTwoTiles :
    (badShape ((pinning 0).rS 4) (pinning 0).task.gang = false ∧ tileGang ((pinning 0).rS 4) = false ∧ tileLevel ((pinning 0).rS 4) = 2 ∧ (pinning 0).pinFits ((pinning 0).partD (pinning 0).blk.vf) ((pinning 0).tileSliceOf (pinning 0).bid 1) (tileGran ((pinning 0).rS 4)) = false) ∧
    (pinning 0xFF).pinFits ((pinning 0xFF).partD (pinning 0xFF).blk.vf) ((pinning 0xFF).tileSliceOf (pinning 0xFF).bid 1) (tileGran ((pinning 0xFF).rS 4)) = true := by
  have h0 : ∀ k, k < 48 → (pinning 0).pinFits 0 (0 * 48 + k) (tileGran ((pinning 0).rS 4)) = false := by decide +kernel
  have h1 : ∀ k, k < 48 → (pinning 0xFF).pinFits 0 (0 * 48 + k) (tileGran ((pinning 0xFF).rS 4)) = true := by decide +kernel
  exact ⟨⟨by decide +kernel, by decide +kernel, by decide +kernel, h0 _ (Nat.mod_lt _ (by decide))⟩, h1 _ (Nat.mod_lt _ (by decide))⟩

/-- A level-1 tile of the gang, returned to block 1, at handle 63. -/
def tileG : Tile := ⟨gangTiles.descG, true, true, 0, 1, 0, [], 0, none, []⟩

theorem witness_GangTiles_first :
    (badShape ((gangTiles [] []).rS 4) (gangTiles [] []).task.gang = false ∧ tileGang ((gangTiles [] []).rS 4) = true ∧ AL.has (gangTiles [] []).blocks (gangTiles [] []).bid = true ∧ (gangTiles [] []).bid ∈ (gangTiles [] []).gangLive (gangTiles [] []).bid ∧
      ((gangTiles [] []).gangOf (gangTiles [] []).bid).allocs = [] ∧ (gangTiles [] []).blk.gwCount = 0 ∧
      (∀ b, b ∈ (gangTiles [] []).gangLive 1 → AL.has ((gangTiles [] []).blockOf b).tiles 63 = false ∧ AL.has (gangTiles [] []).blocks b = true) ∧ ((gangTiles [] []).fit 1 gangTiles.descG).isSome = true) ∧
    (let s := gangTiles [] ((List.range 64).map fun h => (h, tileG))
     (s.gangOf s.bid).allocs = [] ∧ ∀ h, h < 64 → AL.has (s.blockOf 1).tiles h = true) ∧
    (let s := { gangTiles [] [] with blocks := [(1, block0), (2, block0)] }
     (s.gangOf s.bid).allocs = [] ∧ s.fit 1 gangTiles.descG = none) := by decide +kernel

/-- The next allocation of a gang's block. -/
def nextAlloc (s : State) : Option (BitVec 64 × Nat × Nat × List Nat × List Nat) := (s.gangOf s.bid).allocs[s.blk.gwCount]?

theorem next_alloc {s : State} {d : BitVec 64} {h st : Nat} {ret freed : List Nat}
    (e : (match nextAlloc s with
      | some a => decide (a.1 = d) && decide (a.2.1 = h) && decide (a.2.2.1 = st) && decide (a.2.2.2.1 = ret) && decide (a.2.2.2.2 = freed)
      | none => false) = true) : nextAlloc s = some (d, h, st, ret, freed) := by
  cases hn : nextAlloc s with
  | none => rw [hn] at e; cases e
  | some a => rw [hn] at e; simp only [Bool.and_eq_true, decide_eq_true_eq] at e; obtain ⟨⟨⟨⟨rfl, rfl⟩, rfl⟩, rfl⟩, rfl⟩ := e; rfl

theorem witness_GangTiles_later : nextAlloc (gangTiles [(desc0, 63, 0, [], [])] []) = some (desc0, 63, 0, [], []) ∧ desc0 ≠ (gangTiles [] []).rS 4 ∧
    nextAlloc (gangTiles [(gangTiles.descG, 0, 2, [2], [])] []) = some (gangTiles.descG, 0, 2, [2], []) ∧
    nextAlloc (gangTiles [(gangTiles.descG, 63, 0, [2], [])] [(63, tileG)]) = some (gangTiles.descG, 63, 0, [2], []) ∧
    AL.get? (gangTiles [(gangTiles.descG, 63, 0, [2], [])] [(63, tileG)]).blk.tiles 63 = some tileG :=
  ⟨next_alloc (by decide +kernel), by decide +kernel, next_alloc (by decide +kernel), next_alloc (by decide +kernel), by decide +kernel⟩

/-- The gang's tile that block 2 has freed. -/
def gangFreeing : State := gangTiles [(gangTiles.descG, 63, 0, [1, 2], [2])] [(63, tileG)]

theorem witness_GangTiles_free : gangFreeing.blk.tile? (gangFreeing.rS 5).toNat = some tileG ∧ AL.get? gangFreeing.gangs (gangFreeing.gangKey gangFreeing.blk) = some ⟨[1, 2], [], 0, [(gangTiles.descG, 63, 0, [1, 2], [2])]⟩ ∧
    (⟨[1, 2], [], 0, [(gangTiles.descG, 63, 0, [1, 2], [2])]⟩ : Gang).current 63 = some 0 ∧ gangFreeing.bid ∈ [1, 2] ∧ gangFreeing.copiesNaming gangFreeing.bid 63 = [] ∧
    gangFreeing.matsNaming gangFreeing.bid 63 = [] ∧ ∀ b, b ∈ gangFreeing.gangLive gangFreeing.bid → b = gangFreeing.bid ∨ b ∈ [2] := by decide +kernel

theorem tile_ready : TileReady tiled 0 1 0 tile0 :=
  ⟨by decide +kernel, by decide +kernel, by decide +kernel, by decide +kernel, by decide +kernel, ⟨by decide +kernel, by decide +kernel⟩, by decide +kernel⟩

theorem tile_ready_gang : TileReady (gangTiles [] [(63, tileG)]) 5 1 63 tileG :=
  ⟨by decide +kernel, by decide +kernel, by decide +kernel, by decide +kernel, by decide +kernel, ⟨by decide +kernel, by decide +kernel⟩, by decide +kernel⟩

theorem witness_TileAccesses : (Ordinary (slowed slowTile tiled) ∧ (slowed slowTile tiled).tileWait 1 0 ≠ .tile [] [] []) ∧ (tiled.vOk 3 = true ∧ tiled.vOk 1 = true ∧ tiled.w.recipe = false ∧ tiled.blk.tile? (tiled.rS 5).toNat = none) ∧ TileReady tiled 0 1 0 tile0 ∧
    (tiled.vRegsOk 3 (widthRegs (tileElem tile0.desc)) = true ∧ tileGang tile0.desc = false ∧ AL.has tiled.blocks tiled.bid = true ∧ tiled.eng.tileMsgs = []) ∧
    (atomTypeOk .add (tileEb tile0.desc) tiled.path.modeET = true ∧ tiled.vRegsOk 4 (widthRegs (tileElem tile0.desc)) = true ∧ tiled.atomPlace 1 0 = 1 ∧ AL.get? (tiled.blockOf 1).tiles 0 = some tile0) ∧
    (let s := matting [mat0 5 0 0 0] tiled
     Ordinary s ∧ s.blk.tile? (s.rS 0).toNat = some tile0 ∧ s.tileWait s.bid (s.rS 0).toNat ≠ .tile [] [] [] ∧ ∀ e, e ∈ s.elemIdx 1 s.realLanes → e.2 < tileElems tile0.desc) ∧
    (let s := { tiled with warps := [(32, { warp0 with v := [(33, 99)] })] }
     s.elemIdx 1 s.realLanes = [(0, 0)] ++ (1, 99) :: [(2, 0), (3, 0)] ∧ (∀ x, x ∈ [(0, 0)] → x.2 < tileElems tile0.desc) ∧ tileElems tile0.desc ≤ 99) ∧
    TileReady (gangTiles [] [(63, tileG)]) 5 1 63 tileG ∧ tileGang tileG.desc = true ∧ AL.has (gangTiles [] [(63, tileG)]).blocks (gangTiles [] [(63, tileG)]).bid = true :=
  ⟨by unfold Ordinary; decide +kernel, by decide +kernel, tile_ready, by decide +kernel, by decide +kernel, by unfold Ordinary; decide +kernel, by decide +kernel, tile_ready_gang, by decide +kernel⟩

/-! Witnesses: copies and streams -/

/-- A whole warp with v1 its lane numbers, b1 and b6 records of 64 words at 0x4000 and 0x4800, and a page for them. -/
def whole : State :=
  { withW (fun w => { w with
      live := 0xFFFFFFFF, pathA := { path0 with mask := 0xFFFFFFFF }, v := (List.range 32).map fun l => (32 + l, BitVec.ofNat 32 l)
      b := records ++ [(6, BitVec.ofNat 128 (0x4800 + 4 * 2 ^ 64 + 64 * 2 ^ 96))] }) with mm := { base.mm with tlb1 := [dataPage] } }

/-- A copy of 32 words from a record to another on queue 2. -/
def args0 (src dst : Nat) : CpyArgs := ⟨1, 1, src, dst, 0, 0, 0, false, 2, 0, 0, false, false⟩

/-- The places of 32 words. -/
def places (a : Nat) : List CopyLoc := (List.range 32).map fun i => ⟨false, 0, a + 4 * i⟩

/-- The same with queue 2 in a given state. -/
def wholeQ (q : CopyQueue) : State := { whole with blocks := [(1, { block0 with queues := [(2, q)] })] }

theorem witness_CopiesAreQueued_refused : base.wholeWarp = false ∧ (whole.wholeWarp = true ∧ cpyFieldsOk whole { args0 1 6 with done := 1, scont := 1 } = false) ∧
    (cpyFieldsOk whole (args0 1 6) = true ∧ whole.w.recipe = false ∧ cpyTilesOk whole { args0 1 6 with stile := true } = false) ∧ (cpyTilesOk whole (args0 5 6) = true ∧ none ∈ cpySrc whole (args0 5 6)) ∧
    cpyRecordsOk whole (args0 4 6) = false ∧
    (cpyRecordsOk whole (args0 3 6) = true ∧ cpySrc whole (args0 3 6) = (places 0x4002).map some ∧ cpyDst whole (args0 3 6) = (places 0x4800).map some ∧ cpyAlign (places 0x4002) 4 (places 0x4800) 4 = some 0x4002) ∧
    (cpyRecordsOk whole (args0 1 2) = true ∧ cpyDst whole (args0 1 2) = (places 0x4000).map some ∧ cpyAlign (places 0x4000) 4 (places 0x4000) 4 = none ∧ recRo (whole.rB 2) = true) := by decide +kernel

theorem copy_ready {s : State} (h : decide (s.wholeWarp = true ∧ cpyFieldsOk s (args0 1 6) = true ∧ s.w.recipe = false ∧ cpyTilesOk s (args0 1 6) = true ∧ cpyRecordsOk s (args0 1 6) = true ∧
    cpySrc s (args0 1 6) = (places 0x4000).map some ∧ cpyDst s (args0 1 6) = (places 0x4800).map some ∧ cpyAlign (places 0x4000) 4 (places 0x4800) 4 = none ∧ recRo (s.rB 6) = false) = true) :
    CopyReady s (args0 1 6) (places 0x4000) (places 0x4800) := by
  obtain ⟨h1, h2, h3, h4, h5, h6, h7, h8, h9⟩ := of_decide_eq_true h
  exact ⟨h1, h2, h3, h4, h5, h6, h7, h8, fun _ => h9⟩

theorem witness_CopiesAreQueued : (CopyReady (wholeQ ⟨[], some (0x0C, 0x1000), none, [], [], []⟩) (args0 1 6) (places 0x4000) (places 0x4800) ∧
      ((wholeQ ⟨[], some (0x0C, 0x1000), none, [], [], []⟩).blk.queue (args0 1 6).queue).faulted = some (0x0C, 0x1000)) ∧
    (let s := wholeQ ⟨List.replicate 16 copy0, none, none, [], [], []⟩
     CopyReady s (args0 1 6) (places 0x4000) (places 0x4800) ∧ (s.blk.queue (args0 1 6).queue).faulted = none ∧ Ordinary s ∧ 16 ≤ (s.blk.queue (args0 1 6).queue).entries.length) ∧
    (let s := wholeQ ⟨[copy0], none, none, [], [], []⟩
     CopyReady s (args0 1 6) (places 0x4000) (places 0x4800) ∧ (s.blk.queue (args0 1 6).queue).faulted = none ∧ Ordinary s ∧ (s.blk.queue (args0 1 6).queue).entries.length < 16 ∧ AL.has s.blocks s.bid = true) := by
  refine ⟨⟨copy_ready (by decide +kernel), by decide +kernel⟩, ⟨copy_ready (by decide +kernel), ?_⟩, copy_ready (by decide +kernel), ?_⟩ <;> unfold Ordinary <;> decide +kernel

/-- A package whose frame at 0x3000 is of domain 0. -/
def fitting (s : State) : State := { s with keys := { s.keys with fot := [(3, ⟨0, true, some 0⟩)] } }

/-- A place is reached by what its page, its domain and its line say. -/
def reaches (s : State) (bid addr : Nat) (write : Bool) : Bool :=
  (heldPage s bid addr).isSome && !spaRemote (heldSpa s bid addr) && (!write || (heldPage s bid addr).any (·.2.2)) && heldDom s bid addr == (s.fotOf (heldSpa s bid addr / 256 / 16)).owner &&
  (AL.get? s.mm.l2dom (heldSpa s bid addr / 256)).isNone

theorem reached_of {s : State} {bid addr : Nat} {write : Bool} (h : reaches s bid addr write = true) : Reached s bid addr write := by
  simp only [reaches, Bool.and_eq_true, Bool.not_eq_true', Bool.or_eq_true, beq_iff_eq, Option.isNone_iff_eq_none] at h
  exact ⟨h.1.1.1.1, h.1.1.1.2, fun hw => h.1.1.2.resolve_left (by simp [hw]), fits_of h.1.2 h.2⟩

/-- A block whose queue 0 holds a copy, with a tile and a page. -/
def copying (e : CopyEntry) : State := { fitting accessing with blocks := [(1, { block0 with tiles := [(0, tile0)], queues := [(0, ⟨[e], none, none, [], [], []⟩)] })] }

/-- A copy with one lane left to read, one with every lane left to write, one that is performed and one that found a stop at its third lane. -/
def reading (l : CopyLoc) : CopyEntry := { copy0 with src := List.replicate 32 l, dst := places 0x4000, readLanes := List.range' 1 31 }
def writing0 (dst : List CopyLoc) : CopyEntry := { copy0 with src := places 0x4000, dst := dst, readLanes := List.range 32, checked := true }
def performed (done scont : Nat) : CopyEntry := { writing0 (places 0x4000) with wroteLanes := List.range 32, done := done, scont := scont }
def stopped0 (wrote : List Nat) : CopyEntry := { copy0 with src := places 0x4000, dst := places 0x4000, wroteLanes := wrote, stop := some (2, tcAccess, 1, 0x4000) }

theorem lanes_readable (i : Nat) (hi : i < 32) : Readable (copying (reading ⟨false, 0, 0x4000⟩)) 1 (0x4000 + 4 * i) 4 0 := by
  have h : ∀ i, i < 32 → reaches (copying (reading ⟨false, 0, 0x4000⟩)) 1 (0x4000 + 4 * i) false = true := by decide +kernel
  have h1 : ∀ i, i < 32 → heldSpa (copying (reading ⟨false, 0, 0x4000⟩)) 1 (0x4000 + 4 * i) % 256 + 4 ≤ 256 ∧ (copying (reading ⟨false, 0, 0x4000⟩)).ownTag 1 (heldSpa (copying (reading ⟨false, 0, 0x4000⟩)) 1 (0x4000 + 4 * i)) = 0 ∧
      CleanRange (copying (reading ⟨false, 0, 0x4000⟩)) (heldSpa (copying (reading ⟨false, 0, 0x4000⟩)) 1 (0x4000 + 4 * i)) 4 := by unfold CleanRange CleanSector; decide +kernel
  exact ⟨reached_of (h i hi), h1 i hi⟩

theorem lanes_writable (j : Nat) (hj : j < 32) : (laneLoc (places 0x4000) j).tile = true ∨ Writable (copying (writing0 (places 0x4000))) 1 (writing0 (places 0x4000)) (laneLoc (places 0x4000) j).addr := by
  have h : ∀ j, j < 32 → reaches (copying (writing0 (places 0x4000))) 1 (laneLoc (places 0x4000) j).addr true = true := by decide +kernel
  have h1 : ∀ j, j < 32 → ((writing0 (places 0x4000)).tagset = true ∨ (copying (writing0 (places 0x4000))).ownTag 1 (heldSpa (copying (writing0 (places 0x4000))) 1 (laneLoc (places 0x4000) j).addr) = (writing0 (places 0x4000)).dstTag) ∧
      (copying (writing0 (places 0x4000))).pageExhausted (heldSpa (copying (writing0 (places 0x4000))) 1 (laneLoc (places 0x4000) j).addr / 4096) = false := by decide +kernel
  exact .inr ⟨reached_of (h j hj), h1 j hj⟩

theorem witness_CopyEngine_reads : base.copyNext 0 = none ∧
    (NextTransfer (copying (reading ⟨true, 0, 4⟩)) 0 0 1 (reading ⟨true, 0, 4⟩) [] false [0] ∧ laneLoc (reading ⟨true, 0, 4⟩).src 0 = ⟨true, 0, 4⟩ ∧ (copying (reading ⟨true, 0, 4⟩)).eng.tileMsgs = []) ∧
    NextTransfer (copying (reading ⟨false, 0, 0x4000⟩)) 0 0 1 (reading ⟨false, 0, 0x4000⟩) [] false [0] ∧ laneLoc (reading ⟨false, 0, 0x4000⟩).src 0 = ⟨false, 0, 0x4000⟩ ∧
    OneDomain (copying (reading ⟨false, 0, 0x4000⟩)) 1 [0x4000] ∧ (copying (reading ⟨false, 0, 0x4000⟩)).inDirMode (homeDie 0x3000) = true := by
  unfold NextTransfer HeadIs OneDomain; decide +kernel

theorem witness_CopyEngine_writes :
    (NextTransfer (copying (writing0 (places 0x4000))) 0 0 1 (writing0 (places 0x4000)) [] true (List.range 32) ∧ ((copying (writing0 (places 0x4000))).blockOf 1).holds = false ∧
      max (Tbl.get (writing0 (places 0x4000)).pts (homeDie 0x3000)).toNat ((Tbl.get (copying (writing0 (places 0x4000))).mm.rts (0x3000 / 256)).toNat + 1) < Config.rebaseAt) ∧
    (let e := writing0 (List.replicate 32 ⟨true, 0, 8⟩)
     NextTransfer (copying e) 0 0 1 e [] true (List.range 32) ∧ e.checked = true ∧ (∀ j, j < 32 → (laneLoc e.dst j).tile = true ∧ (laneLoc e.dst j).handle = 0) ∧
       AL.get? ((copying e).blockOf 1).tiles 0 = some tile0 ∧ tileGang tile0.desc = false) := by
  unfold NextTransfer HeadIs; decide +kernel

/-- The same with the path asleep on the entry. -/
def asleepOn (e : CopyEntry) : State := { copying e with warps := [(32, { warp0 with pathA := { path0 with st := .sleepCopy e.id e.scont } })] }

theorem witness_CopyEngine_ends : (HeadIs (copying (performed 0 0)) 1 0 (performed 0 0) [] ∧ (copying (performed 0 0)).copyDone 1 0 = true) ∧
    (HeadIs (asleepOn (performed 1 0x40)) 1 0 (performed 1 0x40) [] ∧ (asleepOn (performed 1 0x40)).copyDone 1 0 = true ∧ (((asleepOn (performed 1 0x40)).warpOf 32).path false).st = .sleepCopy 20 0x40) ∧
    (HeadIs (copying (performed 2 3)) 1 0 (performed 2 3) [] ∧ (copying (performed 2 3)).copyDone 1 0 = true) ∧
    (HeadIs (copying (stopped0 [0])) 1 0 (stopped0 [0]) [] ∧ (stopped0 [0]).wroteLanes.length < 2) ∧
    (HeadIs (copying (stopped0 [0, 1])) 1 0 (stopped0 [0, 1]) [] ∧ 2 ≤ (stopped0 [0, 1]).wroteLanes.length ∧ (((copying (stopped0 [0, 1])).warpOf 32).path false).st ≠ .sleepCopy 20 0) ∧
    HeadIs (asleepOn (stopped0 [0, 1])) 1 0 (stopped0 [0, 1]) [] ∧ (((asleepOn (stopped0 [0, 1])).warpOf 32).path false).st = .sleepCopy 20 0 := by
  unfold HeadIs; decide +kernel

/-- A stream of 64 words at 0x4000, through a writable record. -/
def stream0 : BitVec 512 := BitVec.ofNat 512 (0x4000 + 2 ^ 64 + 256 * 2 ^ 96 + 2 * 2 ^ 160 + 64 * 2 ^ 192 + 4 * 2 ^ 256)

/-- What stopped an element: its page was denied. -/
def failed0 : ElemFail := ⟨3, tcAccess, 0x4000, 1, 2, 0, none⟩

/-- A fetched entry whose lane 1 was on a page that was not resident, and one whose lane 3 failed. -/
def entry0 : StreamEntry := ⟨[(0, 7), (1, 0), (2, 9)], [1], none, none⟩
def entry1 : StreamEntry := { entry0 with fail := some failed0 }
def entry2 : StreamEntry := { entry0 with fail := some { failed0 with gpa := some 0x5000 } }

/-- A block's tile that holds given bytes. -/
def tileOf (l : List Nat) : State := { fitting accessing with blocks := [(1, { block0 with tiles := [(0, { tile0 with bytes := (l.zip (List.range 64)).map fun e => (e.2, BitVec.ofNat 8 e.1) })] })] }

/-- A warp with the record in its tile, and with queues at every stage: 1 finished, 2 empty, 3 with an entry, 4 with one that failed. -/
def streaming : State :=
  { tileOf (leBytes 64 stream0.toNat) with
    warps := [(32, { warp0 with q := [(1, ⟨stream0, 2, [], [], [], none⟩), (2, ⟨stream0, 1, [], [], [], none⟩), (3, ⟨stream0, 0, [entry0], [], [], none⟩), (4, ⟨stream0, 0, [entry1], [], [], none⟩)] })] }

/-- An instruction at the PC that has waited for its tile. -/
def slowLook : Slow := ⟨99, false, 0x1000, 0, .tile [] [] [], .look⟩

theorem witness_Streams_attach : inRecipe.w.recipe = true ∧ streaming.w.recipe = false ∧ ¬ LookedFor streaming ∧ streaming.blk.tile? (streaming.rS 3).toNat = none ∧ (streaming.blk.tile? (streaming.rS 0).toNat).isSome = true ∧
    ((streaming.rS 1).toNat % 64 ≠ 0 ∧ (streaming.rS 0).toNat % 64 = 0 ∧ 64 ≤ tileBytes tile0.desc) ∧
    (let s := matting [mat0 5 0 0 0] streaming
     ¬ LookedFor s ∧ s.tileWait s.bid 0 ≠ .tile [] [] []) ∧
    LookedFor (slowed slowLook (matting [mat0 5 0 0 0] streaming)) ∧
    (streaming.tileWait streaming.bid 0 = .tile [] [] [] ∧ Ordinary streaming ∧ strBad (recordIn (streaming.noPoint.endLook.ownStoresFirst streaming.bid 0) 0 0) = none ∧
      strBad (recordIn ((tileOf (List.replicate 64 255)).noPoint.endLook.ownStoresFirst 1 0) 0 0) = some tcIllop ∧
      4 ≤ ((streaming.noPoint.endLook.ownStoresFirst streaming.bid 0).dropQueue 5).freeBuffers streaming.blk.core ∧ ∀ m, m ∈ streaming.eng.tileMsgs → m.src ≠ streaming.bid) := by
  unfold LookedFor Ordinary; decide +kernel

/-- The core's buffers all bound. -/
def bufferless : State := { streaming with warps := [(32, { warp0 with q := [(3, ⟨stream0, 0, List.replicate 64 entry0, [], [], none⟩)] })] ++ (List.range 24).map fun k => (k + 33, { warp0 with q := (List.range 8).map fun n => (n, ⟨stream0, 0, [], [], [], none⟩) }) }

theorem witness_Streams_buffers : ((bufferless.noPoint.endLook.ownStoresFirst bufferless.bid 0).dropQueue 5).freeBuffers bufferless.blk.core < 4 ∧ bufferless.path.st ≠ .queueWait 5 ∧ strBad (recordIn (bufferless.noPoint.endLook.ownStoresFirst bufferless.bid 0) 0 0) = none := by decide +kernel

theorem witness_Streams_pop : (streaming.vOk 4 = true ∧ streaming.vOk 40 = false ∧ streaming.recipeBlocks [.v 4] = false ∧ AL.get? streaming.w.q 0 = none) ∧ (AL.get? streaming.w.q 1 = some ⟨stream0, 2, [], [], [], none⟩ ∧ strEntries stream0 ≤ 2) ∧
    (AL.get? streaming.w.q 2 = some ⟨stream0, 1, [], [], [], none⟩ ∧ 1 < strEntries stream0) ∧ (AL.get? streaming.w.q 4 = some ⟨stream0, 0, [entry1], [], [], none⟩ ∧ entry1.fail = some failed0 ∧ failed0.gpa = none ∧ streaming.strLogged streaming.cur ⟨stream0, 0, [entry1], [], [], none⟩ = false ∧ entry1.violFirst = none ∧ (∃ x, entry2.fail = some x ∧ x.gpa = some 0x5000)) ∧
    (AL.get? streaming.w.q 3 = some ⟨stream0, 0, [entry0], [], [], none⟩ ∧ 0 < strEntries stream0 ∧ entry0.fail = none ∧ entry0.violFirst = none ∧ streaming.blk.kind = .plain) := by decide +kernel

/-- The stream's warp in a tenon run. -/
def streamingCheck : State := { streaming with blocks := [(1, { streaming.blk with kind := .tenon })] }

theorem witness_Streams_fetch : streaming.canFetch 32 1 = false ∧ (streaming.canFetch 32 2 = true ∧ AL.get? (streaming.warpOf 32).q 2 = some ⟨stream0, 1, [], [], [], none⟩ ∧ (streaming.blockOf (streaming.warpOf 32).bid).isCheck = false) ∧
    OneDomain streaming 1 ((strElems stream0 1).filterMap (strAddr stream0)) ∧
    (streamingCheck.canFetch 32 2 = true ∧ (streamingCheck.blockOf (streamingCheck.warpOf 32).bid).isCheck = true ∧ recRo (strRec stream0) = false ∧ (streamingCheck.warpOf 32).recipe = false) := by
  unfold OneDomain; decide +kernel

theorem witness_Streams_fetch_places (i : Nat) (hi : i ∈ strElems stream0 1) : strPlace stream0 i = .mem (0x4000 + 4 * i) ∧ (0x4000 + 4 * i) % 2 ^ strEw stream0 = 0 ∧
    Readable streaming 1 (0x4000 + 4 * i) (2 ^ strEw stream0) (recTag (strRec stream0)) := by
  have h : ∀ i, i ∈ strElems stream0 1 → strPlace stream0 i = .mem (0x4000 + 4 * i) ∧ (0x4000 + 4 * i) % 2 ^ strEw stream0 = 0 ∧ reaches streaming 1 (0x4000 + 4 * i) false = true ∧
      heldSpa streaming 1 (0x4000 + 4 * i) % 256 + 2 ^ strEw stream0 ≤ 256 ∧ streaming.ownTag 1 (heldSpa streaming 1 (0x4000 + 4 * i)) = recTag (strRec stream0) ∧
      CleanRange streaming (heldSpa streaming 1 (0x4000 + 4 * i)) (2 ^ strEw stream0) := by unfold CleanRange CleanSector; decide +kernel
  exact ⟨(h i hi).1, (h i hi).2.1, reached_of (h i hi).2.2.1, (h i hi).2.2.2⟩

/-- The same where the elements' sectors have another tag. -/
def streamingTagged : State := { streamingCheck with mm := { streamingCheck.mm with tags := [((0x3000 + 4 * 32) / 64, 5)] } }

theorem witness_Streams_fetch_blank : (strPlace stream0 32 = .mem (0x4000 + 4 * 32) ∧ 32 ∈ strElems stream0 1 ∧ streamingTagged.ownTag 1 (heldSpa streamingTagged 1 (0x4000 + 4 * 32)) ≠ recTag (strRec stream0)) ∧
    Reached streamingTagged 1 (0x4000 + 4 * 32) false := ⟨by decide +kernel, reached_of (by decide +kernel)⟩

/-! Witnesses: the matrix unit -/

/-- A tile of the block: rows, columns, element code, accumulator. -/
def mtile (rows cols eb acc : Nat) : Tile := ⟨BitVec.ofNat 64 (rows + cols * 2 ^ 13 + eb * 2 ^ 26 + acc * 2 ^ 31), false, true, 0, 1, 0, [], 0, none, []⟩

/-- The tiles of the block: an operand, an accumulator, a B matrix, a result, a bf16 block, its quantised rows and scales, and a map of groups with nothing in them. -/
def mtiles : AL Tile := [(0, mtile 1 64 0 0), (1, mtile 1 64 2 1), (2, mtile 64 64 0 0), (3, mtile 1 64 2 0), (4, mtile 1 64 1 0), (5, mtile 1 72 0 0), (6, mtile 1 1 2 0), (7, { mtile 1 8 0 0 with bytes := (List.range 8).map fun i => (i, 0) })]

/-- A whole warp of a block with those tiles. Its registers hold the words of an operation (4), of one with a wrong bit (5), of one with a handle that is none (6), of one whose tiles do not fit (7), of a load (8), of write-backs to a tile (10) and to memory (11), of a quantiser (12), and a table (13). -/
def mats : State :=
  { accessing with
    warps := [(32, { warp0 with
      live := 0xFFFFFFFF, pathA := { path0 with mask := 0xFFFFFFFF }, b := records
      s := warp0.s ++ [(4, 0x100), (5, 0x140), (6, 0x900), (7, 0x200), (8, 2), (9, 9), (10, 0x3000001), (11, 0x10101), (12, 0x060504), (13, 7)] })]
    blocks := [(1, { block0 with tiles := mtiles })] }

/-- The same with a core's queue full, and with the core at work. -/
def matsFull : State := matting (List.replicate 4 (mat0 0 0 0 0)) mats
def matsActive : State := { mats with eng := { mats.eng with active := [(0, 0)] } }

theorem matrix_may {s : State} (h : decide (s.wholeWarp = true ∧ s.task.nomatrix = false ∧ s.w.recipe = false ∧ s.blk.kind = .plain ∧ s.task.pureNow = false ∧ s.blk.core < Config.cores ∧
    ∀ q, q ∈ s.eng.matq → ∀ m, m ∈ q.2 → m.id ≠ s.nextId) = true) : MatrixMay s :=
  have ⟨h1, h2, h3, h4, h5, h6, h7⟩ := of_decide_eq_true h
  ⟨h1, h2, h3, ⟨h4, h5⟩, h6, fun q m hq hm => h7 q hq m hm⟩

/-- The checks on an operation's tiles pass, as a computation. -/
def tilesOk (s : State) (op : Nat) (wa map tab : DWord) : Bool :=
  match s.blk.tile? (bits wa.toNat 5 0), s.blk.tile? (bits wa.toNat 13 8) with
  | some a, some c => !(op != 0 && (s.blk.tile? tab.toNat).isNone) &&
    !mmaShapeBad s.path.fmt op a c (bits wa.toNat 5 0) (bits wa.toNat 13 8) tab.toNat (if op = 0 then none else s.blk.tile? tab.toNat) && !s.mmaTablesBad s.bid op s.path.fmt (tileRows a.desc) map.toNat tab.toNat
  | _, _ => false

theorem tiles_ok {s : State} {op : Nat} {wa map tab : DWord} : MmaTiles s op wa map tab ↔ tilesOk s op wa map tab = true := by
  unfold MmaTiles tilesOk
  cases s.blk.tile? (bits wa.toNat 5 0) <;> cases s.blk.tile? (bits wa.toNat 13 8) <;> simp [and_assoc]
  cases s.blk.tile? tab.toNat <;> simp

theorem witness_MatrixWorkIsQueued_operations :
    base.wholeWarp = false ∧ (inRecipe.w.recipe = true ∧ (withW fun w => { w with recipe := true, live := 0xFFFFFFFF, pathA := { path0 with mask := 0xFFFFFFFF } }).wholeWarp = true) ∧
    (MatrixMay mats ∧ ¬ MmaWords mats 0 (mats.rS 5) 0 ∧ MmaWords mats 0 (mats.rS 6) 0 ∧ mats.blk.tile? (bits (mats.rS 6).toNat 13 8) = none) ∧
    (MmaWords mats 0 (mats.rS 7) 0 ∧ (mats.blk.tile? (bits (mats.rS 7).toNat 13 8)).isSome = true ∧ ¬ MmaTiles mats 0 (mats.rS 7) 0 0) ∧
    (MatrixMay matsFull ∧ MmaWords matsFull 0 (matsFull.rS 4) 0 ∧ MmaTiles matsFull 0 (matsFull.rS 4) 0 0 ∧ ¬ HasRoom matsFull (matsFull.entryCores false)) ∧
    (MmaWords mats 0 (mats.rS 4) 0 ∧ MmaTiles mats 0 (mats.rS 4) 0 0 ∧ HasRoom mats (mats.entryCores false) ∧ (mats.entryCores false).filter (fun c => !AL.has mats.eng.active c) = [0]) ∧
    (MmaWords mats 1 (mats.rS 4) 0 ∧ MmaTiles mats 1 (mats.rS 4) 0 (mats.rS 13)) ∧
    (MatrixMay matsActive ∧ MmaTiles matsActive 0 (matsActive.rS 4) 0 0 ∧ (matsActive.entryCores false).filter (fun c => !AL.has matsActive.eng.active c) = []) := by
  simp only [tiles_ok]
  refine ⟨by decide +kernel, by decide +kernel, ⟨matrix_may (by decide +kernel), ?_⟩, ?_, ⟨matrix_may (by decide +kernel), ?_⟩, ?_, ?_, matrix_may (by decide +kernel), by decide +kernel, by decide +kernel⟩ <;>
    simp only [MmaWords, HasRoom] <;> decide +kernel

/-- A load of B fits its tile. -/
def mbldFits (s : State) (a : Nat) : Bool :=
  match s.blk.tile? (bits (s.rS a).toNat 5 0) with
  | some t => tileEb t.desc == (if fmtBf s.path.fmt = 2 then 1 else 0) && bits (s.rS a).toNat 27 16 + kstOf s.path.fmt ≤ tileRows t.desc && bits (s.rS a).toNat 43 32 + 64 ≤ tileCols t.desc
  | none => false

theorem witness_MatrixWorkIsQueued_loads : MatrixMay mats ∧ (onlyBits (mats.rS 5).toNat [(5, 0), (10, 8), (27, 16), (43, 32)] = false ∧ mats.blk.pair = .none) ∧
    (onlyBits (mats.rS 9).toNat [(5, 0), (10, 8), (27, 16), (43, 32)] = true ∧ mats.blk.tile? (bits (mats.rS 9).toNat 5 0) = none) ∧ mbldFits mats 0 = false ∧ mbldFits mats 8 = true ∧
    HasRoom mats [mats.blk.core] ∧ (MatrixMay matsFull ∧ mbldFits matsFull 8 = true ∧ ¬ HasRoom matsFull [matsFull.blk.core]) :=
  ⟨matrix_may (by decide +kernel), by decide +kernel, by decide +kernel, by decide +kernel, by decide +kernel, by unfold HasRoom; decide +kernel, matrix_may (by decide +kernel), by decide +kernel, by unfold HasRoom; decide +kernel⟩

/-- The block's queue behind the other core's share of a paired operation. -/
def behindFollower : State := matting [{ mat0 0 0x100 0 0 with follower := true }] mats

theorem witness_MatrixWorkIsQueued_heldUp : ¬ HeldUp mats (mat0 3 2 0 0) ∧ HeldUp behindFollower (mat0 3 2 0 0) ∧ HeldUp mats { mat0 0 0x100 0 0 with token := some 30 } ∧
    (MatrixMay behindFollower ∧ HasRoom behindFollower [behindFollower.blk.core] ∧ mbldFits behindFollower 8 = true) :=
  ⟨fun h => h.elim (fun h => h rfl) fun ⟨m, h, _⟩ => absurd h (by rw [show mats.matQueue mats.blk.core = [] by decide +kernel]; simp), .inr ⟨_, List.mem_cons_self, rfl⟩, .inl (by decide),
    matrix_may (by decide +kernel), by unfold HasRoom; decide +kernel, by decide +kernel⟩

/-- The places of a write-back to memory. -/
def mwbAddrs (s : State) (a c : Nat) (acc : Tile) : Accs := (List.range (tileElems acc.desc)).map fun k => (k, linearLane (s.rB (bits (s.rS a).toNat 20 16)) (mwbIndex (s.rS c).toNat (tileCols acc.desc) k))

/-- Its check. -/
def mwbCheck (s : State) (a c : Nat) (acc : Tile) : Option (Nat × Nat) :=
  accCheck (recMalformed (s.rB (bits (s.rS a).toNat 20 16))) (recRo (s.rB (bits (s.rS a).toNat 20 16))) true (ofBytes s.path.fmt) (mwbAddrs s a c acc) 0

/-- The same block with no page held, its VF's host table as `absent` has it or empty. -/
def matsAbsent (l : List (Nat × Byte)) : State := { mats with keys := absent.keys, mm := { absent.mm with mem := l } }

theorem witness_MatrixWorkIsQueued_writeBacks : onlyBits (mats.rS 5).toNat [(5, 0), (8, 8), (20, 16), (29, 24)] = false ∧
    (onlyBits (mats.rS 10).toNat [(5, 0), (8, 8), (20, 16), (29, 24)] = true ∧ onlyBits (mats.rS 0).toNat [(6, 0), (14, 8)] = true ∧ onlyBits (mats.rS 0).toNat [(11, 0), (27, 16)] = true ∧
      mats.blk.tile? (bits (mats.rS 9).toNat 5 0) = none ∧ mats.blk.tile? (bits (mats.rS 10).toNat 5 0) = some (mtile 1 64 2 1) ∧ mats.blk.tile? (bits (mats.rS 10).toNat 29 24) = some (mtile 1 64 2 0) ∧
      mwbShapeBad mats.path.fmt (mats.rS 10) (mats.rS 0) (mats.rS 0) (mtile 1 64 2 1) (some (mtile 1 64 2 0)) none none false = false ∧
      mwbShapeBad mats.path.fmt (mats.rS 0) (mats.rS 0) (mats.rS 0) (mtile 1 64 0 0) (some (mtile 1 64 0 0)) none none false = true) ∧
    (bitOf (mats.rS 11).toNat 8 = true ∧ onlyBits (mats.rS 11).toNat [(5, 0), (8, 8), (20, 16), (29, 24)] = true ∧ mats.blk.tile? (bits (mats.rS 11).toNat 5 0) = some (mtile 1 64 2 1) ∧
      mwbShapeBad mats.path.fmt (mats.rS 11) (mats.rS 0) (mats.rS 0) (mtile 1 64 2 1) none none none false = false ∧ mwbCheck mats 11 0 (mtile 1 64 2 1) = none ∧ mwbCheck mats 11 1 (mtile 1 64 2 1) = some (tcBounds, 0)) ∧
    (((matsAbsent [(0, 1)]).noPoint.walks 0 0 [4]).1.all (fun x => x.2.isNonres && !x.2.denies true && !x.2.isWin) = true ∧ ((matsAbsent []).noPoint.walks 0 0 [4]).1.any (fun x => x.2.denies true) = true) := by decide +kernel

theorem witness_MatrixWorkIsQueued_stores : ∀ x, x ∈ Accs.addrs (mwbAddrs mats 11 0 (mtile 1 64 2 1)) → WriteBackMay (mats.noPoint.walks 0 0 [4]).2 (mats.rB 1) (mats.noPoint.walks 0 0 [4]).1 x.2 := by
  unfold WriteBackMay; decide +kernel

theorem witness_MatrixWorkIsQueued_quantiser : (onlyBits (mats.rS 9).toNat [(5, 0), (13, 8), (21, 16)] = true ∧ decide (fmtAf mats.path.fmt ≤ 1) = true ∧ onlyBits (mats.rS 2).toNat [(5, 0), (13, 8), (21, 16)] = false) ∧
    mats.blk.tile? (bits (mats.rS 9).toNat 5 0) = none ∧ (onlyBits (mats.rS 12).toNat [(5, 0), (13, 8), (21, 16)] = true ∧ mats.blk.tile? (bits (mats.rS 12).toNat 5 0) = some (mtile 1 64 1 0) ∧
      mats.blk.tile? (bits (mats.rS 12).toNat 13 8) = some (mtile 1 72 0 0) ∧ mats.blk.tile? (bits (mats.rS 12).toNat 21 16) = some (mtile 1 1 2 0) ∧ mqntShapeBad (mats.rS 12).toNat (mtile 1 64 1 0) (mtile 1 72 0 0) (mtile 1 1 2 0) = false) ∧
    mqntShapeBad (mats.rS 0).toNat (mtile 1 64 0 0) (mtile 1 64 0 0) (mtile 1 64 0 0) = true := by decide +kernel

/-- An entry at the head of core 0's queue, its slot 0 in place 0 of the B stage. -/
def stepping (e : MatEntry) : State := { matting [e] mats with eng := { (matting [e] mats).eng with bphys := [(0, (1, 0))] } }

/-- A write-back to memory of two elements, and a quantiser. -/
def storeEntry : MatEntry := { mat0 5 0x10101 0 0 with elems := [(0x4000, 0x3000, 0, true), (0x4004, 0x3004, 0, true)] }
def quantEntry : MatEntry := { mat0 6 0x060504 0 0 with sc := 9, pend := some 30 }

theorem witness_MatrixQueueSteps : base.matReady 0 = none ∧
    (∀ e, e ∈ [mat0 0 0x100 0 0, mat0 1 0x100 0 7, mat0 3 2 0 0, mat0 5 0x3000001 0 0, storeEntry, quantEntry] → StepReady (stepping e) 0 e) ∧
    (stepping (mat0 1 0x100 0 7)).mmaTablesBad 1 1 0 (tileRows ((stepping (mat0 1 0x100 0 7)).tileStore 1 0).desc) 0xFFFFFFFFFFFFFFFF 7 = false ∧
    (∀ h, h ∈ [1, 3, 5, 6] → ((AL.get? mats.blk.tiles h).any fun t => !tileGang t.desc) = true) ∧ (stepping (mat0 3 2 0 0)).eng.tileMsgs = [] ∧ (mat0 3 2 0 0).pend = none ∧ bitOf storeEntry.wa.toNat 8 = true ∧
    bitOf (mat0 5 0x3000001 0 0).wa.toNat 8 = false := by
  refine ⟨by decide +kernel, ?_, by decide +kernel, by decide +kernel, by decide +kernel, by decide +kernel, by decide +kernel, by decide +kernel⟩
  unfold StepReady; decide +kernel

/-- A dense operation on integers, and a write-back of integers to bytes. -/
def intEntry : MatEntry := { mat0 0 0x100 0 0 with fmt := 91 }
def byteEntry : MatEntry := { mat0 5 1 0 0 with fmt := 64 + 3 * 256 }

theorem witness_MatrixQueueSteps_numbers :
    (StepReady (stepping intEntry) 0 intEntry ∧ intEntry.op = 0 ∧ bits intEntry.wa.toNat 5 0 = 0 ∧ bits intEntry.wa.toNat 13 8 = 1 ∧ AL.get? ((stepping intEntry).blockOf 1).tiles 1 = some (mtile 1 64 2 1) ∧
      tileGang (mtile 1 64 2 1).desc = false ∧ fmtAf intEntry.fmt = 3 ∧ fmtBf intEntry.fmt = 3 ∧ fmtCf intEntry.fmt = 1 ∧ fmtDup intEntry.fmt = false ∧ fmtSpn intEntry.fmt = 0 ∧ fmtPair intEntry.fmt = false ∧
      (stepping intEntry).tileStore 1 0 = mtile 1 64 0 0 ∧ tileEb (mtile 1 64 0 0).desc = 0 ∧ tileCols (mtile 1 64 0 0).desc = 64 ∧ tileEb (mtile 1 64 2 1).desc = 2 ∧ tileCols (mtile 1 64 2 1).desc = 64) ∧
    (StepReady (stepping byteEntry) 0 byteEntry ∧ byteEntry.op = 5 ∧ bitOf byteEntry.wa.toNat 8 = false ∧ bits byteEntry.wa.toNat 29 24 = 0 ∧ AL.get? ((stepping byteEntry).blockOf 1).tiles 0 = some (mtile 1 64 0 0) ∧
      (stepping byteEntry).tileStore 1 1 = mtile 1 64 2 1 ∧ fmtCf byteEntry.fmt = 1 ∧ fmtOf byteEntry.fmt = 3 ∧ byteEntry.wb = 0 ∧ byteEntry.wc = 0 ∧ tileLevel (mtile 1 64 0 0).desc = 0) := by
  unfold StepReady; decide +kernel

/-- A block on an odd core. -/
def oddCore : State := { mats with blocks := [(1, { block0 with core := 1 })] }

/-- A paired block, whose upper slots queued work uses where `q` says so. -/
def pairedB (q : Bool) : State := matting (if q then [mat0 4 2 0 0] else []) { mats with blocks := [(1, { block0 with pair := .paired, bsaved := [1, 9] })] }

theorem witness_PairsAndTokens_pairs : (mats.task.nomatrix = false ∧ mats.w.recipe = false ∧ Ordinary mats ∧ AL.has mats.blocks mats.bid = true ∧ mats.pairTry = true) ∧ (oddCore.pairTry = false ∧ Ordinary oddCore) ∧ inRecipe.w.recipe = true ∧
    (mats.waitDone = false ∧ mats.blk.pair = .none) ∧ ((pairedB false).blk.pair ≠ .none ∧ (pairedB false).pairEntries (pairedB false).bid = [] ∧ AL.has (pairedB false).blocks (pairedB false).bid = true) ∧
    ((pairedB true).blk.pair ≠ .none ∧ (pairedB true).pairEntries (pairedB true).bid ≠ [] ∧ (pairedB true).waitDone = false) := by
  unfold Ordinary; decide +kernel

/-- A token request of the warp for core 0, which an operation waits for. -/
def tokened : State := { matting [{ mat0 0 0x100 0 0 with token := some 40 }] mats with eng := { (matting [{ mat0 0 0x100 0 0 with token := some 40 }] mats).eng with tokens := [⟨40, 0, 0, [0], 32⟩], active := [(0, 0)] } }

theorem witness_PairsAndTokens_tokens : base.tokenNext 0 = none ∧ tokened.tokenNext 0 = some ⟨40, 0, 0, [0], 32⟩ ∧ AL.get? base.eng.active 0 = none ∧ (AL.get? tokened.eng.active 0 = some 0 ∧ tokened.now < 0 + 256) ∧
    (let s := { matsActive with clock := 256 }
     AL.get? s.eng.active 0 = some 0 ∧ 0 + 256 ≤ s.now ∧ s.matQueue 0 = [] ∧ s.eng.tokens = []) := by decide +kernel

/-! Witnesses: tasks -/

/-- A record to post: task 5 at 0x1000, one block of one warp with 8 v registers. -/
def post0 : BitVec 2048 := BitVec.ofNat 2048 (0x1000 + 5 * 2 ^ 64 + (1 + 2 ^ 16 + 2 ^ 32 + 2 ^ 48) * 2 ^ 128 + 2 ^ 192)

/-- Partition 0 in service with cluster 0, VF 0 in it with a quota of 8 tasks, task 5 waiting on a counter of 2, and the record in the block's tile. -/
def scheduling : State :=
  { setR [(Config.pf, blkPart, partOff 0, 1), (Config.pf, blkPart, 0x2000, 0x20), (Config.pf, blkPart, 0x4000, 8)] accessing with
    clustersNow := [(0, 1)]
    tasks := [(3, task0), (5, { task0 with record := post0, st := .waiting, counter := 2, placed := 0 }), (6, { task0 with st := .killed })]
    warps := [(32, { warp0 with s := warp0.s ++ [(4, 6), (5, 0x10000), (6, 8), (7, 7)] })]
    blocks := [(1, { block0 with tiles := [(0, { mtile 1 256 0 0 with bytes := ((leBytes 256 (post0.toNat + 3 * 2 ^ 64)).zip (List.range 256)).map fun e => (e.2, BitVec.ofNat 8 e.1) }), (1, mtile 1 64 0 0)] })] }

theorem stores_sent {s : State} (h : s.mm.reqs = []) (h1 : s.queuedMats s.cur s.nextId = []) (h2 : s.blk.queues = []) (h3 : s.sends = []) : StoresSent s :=
  ⟨by simp [h], h1, by simp [h2], by simp [h3]⟩

/-- A mortise run whose stores are not held. -/
def unlogged0 : State := withB fun b => { b with kind := .mortise, unver := true }

/-- A `tskdec` of the warp on its way, and a store of it. -/
def sending : State := { scheduling with sends := [⟨0, 1, ⟨1, 5, 1, 0, 32, [9], []⟩, some 9⟩] }
def unsent : State := { scheduling with mm := { scheduling.mm with reqs := [request 1 0 none] } }

theorem witness_SchedulerInstructions_counts : inRecipe.w.recipe = true ∧ scheduling.w.recipe = false ∧ Ordinary scheduling ∧ StoresSent scheduling ∧
    (AL.get? scheduling.tasks (taskKey 0 7) = none ∧ (AL.get? scheduling.tasks (taskKey 0 6)).any (fun x => decide (x.st = .killed)) = true ∧ (AL.get? scheduling.tasks (taskKey 0 3)).any (fun x => decide (x.st = .running)) = true) ∧
    ((AL.get? scheduling.tasks (taskKey 0 5)).any (fun x => decide (x.st = .waiting ∧ x.counter = 2 ∧ x.f 0x20 3 3 = 0)) = true ∧ (scheduling.rS 1).toNat = 5 ∧ (scheduling.rS 0).toNat = 0 ∧ (scheduling.rS 5).toNat = 0x10000 ∧ (scheduling.rS 3).toNat = 2) ∧
    (tenon0.task.pureNow = false ∧ tenon0.task.f 0x20 3 3 = 0 ∧ tenon0.blk.kind = .tenon) ∧ (mortise0.blk.holds = true ∧ AL.has mortise0.blocks mortise0.bid = true ∧ (mortise0.rS 1).toNat ≠ 0 ∧ (mortise0.rS 1).toNat < 2 ^ 20) :=
  ⟨by decide +kernel, by decide +kernel, ⟨by decide +kernel, by decide +kernel⟩, stores_sent (by decide +kernel) (by decide +kernel) (by decide +kernel) (by decide +kernel), by decide +kernel, by decide +kernel, by decide +kernel, by decide +kernel⟩

theorem witness_SchedulerInstructions_waits : (¬ StoresSent unsent ∧ Ordinary unsent ∧ unsent.w.recipe = false ∧ (unsent.rS 1).toNat = 5 ∧ unsent.sends = []) ∧ ¬ StoresSent sending ∧
    (mortise0.task.pureNow = false ∧ mortise0.task.f 0x20 3 3 = 0 ∧ (unlogged0.blk.kind = .mortise ∧ unlogged0.blk.holds = false ∧ unlogged0.task.pureNow = false ∧ unlogged0.task.f 0x20 3 3 = 0)) := by
  unfold Ordinary
  exact ⟨⟨fun h => absurd (h.1 (request 1 0 none) (by decide +kernel) rfl) (by decide), by decide +kernel⟩, fun h => absurd (h.2.2.2 _ List.mem_cons_self) (by decide +kernel), by decide +kernel⟩

theorem witness_SchedulerInstructions_posts : scheduling.blk.tile? (scheduling.rS 6).toNat = none ∧ (scheduling.blk.tile? (scheduling.rS 0).toNat).isSome = true ∧ (scheduling.rS 1).toNat % 64 ≠ 0 ∧
    (¬ LookedFor scheduling ∧ (scheduling.rS 0).toNat % 64 = 0 ∧ 256 ≤ tileBytes (mtile 1 256 0 0).desc ∧ scheduling.tileWait scheduling.bid 0 = .tile [] [] [] ∧ ∀ m, m ∈ scheduling.eng.tileMsgs → m.src ≠ scheduling.bid) ∧
    (scheduling.htsValidate 0 (taskIn (scheduling.noPoint.endLook.ownStoresFirst scheduling.bid 0) 0 0) = 0 ∧ recBits (taskIn (scheduling.noPoint.endLook.ownStoresFirst scheduling.bid 0) 0 0) 0x20 3 3 = 0) ∧
    (let s := setR [(Config.pf, blkPart, 0x4000, 0)] scheduling
     s.htsValidate 0 (taskIn (s.noPoint.endLook.ownStoresFirst s.bid 0) 0 0) = 1) ∧
    (let s := matting [mat0 3 0 0 0] scheduling
     ¬ LookedFor s ∧ s.tileWait s.bid 0 ≠ .tile [] [] []) ∧ LookedFor (slowed slowLook scheduling) := by
  unfold LookedFor; decide +kernel

theorem witness_SchedulerInstructions_reads : Ordinary scheduling ∧ scheduling.recipeBlocks [.s 2] = false ∧ scheduling.taskLive scheduling.blk.vf (scheduling.rS 4).toNat = false ∧
    (AL.get? scheduling.tasks (taskKey scheduling.blk.vf (scheduling.rS 1).toNat)).any (fun t => [(TaskState.waiting, 1), (.ready, 2), (.running, 3), (.held, 4)].find? (fun e => decide (e.1 = t.st)) == some (.waiting, 1)) = true := by
  unfold Ordinary; decide +kernel

/-- A VF with a posting window, in partition 0. -/
def posting (l : AL (BitVec 2048)) : State :=
  { active 0 blkPostwin { scheduling with tasks := [] } with posts := l }

theorem witness_PostingWindow : base.blkActive 0 blkPostwin = false ∧ (posting []).blkActive 0 blkPostwin = true ∧ AL.has (posting []).posts 0 = false ∧ AL.has (posting [(0, post0)]).posts 0 = true ∧
    (AL.get? (posting [(0, post0)]).posts 0 = some post0 ∧ (posting [(0, post0)]).htsValidate 0 post0 = 0 ∧ (posting [(0, post0)]).htsValidate 0 0 ≠ 0 ∧ recBits post0 0x20 3 3 = 0) ∧ NoneBlocked (posting [(0, post0)]) := by
  unfold NoneBlocked; decide +kernel

theorem witness_PostingWindow_placeable : ∀ x : Task, x.vf = 0 → x.record = (posting [(0, post0)]).htsRecord 0 post0 → (posting [(0, post0)]).unplaceable x = false := fun x h1 h2 => by
  have h : (posting [(0, post0)]).unplaceable { task0 with record := (posting [(0, post0)]).htsRecord 0 post0 } = false := by decide +kernel
  unfold State.unplaceable Task.gang Task.f State.coreUsable Task.nomatrix Task.f at h ⊢
  rw [h1, h2]; exact h

/-- Task 5 ready to run. -/
def ready0 : Task := { task0 with record := post0, st := .ready, placed := 0 }
def placing : State := { scheduling with tasks := [(5, ready0)] }

/-- A mortise run held for its vote, its tenon run due. -/
def heldRun : State := { placing with clock := 5000, blocks := [(1, { block0 with kind := .mortise, origin := 1, st := .held })], warps := [] }

theorem witness_BlocksArePlaced : (base.partEn 0 = false ∧ NoneBlocked base) ∧ (heldRun.partEn 0 = true ∧ (heldRun.nextCheck 0).isSome = true ∧ NoneBlocked heldRun) ∧
    (let s := { placing with tasks := [] }
     s.partEn 0 = true ∧ s.nextCheck 0 = none ∧ s.ranked 0 = [] ∧ NoneBlocked s) ∧
    (placing.partEn 0 = true ∧ placing.nextCheck 0 = none ∧ placing.ranked 0 = [⟨false, 0, 5, 0, [0]⟩] ∧ AL.get? placing.tasks (taskKey 0 5) = some ready0 ∧ ready0.vf = 0 ∧ ready0.name = 5 ∧ ready0.gang ≤ 1 ∧ NoneBlocked placing) := by
  unfold NoneBlocked; decide +kernel

theorem witness_BlocksArePlaced_core : placing.bestCore ready0 ((placing.partCores 0).filter placing.clusterFree) = some 1 := by decide +kernel

/-- A gang of two blocks, ready to run, that has headed partition 0 since the start. -/
def gangTask : Task := { ready0 with record := BitVec.ofNat 2048 (0x1000 + 5 * 2 ^ 64 + (2 + 2 ^ 16 + 2 ^ 32 + 2 * 2 ^ 48) * 2 ^ 128 + 2 ^ 192) }
def ganging (clock : Nat) : State := { placing with tasks := [(5, gangTask)], placers := [(0, ⟨some (0, 5, 0, 0), none⟩)], clock := clock }

theorem witness_GangsStartAndWait : GangDue { placing with blocks := [(1, { block0 with st := .starting })] } 0 { block0 with st := .starting } ∧ ¬ GangDue placing 0 block0 ∧
    (((ganging 5).placer 0).head = some (0, 5, 0, 0) ∧ (ganging 5).now < 0 + 4096) ∧ (placing.placer 0).head = none ∧ (placing.ranked 0 = [⟨false, 0, 5, 0, [0]⟩] ∧ (placing.placer 0).isHead ⟨false, 0, 5, 0, [0]⟩ = false) ∧
    (AL.get? (ganging 4096).placers 0 = some ⟨some (0, 5, 0, 0), none⟩ ∧ 0 + 4096 ≤ (ganging 4096).now ∧ (ganging 4096).ranked 0 = [⟨false, 0, 5, 0, [0, 1]⟩]) := by
  unfold GangDue; decide +kernel

theorem witness_GangsStartAndWait_window : let s := ganging 4096
    let l := (s.windows 0 (s.taskOf 0 5).gang).filter fun w => w.all fun c => !s.coreFenced c
    l = [] ++ (0 :: [1]) :: l.tail ∧ ∀ w, w ∈ l.tail → (w.filter (s.eligible (s.taskOf 0 5))).length ≤ ([0, 1].filter (s.eligible (s.taskOf 0 5))).length := by decide +kernel

/-- A block with no warp left, of a task with so many blocks, of which so many are retired. -/
def ended0 (f : Block → Block) (nb retired : Nat) : State :=
  { base with warps := [], blocks := [(1, f block0)], tasks := [(3, { task0 with record := BitVec.ofNat 2048 (0x1000 + 3 * 2 ^ 64 + (nb + 2 ^ 16 + 2 ^ 32 + 2 ^ 48) * 2 ^ 128), retired := retired })] }

/-- Its task. -/
def endedTask (nb retired : Nat) : Task := { task0 with record := BitVec.ofNat 2048 (0x1000 + 3 * 2 ^ 64 + (nb + 2 ^ 16 + 2 ^ 32 + 2 ^ 48) * 2 ^ 128), retired := retired }

theorem witness_BlocksAndTasksEnd_blocks : base.blockDone 1 = false ∧ (tenon0.blockOf 1).isCheck = true ∧
    (let s := ended0 (fun b => { b with queues := [(0, ⟨[], some (0x0C, 0x1000), none, [], [], []⟩)] }) 1 0
     s.blockDone 1 = true ∧ (s.blockOf 1).isCheck = false ∧ AL.get? s.tasks (taskKey 0 3) = some (endedTask 1 0) ∧ (∃ q, q ∈ (s.blockOf 1).queues ∧ q.2.faulted.isSome = true) ∧ (endedTask 1 0).st ≠ .killed) ∧
    (let s := ended0 (fun b => { b with kind := .mortise }) 1 0
     s.blockDone 1 = true ∧ (s.blockOf 1).queues = [] ∧ (s.blockOf 1).holds = true ∧ (endedTask 1 0).retired ≠ (endedTask 1 0).nblocks) ∧
    (let s := ended0 id 2 0
     s.blockDone 1 = true ∧ (s.blockOf 1).queues = [] ∧ (s.blockOf 1).holds = false ∧ AL.get? s.tasks (taskKey 0 3) = some (endedTask 2 0) ∧ (endedTask 2 0).retired + 1 ≠ (endedTask 2 0).nblocks) ∧
    (let s := ended0 id 2 1
     s.blockDone 1 = true ∧ AL.get? s.tasks (taskKey 0 3) = some (endedTask 2 1) ∧ (endedTask 2 1).retired + 1 = (endedTask 2 1).nblocks ∧ (endedTask 2 1).f 0x20 3 3 = 0 ∧ ∀ n, n ∈ recSuccs (endedTask 2 1).record → n = 0) := by
  refine ⟨by decide +kernel, by decide +kernel, ⟨by decide +kernel, by decide +kernel, by decide +kernel, ⟨_, List.mem_cons_self, by decide +kernel⟩, by decide +kernel⟩, by decide +kernel, by decide +kernel, by decide +kernel⟩

/-- A jig hit with copies left, whose successor is task 5. -/
def hitTask (l : List JigCopy) : Task := { task0 with st := .ready, hitCopies := some l, record := record0 ||| BitVec.ofNat 2048 (5 * 2 ^ (8 * 0x28)) }
def hits (l : List JigCopy) (clock : Nat) : State := { scheduling with clock := clock, tasks := [(3, hitTask l), (5, { ready0 with st := .waiting, counter := 2 })] }

theorem witness_BlocksAndTasksEnd_hits : (AL.get? (hits [] 5).tasks (taskKey 0 3) = some (hitTask []) ∧ (hits [] 5).now < (hitTask []).readyAt + 640) ∧
    ([⟨0x4000, 0x4400, 64, 0, [], 0, false, none, none⟩] ≠ ([] : List JigCopy)) ∧ ((hitTask []).readyAt + 640 ≤ (hits [] 640).now ∧ (hitTask []).st = .ready) ∧
    (recSuccs (hitTask []).record = [5, 0, 0, 0] ∧ taskKey 0 5 ≠ taskKey 0 3 ∧ (AL.get? (hits [] 640).tasks (taskKey 0 5)).any (fun y => decide (y.st = .waiting ∧ 1 < y.counter)) = true) ∧
    ∀ n, n ∈ recSuccs { task0 with hitCopies := some [] }.record → n = 0 := by decide +kernel

/-! Witnesses: issue -/

/-- Two warps Ready on quarter 0 of core 0, the second of a less urgent class. -/
def issuing2 (k : Quarter) (b : Block) : State := { base with warps := [(32, warp0), (36, { warp0 with idx := 4, prio := 2 })], blocks := [(1, b)], quarters := [(0, k)], clock := 512 }

/-- A quarter in which VF 0 has been Ready for a while, has so much credit, and may be promoted. -/
def quarter0 (promoted : List Nat) : Quarter := ⟨[(0, 3)], [(0, 2)], [(0, 100)], promoted, 0⟩

theorem first_of {s : State} {x : Nat × Bool} {core q : Nat} {p : Nat × Bool → Prop} (h : x ∈ readyPaths s core q) (hp : p x) (hb : ∀ y, y ∈ readyPaths s core q → y ≠ x → s.before x y = true) :
    FirstOf s x (fun y => y ∈ readyPaths s core q ∧ p y) := ⟨⟨h, hp⟩, fun y hy hn => hb y hy.1 hn⟩

theorem witness_IssueSlotsChooseAPath : readyPaths base 0 1 = [] ∧
    (let s := issuing2 (quarter0 []) { block0 with kind := .tenon }
     FirstOf s (32, false) (fun y => y ∈ readyPaths s 0 0 ∧ s.checkPath y = true) ∧ (s.quarterOf' (quarterKey 0 0)).reserved < 16 ∧ NoDebugStop s (32, false)) ∧
    (let s := issuing2 (quarter0 []) block0
     FirstOf s (32, false) (fun y => y ∈ readyPaths s 0 0 ∧ s.vfOfPath y = 0) ∧ NoDebugStop s (32, false) ∧ (∀ y, y ∈ readyPaths s 0 0 → s.checkPath y = false) ∧
       (s.quarterOf' (quarterKey 0 0)).promoted = [] ∧ ∀ y, y ∈ readyPaths s 0 0 → s.vfOfPath y = 0) ∧
    ((issuing2 (quarter0 [0]) block0).quarterOf' (quarterKey 0 0)).promoted = [] ++ 0 :: [] := by
  refine ⟨by decide +kernel, ⟨first_of (by decide +kernel) (by decide +kernel) (by decide +kernel), by decide +kernel, .inr (by decide +kernel)⟩,
    ⟨first_of (by decide +kernel) (by decide +kernel) (by decide +kernel), .inr (by decide +kernel), by decide +kernel⟩, by decide +kernel⟩

/-- A warp in some state of its path. -/
def pathIn (st : PathState) (clock : Nat) : State := { roled with clock := BitVec.ofNat 64 clock, warps := [(32, { warp0 with pathA := { path0 with st := st } })], blocks := [(1, { block0 with val := 32 })] }

theorem witness_PromotionsRoundsAndWakes_slots : AL.get? (base.quarterOf' (quarterKey 0 0)).readySince 0 = none ∧
    (let s := issuing2 (quarter0 []) block0
     AL.get? s.quarters (quarterKey 0 0) = some (quarter0 []) ∧ AL.get? (quarter0 []).readySince 0 = some 100 ∧ s.now < 100 + 4096 ∧ s.now % 256 = 0) ∧
    (let s := { issuing2 (quarter0 []) block0 with clock := 5001 }
     100 + 4096 ≤ s.now ∧ 0 ∉ (quarter0 []).promoted ∧ s.now % 256 ≠ 0) ∧ AL.get? base.quarters (quarterKey 0 0) = none := by decide +kernel

theorem witness_PromotionsRoundsAndWakes_paths : (AL.get? base.warps 32 = some warp0 ∧ base.now < (warp0.path false).since + 1024 ∧ base.issuable (32, true) = false) ∧
    (let s := { base with clock := 1024 }
     s.issuable (32, false) = true ∧ (warp0.path false).since + 1024 ≤ s.now ∧ (warp0.path false).promoted = false) ∧
    (AL.get? (pathIn (.sleepYield 64) 60).warps 32 = some { warp0 with pathA := { path0 with st := .sleepYield 64 } } ∧ (pathIn (.sleepYield 64) 60).now < 64 ∧ 64 ≤ (pathIn (.sleepYield 64) 64).now) := by decide +kernel

theorem witness_PromotionsRoundsAndWakes_roles : (∀ m, warp0.pathA.st ≠ .roleWait m) ∧
    ((pathIn (.roleWait 0) 0).oldestRole 1 (quarterOf 32) = some 32 ∧ AL.get? (pathIn (.roleWait 0) 0).warps 32 = some { warp0 with pathA := { path0 with st := .roleWait 0 } } ∧
      ((pathIn (.roleWait 0) 0).taskOf 0 3).roleV 0 ≤ warp0.allot + (pathIn (.roleWait 0) 0).freeShare 1 (quarterOf 32) ∧ ((pathIn (.roleWait 0) 0).blockOf 1).st = .resident ∧ ((pathIn (.roleWait 0) 0).blockOf 1).kind = .plain) ∧
    (let s := { pathIn (.roleWait 0) 0 with warps := [(32, { warp0 with allot := 8, pathA := { path0 with st := .roleWait 0 } })], blocks := [(1, { block0 with val := 8 })] }
     8 + s.freeShare 1 (quarterOf 32) < (s.taskOf 0 3).roleV 0) := by
  refine ⟨fun m h => (by cases h), by decide +kernel, by decide +kernel⟩

/-! Witnesses: redundant execution -/

/-- A mortise run held for its vote, at a phase, with a version set. -/
def mortise1 (st : BlockState) (phase : Nat) : Block := { block0 with kind := .mortise, origin := 1, st := st, phase := phase, tenonCore := 1, dowelCore := 2, set := ⟨[(0x3000, 5)], [], []⟩, sig := ⟨1, 2, 3, 4⟩ }
def voting (clock : Nat) (l : List (Nat × Block)) (ws : List (Nat × Warp)) : State := { placing with clock := BitVec.ofNat 64 clock, blocks := l, warps := ws, tasks := [(3, { endedTask 2 0 with placed := 2 })] }

/-- A tenon or dowel run of block 1 that has ended with a signature. -/
def ranAs (kind : RunKind) (g : Sig) (diverged unver : Bool) : List (Nat × Block) × List (Nat × Warp) :=
  ([(1, mortise1 (if kind == .tenon then .held else .voting) (if kind == .tenon then 1 else 3)), (2, { block0 with kind := kind, origin := 1, core := if kind == .tenon then 1 else 2, diverged := diverged, unver := unver })],
   [(64, { Warp.idle with bid := 2, exited := true, acc := g })])

theorem witness_CheckRunsStart_starts : (AL.get? (voting 5000 [(1, mortise1 .held 0)] []).blocks 1 = some (mortise1 .held 0) ∧ (voting 5000 [(1, mortise1 .held 0)] []).partOf 0 = some 0 ∧
      1 ≠ (voting 5000 [(1, mortise1 .held 0)] []).nextId ∧ (((voting 5000 [(1, mortise1 .held 0)] []).taskOf 0 3).vf) = 0) ∧
    ((mortise1 .voting 2).st ≠ .held ∧ (voting 4000 [(1, mortise1 .held 0)] []).now < (mortise1 .held 0).checkFrom ∧ (mortise1 .held 0).checkFrom ≤ (voting 5000 [(1, mortise1 .held 0)] []).now ∧ (voting 5000 [] []).partEn 0 = true) ∧
    ((voting 5000 [(1, mortise1 .held 0)] []).coreForCheck 0 1 false []).isSome = true ∧ ((voting 5000 [(1, mortise1 .voting 2)] []).coreForCheck 0 1 true []).isSome = true ∧
    ({ voting 5000 [(1, mortise1 .held 0)] [] with clustersNow := [] }.coreForCheck 0 1 false []) = none := by decide +kernel

/-- A held block that has waited long, beside resident blocks. -/
def crowding (w : Warp) (gang : Bool) : State :=
  { voting 30000 [(1, mortise1 .held 0), (2, { block0 with started := 7 })] [(64, { w with bid := 2 })] with tasks := [(3, if gang then { gangTask with record := gangTask.record - BitVec.ofNat 2048 (2 * 2 ^ 64) } else endedTask 2 0)] }

theorem witness_CheckRunsStart_room : (∀ e, e ∈ base.checkWaiters 0 → base.now < e.2 + 16384) ∧
    ((crowding warp0 false).roomDue 0 = some 1 ∧ (∀ e, e ∈ (crowding warp0 false).residents 0 → AL.get? (crowding warp0 false).blocks e.1 = some e.2 ∧ (crowding warp0 false).allClamped e.1 = false) ∧
      ∃ e, e ∈ (crowding warp0 false).residents 0 ∧ e.2.isCheck = false ∧ ((crowding warp0 false).taskOf e.2.vf e.2.task).gang ≤ 1) ∧
    (let s := crowding { warp0 with pathA := { path0 with st := .clampWait [] [] } } false
     s.roomDue 0 = some 1 ∧ ∃ e, e ∈ s.residents 0 ∧ s.allClamped e.1 = true) ∧
    ((crowding warp0 true).roomDue 0 = some 1 ∧ ∀ e, e ∈ (crowding warp0 true).residents 0 → (crowding warp0 true).allClamped e.1 = false ∧ ¬ (e.2.isCheck = false ∧ ((crowding warp0 true).taskOf e.2.vf e.2.task).gang ≤ 1)) := by
  refine ⟨by decide +kernel, ⟨by decide +kernel, by decide +kernel, (2, { block0 with started := 7 }), by decide +kernel⟩, ⟨by decide +kernel, (2, { block0 with started := 7 }), by decide +kernel⟩, by decide +kernel⟩

/-- A check run's warp that waits for a role. -/
def roleWaiter : Warp := { warp0 with pathA := { path0 with st := .roleWait 0 } }

theorem witness_CheckRunsStart_timeout : (AL.get? base.warps 32 = some warp0 ∧ AL.get? base.blocks warp0.bid = some block0 ∧ block0.isCheck = false) ∧
    (let s := voting (2 ^ 20) [(1, { block0 with kind := .tenon })] [(32, roleWaiter)]
     AL.get? s.warps 32 = some roleWaiter ∧ AL.get? s.blocks roleWaiter.bid = some { block0 with kind := .tenon } ∧ (∃ n, roleWaiter.pathA.st = .roleWait n) ∧ roleWaiter.exited = false ∧ roleWaiter.roleSince + 2 ^ 20 ≤ s.now) := by
  refine ⟨by decide +kernel, by decide +kernel, by decide +kernel, ⟨0, rfl⟩, by decide +kernel, by decide +kernel⟩

theorem vote_ready {s : State} {run m points : Nat} {units : List Nat}
    (h : decide (run ≠ m ∧ (s.blockOf run).origin = m ∧ AL.has s.blocks m = true ∧ AL.get? s.tasks (taskKey (s.blockOf m).vf (s.blockOf m).task) = some { endedTask 2 0 with placed := 2 } ∧
      ∀ u, u ∈ units → (Tbl.get s.chk.demerit u).toNat + points < s.thresh (s.partD (s.blockOf m).vf) ∧ (Tbl.get s.chk.demerit u).toNat + points < 256) = true) :
    VoteReady s run m { endedTask 2 0 with placed := 2 } points units :=
  have ⟨h1, h2, h3, h4, h5⟩ := of_decide_eq_true h
  ⟨h1, h2, h3, h4, by decide, by decide +kernel, h5⟩

/-- The state of such a run, its partition fencing at 64 demerits. -/
def voteOf (kind : RunKind) (g : Sig) (diverged unver : Bool) (t : Option Sig) : State :=
  let r := ranAs kind g diverged unver
  setR [(Config.pf, blkPart, partOff 0 + 0x2000, 64)] (voting 5000 (r.1.map fun e => (e.1, { e.2 with tenonSig := t })) r.2)

theorem plain_set : PlainSet (mortise1 .held 0).set ∧ PlainSet block0.set := by unfold PlainSet; decide +kernel

theorem witness_VotesDecide_tenon :
    (let s := voteOf .tenon ⟨1, 2, 3, 4⟩ false false none
     s.checkEnded 2 .tenon = true ∧ VoteReady s 2 1 { endedTask 2 0 with placed := 2 } 0 [] ∧ (s.blockOf 2).diverged = false ∧ s.blockSig 2 = (s.blockOf 1).sig ∧ PlainSet (s.blockOf 1).set) ∧
    (let s := voteOf .tenon ⟨1, 2, 3, 4⟩ true false none
     s.checkEnded 2 .tenon = true ∧ VoteReady s 2 1 { endedTask 2 0 with placed := 2 } 0 [] ∧ (s.blockOf 2).diverged = true) ∧
    base.checkEnded 1 .tenon = false ∧ base.checkEnded 1 .dowel = false :=
  ⟨⟨by decide +kernel, vote_ready (by decide +kernel), by decide +kernel, by decide +kernel, plain_set.1⟩, ⟨by decide +kernel, vote_ready (by decide +kernel), by decide +kernel⟩, by decide +kernel, by decide +kernel⟩

theorem witness_VotesDecide_dowel :
    (let s := voteOf .dowel ⟨1, 2, 3, 4⟩ false true none
     s.checkEnded 2 .dowel = true ∧ (s.blockOf 2).unver = true ∧ VoteReady s 2 1 { endedTask 2 0 with placed := 2 } 0 []) ∧
    (let s := voteOf .dowel ⟨1, 2, 3, 4⟩ false false none
     (s.blockOf 2).unver = false ∧ sigsAgree (some (s.blockOf 1).sig) (some (s.blockSig 2)) = true ∧ VoteReady s 2 1 { endedTask 2 0 with placed := 2 } 4 [loserUnit (s.blockOf 1).tenonCore (s.blockOf 1).sig (s.blockOf 1).tenonSig] ∧ PlainSet (s.blockOf 1).set) ∧
    (let s := voteOf .dowel ⟨9, 2, 3, 4⟩ false false (some ⟨9, 2, 3, 7⟩)
     sigsAgree (some (s.blockOf 1).sig) (some (s.blockSig 2)) = false ∧ sigsAgree (s.blockOf 1).tenonSig (some (s.blockSig 2)) = true ∧
       VoteReady s 2 1 { endedTask 2 0 with placed := 2 } 4 [loserUnit (s.blockOf 1).core (s.blockSig 2) (some (s.blockOf 1).sig)] ∧ (s.blockOf 1).sig.asig = (s.blockSig 2).asig ∧ PlainSet (s.blockOf 2).set) ∧
    (let s := voteOf .dowel ⟨9, 2, 3, 8⟩ false false (some ⟨9, 2, 3, 7⟩)
     sigsAgree (s.blockOf 1).tenonSig (some (s.blockSig 2)) = true ∧ (s.blockOf 1).sig.asig ≠ (s.blockSig 2).asig) ∧
    (let s := voteOf .dowel ⟨9, 2, 3, 4⟩ false false (some ⟨8, 2, 3, 4⟩)
     sigsAgree (some (s.blockOf 1).sig) (some (s.blockSig 2)) = false ∧ sigsAgree (s.blockOf 1).tenonSig (some (s.blockSig 2)) = false ∧ VoteReady s 2 1 { endedTask 2 0 with placed := 2 } 2 [0, 1, 2] ∧ [0, 1, 2].Nodup) ∧
    (let s := voteOf .dowel ⟨9, 2, 3, 4⟩ true false none
     s.checkEnded 2 .dowel = true ∧ (s.blockOf 2).unver = false ∧ (s.blockOf 2).diverged = true ∧ VoteReady s 2 1 { endedTask 2 0 with placed := 2 } 2 [(s.blockOf 1).core, (s.blockOf 1).tenonCore, (s.blockOf 1).dowelCore]) :=
  ⟨⟨by decide +kernel, by decide +kernel, vote_ready (by decide +kernel)⟩, ⟨by decide +kernel, by decide +kernel, vote_ready (by decide +kernel), plain_set.1⟩,
    ⟨by decide +kernel, by decide +kernel, vote_ready (by decide +kernel), by decide +kernel, plain_set.2⟩, by decide +kernel, ⟨by decide +kernel, by decide +kernel, vote_ready (by decide +kernel), by decide⟩,
    by decide +kernel, by decide +kernel, by decide +kernel, vote_ready (by decide +kernel)⟩

/-- A held block in a partition with an age limit of 65536 clocks. -/
def aging (clock : Nat) : State := setR [(Config.pf, blkPart, partOff 0 + 0x2000, 0x10000)] (voting clock [(1, mortise1 .held 0)] [])

theorem witness_VotesDecide_age : (AL.get? (aging 5).blocks 1 = some (mortise1 .held 0) ∧ AL.get? (aging 5).tasks (taskKey 0 3) = some { endedTask 2 0 with placed := 2 } ∧ ({ endedTask 2 0 with placed := 2 } : Task).retired + 1 ≠ ({ endedTask 2 0 with placed := 2 } : Task).nblocks) ∧
    (aging 5).now < (mortise1 .held 0).heldAt + (aging 5).ageLimit 0 ∧ ((aging 65536).ageLimit 0 ≠ 0 ∧ (mortise1 .held 0).heldAt + (aging 65536).ageLimit 0 ≤ (aging 65536).now ∧ ∀ c, c ∈ (aging 65536).blocks → c.2.isCheck = false) := by decide +kernel

theorem witness_DemeritsFencesAndHealth : ({ base with clock := 7 }.now % 2 ^ 36 ≠ 0 ∧ base.now % 2 ^ 36 = 0 ∧ (AL.keys base.chk.demerit).Nodup) ∧ base.chkcmdOk 0 5 = false ∧
    (let s := setR [(Config.pf, blkPart, partOff 0 + 0x2000, 64)] (active Config.pf blkPart { scheduling with blocks := [], tasks := [] })
     s.chkcmdOk 0 5 = true ∧ 7 < s.thresh 0 ∧ s.thresh 0 ≤ 64 ∧ 5 ∉ s.chk.fenced ∧ s.blocks = [] ∧ NoneBlocked s ∧ ∀ e, e ∈ s.tasks → e.2.pending = false) := by
  unfold NoneBlocked; decide +kernel

/-- A block and a check run on core 5, whose partition fences at 64 demerits. -/
def fencing : State :=
  { setR [(Config.pf, blkPart, partOff 0 + 0x2000, 64)] (active Config.pf blkPart scheduling) with
    blocks := [(1, { block0 with core := 5 }), (2, { block0 with core := 5, kind := .tenon })], warps := [] }

theorem witness_DemeritsFencesAndHealth_fences :
    (fencing.chkcmdOk 0 5 = true ∧ fencing.thresh 0 ≤ 64 ∧ 5 ∉ fencing.chk.fenced ∧ (AL.keys fencing.blocks).Nodup ∧ (∀ e, e ∈ fencing.blocks → e.2.pair ≠ .paired) ∧
      (∀ bid, bid ∈ [1, 2] → (fencing.blockOf bid).onCore = true ∧ (fencing.blockOf bid).core = 5) ∧ (fencing.blockOf 1).isCheck = false ∧ (fencing.blockOf 2).isCheck = true) ∧
    (let s := { base with signals := [1] }
     s.issue = none ∧ s.agenda = [] ∧ s.roleGrants = [] ∧ s.dueOf 1 = [] ∧ s.signals ≠ [] ∧ AL.get? s.blocks 1 = some block0 ∧ block0.st = .resident) := by decide +kernel

/-! Witnesses: pre-emption and debugging -/

/-- The warp's block being saved since clock 0, the warp as given, in a package whose TLB holds every page of the block's context area. -/
def saving (w : Warp) (clock : Nat) : State :=
  { base with
    clock := BitVec.ofNat 64 clock, warps := [(32, w)], blocks := [(1, { block0 with st := .saving, pre := some (0, false) })]
    mm := { base.mm with tlb1 := [⟨0, 0, 0, 0, 0x400000, 0x800000, true, false, false⟩] } }

theorem witness_Preemption_starts : base.blkActive Config.pf blkPart = false ∧ (active Config.pf blkPart base).blkActive Config.pf blkPart = true ∧ (base.blockOf 1).st = .resident ∧ ((saving warp0 5).blockOf 1).st ≠ .resident ∧
    (AL.get? (saving warp0 5).warps 32 = some warp0 ∧ ((saving warp0 5).blockOf 1).pre = some (0, false) ∧ (saving warp0 5).now < 0 + 2048) ∧
    (0 + 2048 ≤ (saving warp0 2048).now ∧ warp0.exited = false ∧ warp0.saved = none ∧ ((saving warp0 2048).blockOf 1).st = .saving ∧ (saving warp0 2048).eng.tokens = []) := by decide +kernel

theorem witness_Preemption_saves : base.canSave 1 = false ∧
    (let s := saving { warp0 with saved := some false } 5
     s.canSave 1 = true ∧ s.eng.bphys = [] ∧ s.eng.tileMsgs = [] ∧ 32 ∈ s.warpsOf 1 ∧ (s.warpOf 32).saved ≠ some true ∧
       ∀ pg, pg ∈ ctxPageList (s.ctxBase (s.blockOf 1)) (saveImage (reduced s 1) 1) → ((tlbFind s.mm.tlb1 0 0 (pg * 4096)).any fun e => e.w) = true) := by decide +kernel

theorem witness_Preemption_faulted :
    let s := { saving { warp0 with saved := some false } 5 with blocks := [(1, { block0 with st := .saving, pre := some (0, false), queues := [(2, ⟨[], some (0x0C, 0x1000), none, [], [], []⟩)] })] }
    s.canSave 1 = true ∧ ((s.blockOf 1).queues.any fun q => q.2.faulted.isSome) = true ∧ (AL.get? s.tasks (taskKey (s.blockOf 1).vf (s.blockOf 1).task)).any (fun x => decide (x.st ≠ .killed)) = true := by decide +kernel

/-- VF 0 debugged, its block in a state, its warp stopped or not. -/
def debugging (b : Block) (w : Warp) : State := { active 0 blkDebug (setR [(0, blkDebug, 0x80, 1)] base) with blocks := [(1, b)], warps := [(32, w)], stops := [(0, [5, 6])] }

/-- A command that names every warp of block 0 of task 3. -/
def debugWord : Nat := 3 * 16 + 2 ^ 30

theorem witness_DebugCommands : (base.debugTarget 0 debugWord = none ∧ base.blkActive 0 blkDebug = false) ∧
    (DebugNames (debugging block0 warp0) 0 debugWord 1 ∧ ((debugging block0 warp0).blockOf 1).onCore = true ∧ ((debugging block0 warp0).blockOf 1).kind = .plain ∧ (debugging block0 warp0).debugWarps 1 debugWord = [32] ∧
      ((debugging block0 warp0).warpOf 32).saved = none ∧ ((debugging block0 warp0).blockOf 1).st = .resident) ∧
    (let s := debugging block0 { warp0 with dbg := true }
     DebugNames s 0 debugWord 1 ∧ 32 ∈ s.debugWarps 1 debugWord ∧ (s.warpOf 32).dbg = true ∧ (s.warpOf 32).stepping = none ∧ ((s.warpOf 32).path (bitOf debugWord 29)).st ≠ .ended) ∧
    (DebugNames (debugging { block0 with kind := .mortise } warp0) 0 debugWord 1 ∧ ((debugging { block0 with kind := .mortise } warp0).blockOf 1).st = .resident) ∧
    (DebugNames (debugging { block0 with kind := .mortise, st := .held } warp0) 0 debugWord 1 ∧ ((debugging { block0 with kind := .mortise, st := .held } warp0).blockOf 1).st = .held) ∧
    (AL.get? base.stops 0 = none ∧ (debugging block0 warp0).blkActive 0 blkDebug = true ∧ AL.get? (debugging block0 warp0).stops 0 = some (5 :: [6])) := by
  unfold DebugNames; decide +kernel

/-! Witnesses: partitions -/

/-- The PF's partition registers active, with no block and no task. -/
def partState (clock : Nat) : State := { active Config.pf blkPart base with warps := [], blocks := [], tasks := [], clock := BitVec.ofNat 64 clock }

/-- Partition 1 holding cluster 3. -/
def holding3 : State := setR [(Config.pf, blkPart, partOff 1 + 8, 8)] (partState 5)

theorem witness_PartitionRegisters : (.leaseWrite 0 0 ∈ PartWrites 0 0 0 ∧ base.blkActive Config.pf blkPart = false ∧ 24 ≤ 24) ∧ (partState 5).blkActive Config.pf blkPart = true ∧ 23 < 24 ∧
    ((holding3.clustersHeld 1 &&& 8 % 2 ^ 32) ≠ 0 ∧ ∀ q, q < 24 → q ≠ 0 → (holding3.clustersHeld q &&& 4 % 2 ^ 32) = 0) ∧ ((partState 5).now % 2048 ≠ 0 ∧ (partState 2048).now % 2048 = 0 ∧ (partState 2048).blocks = [] ∧ (partState 2048).tasks = []) ∧
    (0 % 256 = 0 ∧ 255 % 256 ≠ 0) ∧ (1048 ≤ 1048 ∧ 1047 < 1048 ∧ (partState 5).blkActive 0 blkStall = false) := by decide +kernel

/-- A block that the boundary takes off a cluster that its partition gives up. -/
theorem witness_PartitionRegisters_boundary :
    let s := { setR [(Config.pf, blkPart, 0x2000, 0x20)] { partState 2048 with clustersNow := [(0, 1)] } with blocks := [(1, block0)] }
    block0.st = .resident ∧ s.partOf block0.vf = some 0 ∧ bitOf (s.clustersOf 0) (clusterOf block0.core) = true ∧ bitOf (s.clustersReg 0) (clusterOf block0.core) = false := by decide +kernel

theorem witness_PartitionRegisters_sums : 65536 < sumNat ((List.range 1024).map fun f => if f = 3 then 65535 % 2 ^ 16 else (setR [(Config.pf, blkPart, 0x4000, 8)] (partState 5)).quota f) ∧
    sumNat ((List.range 1024).map fun f => if f = 1023 then 64 % 2 ^ 16 else (partState 5).quota f) ≤ 65536 ∧
    32768 < sumNat ((List.range 24).map fun q => if q = 0 then 32769 % 2 ^ 16 else (partState 5).jquota q) ∧ sumNat ((List.range 24).map fun q => if q = 0 then (32768 + 2 ^ 16) % 2 ^ 16 else (partState 5).jquota q) ≤ 32768 := by decide +kernel

theorem witness_SeedsAndWays :
    ((setR [(Config.pf, blkPart, partOff 0, 1)] (partState 5)).partEn 0 = true ∧ ∃ q, q < 24 ∧ (setR [(Config.pf, blkPart, partOff 0, 1)] (partState 5)).partEn q = true) ∧
    ((∀ q, q < 24 → (partState 5).partEn q = false) ∧ (partState 5).blocks = [] ∧ 5 < 2 ^ 64) ∧ (partState 5).seedBusy 0 = false ∧ ((setR [(Config.pf, blkPart, partOff 0, 4)] (partState 5)).seedBusy 0 = true ∧ (setR [(Config.pf, blkPart, partOff 0, 4)] (partState 5)).mm.dirty = []) ∧
    (let s := setR [(Config.pf, blkPart, partOff 1, 2), (Config.pf, blkPart, partOff 1 + 0x400, 3)] (partState 5)
     (s.ways 1 0 &&& 2 % 2 ^ 16) ≠ 0 ∧ s.partStrict 1 = true ∧ (∀ q, q < 24 → q ≠ 0 → (s.ways q 0 &&& 0xC % 2 ^ 16) = 0) ∧ 2 * ((s.pinned 0 0 + 1023) / 1024) ≤ popc 16 (0xC % 2 ^ 16) ∧ s.blocks = []) ∧
    popc 16 0 < 2 * ((({ partState 5 with blocks := [(1, { block0 with tiles := [(0, { mtile 64 64 0 0 with desc := (mtile 64 64 0 0).desc ||| BitVec.ofNat 64 (2 ^ 30) })] })] } : State).pinned 0 0 + 1023) / 1024) ∧
    ((partState 5).sweeps.contains (0, 3) = false ∧ ({ partState 5 with sweeps := [(0, 3)] } : State).sweeps.contains (0, 3) = true ∧ (partState 5).ringOpen 2050 = false ∧ (partState 5).rep.notices = []) :=
  ⟨⟨by decide +kernel, 0, by decide +kernel⟩, by decide +kernel, by decide +kernel, by decide +kernel, by decide +kernel, by decide +kernel, by decide +kernel⟩

/-- A partition that sweeps a slice, one of whose ways left its mask with a line in it. -/
theorem witness_SeedsAndWays_sweep :
    let k := base.homeSlice 0 0x3000
    let s := { setR [(Config.pf, blkPart, 0x2000, 0x20)] (partState 5) with sweeps := [(0, k)], keys := { base.keys with fot := [(3, ⟨0, true, some 0⟩)] }, mm := { base.mm with l2dom := [(0x30, 0)], l2way := [(0x30, 3)] } }
    s.sweeps.contains (0, k) = true ∧ s.mm.dirty = [] ∧ s.ringOpen 2050 = false ∧ 0x30 ∈ s.leftLines 0 k := by decide +kernel

/-! Witnesses: fault reporting and invalidation -/

/-- The PF's terminal ring of 64 records at 0x5000, and a record for it. -/
def reporting (l : List TermRec) (merges : AL MergeEntry) : State :=
  { setR [(Config.pf, blkPfxlate, 0x20, 0x5006), (Config.pf, blkPfxlate, 0x38, 0), (0, blkXlate, 0x40, 0x5006), (0, blkXlate, 0x58, 0), (0, blkXlate, 0x60, 0x5006), (0, blkXlate, 0x78, 0)] base with
    rep := { base.rep with term := l }, mm := { base.mm with merges := merges, tlbN := [⟨0, 0, 0, 0x5000, 0x1000, 0x7000, true, false, false⟩] } }

/-- An entry of VF 0's first-stage request for page 0x4000. -/
def merge0 (posted : Bool) : MergeEntry := ⟨0, false, 0x4000, 1, 4, 1, false, 0x4000, 3, 0, posted, 0⟩

theorem ring_slot_pf : RingSlot (reporting [⟨Config.pf, 5, none⟩] []) 2049 0x5000 := ⟨by decide +kernel, fun _ => by decide +kernel, fun h => absurd (by decide +kernel) h⟩

theorem ring_slot_vf : RingSlot (reporting [] [(7, merge0 false)]) 0 0x7000 :=
  ⟨by decide +kernel, fun h => absurd h (by decide +kernel), fun _ => ⟨⟨0, 0, 0, 0x5000, 0x1000, 0x7000, true, false, false⟩, by decide +kernel, by decide +kernel⟩⟩

theorem witness_RecordsAreReported : base.writers = [] ∧
    (let s := reporting [⟨Config.pf, 5, none⟩] []
     s.writers = [Config.pf] ∧ s.nextTerm Config.pf = some ⟨Config.pf, 5, none⟩ ∧ RingSlot s (2 * Config.pf + 1) 0x5000 ∧ AL.has s.rep.kept (2 * Config.pf + 1) = false) := by
  exact ⟨by decide +kernel, by decide +kernel, by decide +kernel, ring_slot_pf, by decide +kernel⟩

theorem witness_RecordsAreReported_entry :
    (let s := reporting [] [(7, merge0 false)]
     s.writers = [0] ∧ s.nextTerm 0 = none ∧ s.nextMerge 0 = some (7, merge0 false) ∧ RingSlot s (2 * 0) 0x7000) ∧
    (AL.get? { (reporting [] []).rep with waitSlots := [(0, 4096)] }.waitSlots 0 = some 4096 ∧ 0 ∉ (reporting [] []).rep.promoted) := by
  exact ⟨⟨by decide +kernel, by decide +kernel, by decide +kernel, ring_slot_vf⟩, by decide +kernel⟩

/-- The same with no page held and an empty host table. -/
def reportingLost : State := { reporting [] [(7, merge0 false)] with mm := { (reporting [] [(7, merge0 false)]).mm with tlbN := [] } }

theorem lost_entry (s : State) (h : s.keys = reportingLost.keys) (h2 : s.regs = reportingLost.regs) : s.readEntry 0 (s.hroot 0) (bits 0x5000 (20 + 9 * 4) (12 + 9 * 4)) 4 = (0, none, s) := by
  have hr : s.hroot 0 = 0 := by unfold State.hroot State.regBits State.reg; rw [h2]; decide +kernel
  have ha : ∀ a, s.fotOf a = reportingLost.fotOf a := fun a => by unfold State.fotOf; rw [h]
  have h1 : (reportingLost.fotOf 0).adopted = false := by decide +kernel
  have hs : spanGroup 0 4 = false := by decide
  rw [hr]
  simp [State.readEntry, State.read8, spaRemote, bits, ha, h1, hs]

theorem lost_walk (s : State) (h : s.keys = reportingLost.keys) (h2 : s.regs = reportingLost.regs) (h3 : s.mm.tlbN = []) : (s.hostT 0 0 0x5000).1 = .invalid true 4 0x5000 := by
  have hv : pteV 0 = false := by decide
  simp [State.hostT, h3, tlbFind, State.hostWalk, lost_entry s h h2, hv]

theorem witness_RecordsAreReported_stop : reportingLost.writers = [0] ∧ NextRecord reportingLost 0 0 (reportingLost.mergeRecord 7 (merge0 false)) ∧ AL.has reportingLost.rep.kept 0 = false ∧
    ∀ (p : Report) a w e c n d, (State.hostT { reportingLost with rep := p } 0 0 (ringSlotAddr reportingLost 0)).1 ≠ .ok a w e c n d := by
  refine ⟨by decide +kernel, .inr ⟨by decide +kernel, 7, merge0 false, by decide +kernel, rfl, rfl⟩, by decide +kernel, fun p a w e c n d h => ?_⟩
  rw [show ringSlotAddr reportingLost 0 = 0x5000 by decide +kernel] at h
  exact absurd ((lost_walk { reportingLost with rep := p } rfl rfl rfl).symm.trans h) (by simp)

theorem witness_RecordsAreReported_rings : (base.blkActive (ringPlace 2049).1 (ringPlace 2049).2.1 = false ∧ 2049 ≤ 2050) ∧
    (let s := { active Config.pf blkPfxlate base with rep := { base.rep with kept := [(2049, 5)] } }
     s.blkActive (ringPlace 2049).1 (ringPlace 2049).2.1 = true ∧ 6 ≤ bits 0x5006 4 0 ∧ bits 0x5006 4 0 ≤ 16 ∧ AL.get? s.rep.kept 2049 = some 5 ∧ (AL.keys s.rep.kept).Nodup ∧
       spaHere 0x5000 = true ∧ ringSlotAddr (ringSet s 2049 0x5006 0) 2049 = 0x5000) ∧
    (let s := { active Config.pf blkNotice base with rep := { base.rep with notices := [5] } }
     s.blkActive (ringPlace 2050).1 (ringPlace 2050).2.1 = true ∧ (ringSet s 2050 0x5006 0).ringOpen 2050 = true ∧ ringSlotAddr (ringSet s 2050 0x5006 0) 2050 = 0x5000) ∧ bits 5 4 0 < 6 := by decide +kernel

/-- The word that resolves entry 7 of die 0 with sequence 0, as valid or as invalid. -/
def resolveWord (invalid : Bool) : Nat := 7 + if invalid then 2 ^ 18 else 0

/-- VF 0's entry 7 posted, a warp's path waiting for it. -/
def resolving (st : PathState) : State :=
  { active 0 blkXlate (reporting [] [(7, merge0 true)]) with warps := [(32, { warp0 with pathA := { path0 with st := st } })] }

theorem no_bad (s : State) (st : PathState) (hs : s.warps = [(32, { warp0 with pathA := { path0 with st := st } })]) (h : ∀ es bad x, st = .sleepPage es bad x ∨ st = .parked es bad → bad = none) (w : Nat) (b : Bool) (es : List (Nat × Nat)) (bad : Option BadPage) (x : Bool)
    (hw : ((s.warpOf w).path b).st = .sleepPage es bad x ∨ ((s.warpOf w).path b).st = .parked es bad) : bad = none := by
  have hi : (Warp.idle.path b).st = .ended := by cases b <;> rfl
  by_cases hk : w = 32
  · subst hk
    have : s.warpOf 32 = { warp0 with pathA := { path0 with st := st } } := by unfold State.warpOf; rw [hs]; rfl
    rw [this] at hw
    cases b
    · exact h es bad x hw
    · rcases hw with hw | hw <;> cases hw
  · have : s.warpOf w = Warp.idle := by
      unfold State.warpOf; rw [hs]; simp [AL.getD, AL.get?]
      split <;> simp_all
    rw [this, hi] at hw
    rcases hw with hw | hw <;> cases hw

theorem witness_ResolveAndInvalidate_resolves : base.blkActive 0 blkXlate = false ∧ ((resolving .ready).blkActive 0 blkXlate = true ∧ AL.get? (resolving .ready).mm.merges (bits 8 9 8 * 256 + bits 8 7 0) = none) ∧
    (let s := resolving (.sleepPage [(7, 0)] none false)
     Names s 0 (resolveWord false) (merge0 true) ∧ bitOf (resolveWord false) 18 = false ∧ ((s.warpOf 32).path false).st = .sleepPage [(7, 0)] none false ∧
       ∀ w b es bad x, ((s.warpOf w).path b).st = .sleepPage es bad x ∨ ((s.warpOf w).path b).st = .parked es bad → bad = none) ∧
    (let s := resolving (.parked [(7, 0)] none)
     Names s 0 (resolveWord false) (merge0 true) ∧ ((s.warpOf 32).path false).st = .parked [(7, 0)] none ∧ ∀ w b es bad x, ((s.warpOf w).path b).st = .sleepPage es bad x ∨ ((s.warpOf w).path b).st = .parked es bad → bad = none) := by
  refine ⟨by decide +kernel, by decide +kernel, ⟨by unfold Names; decide +kernel, by decide +kernel, by decide +kernel, no_bad _ _ rfl ?_⟩, by unfold Names; decide +kernel, by decide +kernel, no_bad _ _ rfl ?_⟩ <;>
    intro es bad x h <;> rcases h with h | h <;> cases h <;> rfl

theorem witness_ResolveAndInvalidate_invalid :
    let s := resolving (.parked [(7, 0)] none)
    let w : Warp := { warp0 with pathA := { path0 with st := .parked [(7, 0)] none } }
    s.blkActive 0 blkXlate = true ∧ Names s 0 (resolveWord true) (merge0 true) ∧ bitOf (resolveWord true) 18 = true ∧ (merge0 true).stage2 = false ∧ (AL.keys s.warps).Nodup ∧ (∀ x, x ∈ s.tasks → x.2.hitCopies = none) ∧ AL.get? s.warps 32 = some w ∧
      (∀ x, x ∈ s.blocks → x.2.noteBad 7 0 (merge0 true).badPage = x.2 ∧ x.2.ctxWait.contains (7, 0) = false) ∧ (∀ x, x ∈ s.warps → x.1 = 32) ∧ (w.path true).noteBad 7 0 (merge0 true).badPage = w.path true ∧ (w.path false).st = .parked [(7, 0)] none := by
  unfold Names; decide +kernel

/-- An invalidation of VF 0 under way, with or without a request that it waits for. -/
def invalidating (stage2 : Bool) (l : List LineReq) : State := { active 0 blkXlate (active Config.pf blkPfxlate base) with mm := { base.mm with reqs := l, invals := [⟨1, false, [], [], []⟩, ⟨0, stage2, [9], [], []⟩] } }

theorem witness_ResolveAndInvalidate_invalidations : (invalRange 0 = none ∧ invalRange 12 = some none ∧ invalRange (12 + 2 ^ 6 + 0x4000) = some (some (0x4000, 0x1000))) ∧
    ((invalidating false []).blkActive 0 blkXlate = true ∧ (invalidating false []).blkActive Config.pf blkPfxlate = true) ∧ base.mm.invals = [] ∧
    ((invalidating false []).mm.invals = [⟨1, false, [], [], []⟩] ++ ⟨0, false, [9], [], []⟩ :: [] ∧ (invalidating false []).reqsDone [9] = true ∧ (invalidating false []).matsDone [] = true) ∧
    (invalidating true []).reqsDone [9] = true ∧ (invalidating false [request 1 0 none]).reqsDone [9] = false := by decide +kernel

/-! Witnesses: keys and the driver copy path -/

/-- The key block active, its frame 5, its slot 0 and its depth 1, the PF's domain with a tree of one level, a domain of windows, and a frame of the management domain. -/
def keying (status : DWord) (cmd : Option KeyCmd) : State :=
  { setR [(Config.pf, blkKey, 8, 5 * 4096), (Config.pf, blkKey, 0x10, 2 ^ 30), (Config.pf, blkKey, 0x18, status)] (active Config.pf blkKey base) with
    keys := { base.keys with cmd := cmd, doms := [(1024, 0)], draws := 1, trees := [(Config.pfDomain, (1, 0x7000))] } }

/-- An ADOPT of frame 5 by the PF's domain. -/
def adopt0 (ready : Bool) : KeyCmd := ⟨1, Config.pfDomain, 5, 0, 0, 0, [], [], ready⟩

theorem witness_KeyCommands : (keyForm (.keyAdopt 0) = some (0, 1) ∧ base.blkActive Config.pf blkKey = false) ∧
    ((keying (2 ^ 24) none).blkActive Config.pf blkKey = true ∧ (keying (2 ^ 24) none).regBits Config.pf blkKey 0x18 24 24 = 1) ∧
    ((keying 0 none).regBits Config.pf blkKey 0x18 24 24 = 0 ∧ (keying 0 none).keyCode 1 (bits 0 18 8) (bits 0 63 19) 5 0 1 = 3) ∧
    ((keying 0 none).regBits Config.pf blkKey 8 51 12 = 5 ∧ (keying 0 none).regBits Config.pf blkKey 0x10 29 0 = 0 ∧ (keying 0 none).regBits Config.pf blkKey 0x10 33 30 = 1) ∧
    (keying 0 none).keyCode 1 (bits (1280 * 256) 18 8) (bits (1280 * 256) 63 19) 5 0 1 = 0 ∧ (keying 0 none).keyCode 2 (bits (1279 * 256) 18 8) (bits (1279 * 256) 63 19) 5 0 1 = 0 ∧
    (keying 0 none).keyCode 3 (bits (1024 * 256) 18 8) (bits (1024 * 256) 63 19) 5 0 1 = 0 ∧
    (let s := { keying 0 none with keys := { (keying 0 none).keys with fot := [(5, ⟨Config.mgmtDomain, true, none⟩)] } }
     s.keyCode 4 (bits (1024 * 256) 18 8) (bits (1024 * 256) 63 19) 5 0 1 = 0) := by decide +kernel

theorem witness_KeyCommands_ends : base.adoptReady = none ∧ ((keying 0 (some (adopt0 false))).adoptReady = some (adopt0 false) ∧ (keying 0 (some (adopt0 false))).blocks = [(1, block0)] ∧ block0.set.bytes = []) ∧
    (base.keys.cmd = none ∧ (keying 0 (some (adopt0 false))).keys.cmd = some (adopt0 false) ∧ (adopt0 false).ready = false) ∧
    ((keying 0 (some (adopt0 true))).keys.cmd = some (adopt0 true) ∧ (adopt0 true).ready = true ∧ (adopt0 true).code < 256) := by decide +kernel

/-- A transfer of 64 bytes of host memory at 0x100 and device memory at 0x3000, or from there to 0x5000. -/
def xfer0 (fn dir len : Nat) : DcopyXfer := ⟨fn, 0x100, 0x3000, 0x5000, len, dir, 3, 0, [], none, none⟩

/-- Frames 3 and 5 of one owner, and transfers queued. -/
def transferring (owner : Nat) (l : List DcopyXfer) : State :=
  { active Config.pf blkDcopy base with keys := { base.keys with fot := [(3, ⟨owner, true, some 0⟩), (5, ⟨owner, true, some 1⟩)] }, dcopy := l }

/-- VF 0's GPA page 0x3000 held translated to frame 6, or its table with an entry valid and not present, or one that gives no page. -/
def vfCopying (tlb : List TlbEntry) (entry : Byte) (dir : Nat) : State :=
  { active 0 blkDcopy base with
    keys := { base.keys with fot := [(0, ⟨Config.pfDomain, true, none⟩), (6, ⟨0, true, some 0⟩)] }, mm := { base.mm with tlbN := tlb, mem := if entry = 0 then [] else [(0, entry)] }, dcopy := [xfer0 0 dir 64] }

theorem witness_DriverCopies : base.blkActive 0 blkDcopy = false ∧ ((setR [(0, blkDcopy, 0x20, 2 ^ 24)] (active 0 blkDcopy base)).blkActive 0 blkDcopy = true ∧ (setR [(0, blkDcopy, 0x20, 2 ^ 24)] (active 0 blkDcopy base)).regBits 0 blkDcopy 0x20 24 24 = 1) ∧
    (active 0 blkDcopy base).regBits 0 blkDcopy 0x20 24 24 = 0 ∧ base.dcopyNext 0 = none ∧
    ((transferring 1280 [xfer0 0 0 64, xfer0 Config.pf 0 1]).dcopy = [xfer0 0 0 64] ++ xfer0 Config.pf 0 1 :: [] ∧ (∀ y, y ∈ [xfer0 0 0 64] → y.fn ≠ (xfer0 Config.pf 0 1).fn) ∧
      (transferring 1280 [xfer0 0 0 64, xfer0 Config.pf 0 1]).dcopyFree (xfer0 Config.pf 0 1) = true ∧ (xfer0 Config.pf 0 1).bad = true) ∧
    (let s := transferring 0 [xfer0 Config.pf 0 64]
     s.dcopyFree (xfer0 Config.pf 0 64) = true ∧ (xfer0 Config.pf 0 64).bad = false ∧ s.dcopyOwner 0x3000 64 ≠ some Config.pfDomain) ∧
    (let s := { transferring 0 [xfer0 Config.pf 2 64] with keys := { (transferring 0 []).keys with fot := [(3, ⟨0, true, some 0⟩), (5, ⟨1, true, some 0⟩)] } }
     s.dcopyFree (xfer0 Config.pf 2 64) = true ∧ (xfer0 Config.pf 2 64).bad = false ∧ s.dcopyOwner 0x3000 64 ≠ s.dcopyOwner 0x5000 64) := by decide +kernel

theorem witness_DriverCopies_pages :
    (let s := vfCopying [] 0 1
     s.dcopyFree (xfer0 0 1 64) = true ∧ (xfer0 0 1 64).bad = false ∧ 0x3000 / 4096 = (0x3000 + 64 - 1) / 4096 ∧ (s.hostT 0 0 0x3000).1 = .invalid true 4 0x3000) ∧
    (let s := vfCopying [⟨0, 0, 0, 0x3000, 0x1000, 0x6000, false, false, false⟩] 0 0
     s.dcopyFree (xfer0 0 0 64) = true ∧ (s.hostT 0 0 0x3000).1 = .ok 0x6000 false false false 0x1000 0) ∧
    (let s := vfCopying [] 1 1
     s.dcopyFree (xfer0 0 1 64) = true ∧ (s.hostT 0 0 0x3000).1 = .nonres true 4 0 false 0) := by decide +kernel

theorem witness_DriverCopies_vf : ∀ dir, dir < 2 →
    let e : TlbEntry := ⟨0, 0, 0, 0x3000, 0x1000, 0x6000, true, false, false⟩
    let s := vfCopying [e] 0 dir
    s.dcopyFree (xfer0 0 dir 64) = true ∧ tlbFind s.mm.tlbN 0 0 0x3000 = some e ∧ e.size ≠ 0 ∧ (e.spa + (0x3000 - e.va)) % 4096 = 0 ∧ spaHere (e.spa + (0x3000 - e.va)) = true ∧
      s.pageExhausted ((e.spa + (0x3000 - e.va)) / 4096) = false ∧ OwnLines s 0x6000 64 (some (s.fotOf 6).owner) ∧ e.w = true ∧ CleanRange s 0x6000 64 := by unfold OwnLines CleanRange CleanSector; decide +kernel

theorem witness_DriverCopies_pf : ∀ dir, dir < 3 →
    let s := transferring Config.pfDomain [xfer0 Config.pf dir 64]
    s.dcopyFree (xfer0 Config.pf dir 64) = true ∧ (xfer0 Config.pf dir 64).bad = false ∧ DeviceRange s 0x3000 64 (some Config.pfDomain) ∧ DeviceRange s 0x5000 64 (some Config.pfDomain) ∧ CleanRange s 0x3000 64 ∧
      0x3000 + 64 ≤ 0x5000 ∧ s.jig.regions = [] := by unfold DeviceRange CleanRange CleanSector; decide +kernel

theorem witness_DriverCopies_lines : ∀ dir, dir < 3 →
    let s := transferring Config.pfDomain [xfer0 Config.pf dir 64]
    OwnLines s 0x3000 64 (some Config.pfDomain) ∧ OwnLines s 0x5000 64 (some Config.pfDomain) := by unfold OwnLines; decide +kernel

theorem witness_DriverCopies_exhausted :
    let s := { transferring Config.pfDomain [xfer0 Config.pf 0 64] with keys := { (transferring Config.pfDomain []).keys with ctrs := [(1280 * 2 ^ 32, ⟨1, [], true⟩)] } }
    s.dcopyFree (xfer0 Config.pf 0 64) = true ∧ s.dcopyOwner 0x3000 64 = some Config.pfDomain ∧ s.pageExhausted (0x3000 / 4096) = true := by decide +kernel

/-- A page of the VF in package 2. -/
def farPage : TlbEntry := ⟨0, 0, 0, 0x3000, 0x1000, 2 ^ 51 + 2 * 2 ^ 38 + 0x3000, true, false, false⟩

theorem witness_DriverCopies_far : (∀ dir, dir < 2 →
      let s := vfCopying [farPage] 0 dir
      DcopyXfer.Unbegun (xfer0 0 dir 64) ∧ s.dcopyFree (xfer0 0 dir 64) = true ∧ tlbFind s.mm.tlbN 0 0 0x3000 = some farPage ∧ farPage.size ≠ 0 ∧ spaHere (farPage.spa + (0x3000 - farPage.va)) = false ∧ farPage.w = true) ∧
    ({ xfer0 0 0 64 with far := some 9 } : DcopyXfer).far ≠ none ∧ (({ xfer0 0 0 128 with pos := 64, stop := some 7 } : DcopyXfer).far = none ∧ 64 < 2 ^ 24) ∧
    (let s := { transferring Config.pfDomain [xfer0 Config.pf 0 64] with blocks := [(1, { block0 with kind := .mortise, set := ⟨[(0x3002, 5)], [], []⟩ })] }
     (xfer0 Config.pf 0 64).stop = none ∧ s.dcopyFree (xfer0 Config.pf 0 64) = false) := by
  unfold DcopyXfer.Unbegun; decide +kernel

/-! Witnesses: the fabric -/

/-- Package 1 with its package number valid, port 3 up, and words of its fabric tables. -/
def linked (words : Tbl 32) : State :=
  { setR [(Config.pf, blkFabric, 0, 1 + 2 ^ 13), (Config.pf, blkFabric, fabOff 3 + 0x8100, 2 + 255 * 2 ^ 16)] (active Config.pf blkFabric base) with fab := { base.fab with active := words } }

/-- The same with the fabric's other parts given. -/
def flying (f : Fabric → Fabric) : State := { linked [] with fab := f (linked []).fab }

/-- A flit of package 2 with key 7 for line 0x30. -/
def flit0 (dest key chan : Nat) (bytes : List Nat) (acc : Option FlitAcc) : Flit := ⟨2, dest, key, chan, 0x3004, bytes, 5, 9, 0, acc⟩

/-- Words of port 3's table: key 7, and an entry for package 2 by port 3, or by port 4 which is down. -/
def words (port : Nat) : Tbl 32 := [(3 * 2 ^ 16 + 2, BitVec.ofNat 32 (2 ^ 20 + port * 2 ^ 16 + 2 ^ port)), (3 * 2 ^ 16 + 0x8000, 7)]

/-- A request of the warp that waits for the fabric, made by an engine or not. -/
def farReq (kind : Nat) (pend : Option Nat) (eng : Option EngRef) : LineReq := { request kind 4 pend with eng := eng, line := 0x30 + 2 ^ 43 + 2 * 2 ^ 30 }

theorem witness_FabricTables : base.blkActive Config.pf blkFabric = false ∧ ((linked []).blkActive Config.pf blkFabric = true ∧ (linked []).fab.commit = none) ∧
    ((flying fun f => { f with commit := some (17, false, 0) }).fab.commit = some (17, false, 0) ∧ 16 < 17) ∧ (flying fun f => { f with commit := some (16, true, 0) }).fab.commit = some (16, true, 0) ∧
    ((flying fun f => { f with commit := some (16, false, 0) }).fab.commit = some (16, false, 0) ∧ (AL.keys (flying fun f => { f with commit := some (16, false, 0) }).regs).Nodup ∧ 16 ≤ 16 ∧ (flying fun f => { f with commit := some (16, false, 0) }).fab.heldFlits = []) ∧
    ((flying fun f => { f with commit := some (15, true, 0) }).fab.commit = some (15, true, 0) ∧ (AL.keys (flying fun f => { f with commit := some (15, true, 0) }).regs).Nodup ∧ 15 < 16) := by decide +kernel

theorem witness_FabricTables_holds : (linked []).holdBit 2 = false ∧
    (let s := setR [(Config.pf, blkFabric, fabOff 16 + 0x9000, 4)] (linked [])
     s.holdBit 2 = true ∧ heldShown s 2 = false ∧ s.mm.reqs = []) ∧
    (let s := { setR [(Config.pf, blkFabric, fabOff 16 + 0x9000, 4)] (linked []) with mm := { base.mm with reqs := [farReq 1 none none] } }
     s.holdBit 2 = true ∧ heldShown s 2 = false ∧ spaRemote ((farReq 1 none none).line * 256) = true ∧ linePkg (farReq 1 none none).line = 2 ∧ (farReq 1 none none).stage = 4 ∧ (farReq 1 none none).adaptive = false) ∧
    (let q : LineReq := { farReq 1 none none with adaptive := true }
     let s := { setR [(Config.pf, blkFabric, fabOff 16 + 0x9000, 4)] (linked []) with mm := { base.mm with reqs := [q] } }
     s.holdBit 2 = true ∧ heldShown s 2 = false ∧ ∀ r, r ∈ s.mm.reqs → spaRemote (r.line * 256) = true → linePkg r.line = 2 → r.stage = 4 → r.adaptive = true) := by decide +kernel

theorem witness_FabricPackets : base.portUp 3 = false ∧ ((linked []).portUp 3 = true ∧ (linked []).pv = true ∧ (linked []).pkgid = 1) ∧
    (requestFlit (flit0 2 0 0 [] none) = true ∧ (flit0 2 0 0 [] none).key = 0) ∧ (requestFlit (flit0 2 7 0 [] none) = true ∧ ∀ x, x < 64 → fabWord (linked []) 3 (0x8000 + x) ≠ 7) ∧
    (requestFlit (flit0 2 7 0 [] none) = true ∧ ∃ x, x < 64 ∧ fabWord (linked (words 3)) 3 (0x8000 + x) = 7) ∧ requestFlit (flit0 2 0 3 [] none) = false ∧
    (bitOf (fabWord (linked (words 3)) 3 2) 20 = true ∧ adaptiveFlit (flit0 2 7 0 [] none) = false) ∧
    (adaptiveFlit (flit0 2 7 2 [] none) = true ∧ ∃ k, k < 16 ∧ bitOf (fabWord (linked (words 3)) 3 2) k = true ∧ (linked (words 3)).portUp k = true) ∧
    (bitOf (fabWord (linked (words 4)) 3 2) 20 = true ∧ ∀ k, k < 16 → bitOf (fabWord (linked (words 4)) 3 2) k = true → (linked (words 4)).portUp k = false) ∧
    bitOf (fabWord (linked (words 3)) 3 4) 20 = false :=
  ⟨by decide +kernel, by decide +kernel, by decide +kernel, by decide +kernel, ⟨by decide +kernel, 0, by decide +kernel⟩, by decide +kernel, by decide +kernel, ⟨by decide +kernel, 3, by decide +kernel⟩, by decide +kernel, by decide +kernel⟩

/-- Frame 3 of the window domain 1024, with what is held of its line, what is cached, and what waits. -/
def farWindow (held : AL Byte) (dom : AL Nat) (bad : List Nat) (l : List LineReq) : State :=
  { linked (words 3) with
    keys := { base.keys with fot := [(3, ⟨1024, true, some 0⟩)] }, blocks := [(1, { block0 with set := ⟨held, [], []⟩ })], mm := { base.mm with l2dom := dom, poison := bad, reqs := l } }

/-- An atomic add of two lanes to the word at 0x3004. -/
def far0 : FlitAcc := ⟨2, .add, 0, 4, [(0, 4, 5, 0), (1, 4, 6, 0)], none⟩

theorem witness_FabricPackets_delivered : windowHere (linked (words 3)) 0x3004 = false ∧ (windowHere (farWindow [(0x3002, 5)] [] [] []) 0x3004 = true ∧ (farWindow [(0x3002, 5)] [] [] []).heldAny (0x3004 / 256) = true) ∧
    (let s := farWindow [] [] [] []
     windowHere s 0x3004 = true ∧ s.heldAny (0x3004 / 256) = false ∧ s.switchingDie (homeDie 0x3004) = false ∧ s.engTurn (flitRef (flit0 1 7 0 [] none)) 0x30 = true ∧ AL.get? s.mm.l2dom (0x3004 / 256) = none ∧ CleanRange s (0x3004 / 256 * 256) 256) ∧
    flitKind (flit0 1 7 0 [] none) = 0 ∧ flitKind (flit0 1 7 0 [1, 2] none) = 1 ∧ (flitKind (flit0 1 7 0 [] (some far0)) = 2 ∧ (flit0 1 7 0 [] (some far0)).acc = some far0) ∧
    (let f := flit0 1 7 0 [] (some ⟨1, .add, 0, 4, [(0, 4, 5, 0)], some 3⟩)
     flitKind f = 1 ∧ flitTag f = some 3 ∧ (4, 5) ∈ flitStored f) ∧
    (let s := farWindow [] [(0x30, 1024)] [0x3000 / 64] []
     AL.get? s.mm.l2dom (0x3004 / 256) = some (s.fotOf (0x3004 / 4096)).owner ∧ s.engTurn (flitRef (flit0 1 7 0 [] none)) 0x30 = true ∧
       (({ s with fab := { s.fab with delivered := s.fab.delivered ++ [flit0 1 7 0 [] none] } } : State).flitCheck (flit0 1 7 0 [] none)).1.isSome = true) ∧
    (farWindow [] [] [] [request 1 1 none]).engTurn (flitRef (flit0 1 7 0 [] none)) 0x30 = false := by
  unfold CleanRange CleanSector; decide +kernel

/-- A system fence that waits for ticket 9. -/
def slowTicket : Slow := ⟨98, false, 0x1000, 0, .ticket 9, .fence 4 true⟩

theorem witness_FabricPackets_refusals : (∀ r, r ∈ (linked []).mm.reqs → ¬ (r.id = 9 ∧ r.stage = 4)) ∧ (linked []).ticketSlow 9 = none ∧
    ({ linked [] with warps := [(32, { warp0 with slow := [slowTicket] })] } : State).ticketSlow 9 = some (32, slowTicket) ∧
    ((farWindow [] [] [] [farReq 1 none none]).mm.reqs = [] ++ farReq 1 none none :: [] ∧ (farReq 1 none none).id = 9 ∧ (farReq 1 none none).stage = 4) ∧
    ((farReq 1 none none).eng = none ∧ AL.has (farWindow [] [] [] [farReq 1 none none]).warps (farReq 1 none none).wid = true ∧ ¬ ((farReq 1 none none).kind = 0 ∧ (farReq 1 none none).pend = none)) ∧
    ((farReq 0 none none).kind = 0 ∧ (farReq 0 none none).pend = none) := by decide +kernel

theorem witness_FabricPackets_engines :
    (let s := { farWindow [] [] [] [farReq 0 none (some (.copy 1 0 20))] with blocks := [(1, { block0 with queues := [(0, ⟨[{ copy0 with far := [0, 1, 2, 3] }], none, none, [], [], []⟩)] })] }
     ((s.blockOf 1).queue 0).entries = [{ copy0 with far := [0, 1, 2, 3] }] ∧ ({ copy0 with far := [0, 1, 2, 3] } : CopyEntry).id = 20) ∧
    (let s := { farWindow [] [] [] [farReq 1 none (some (.fetch 32 false))] with warps := [(32, { warp0 with pathA := { path0 with st := .operandWait (.fetch 9) } })] }
     s.fetches 32 false 9 = true) ∧ (farWindow [] [] [] [farReq 0 none (some (.fetch 32 false))]).fetches 32 false 9 = false ∧
    (let x : DcopyXfer := { xfer0 0 1 64 with far := some 9 }
     [x] = [] ++ x :: [] ∧ x.fn = 0 ∧ x.far = some 9 ∧ (farReq 0 none (some (.dcopy 0))).eng = some (.dcopy 0)) ∧
    (let q : StreamQ := ⟨0, 0, [], [], [], some (⟨[(0, 0)], [], none, none⟩, [9])⟩
     let s := { farWindow [] [] [] [farReq 0 none (some (.strm 32 1))] with warps := [(32, { warp0 with q := [(1, q)] })] }
     AL.get? (s.warpOf 32).q 1 = some q ∧ q.coming = some (⟨[(0, 0)], [], none, none⟩, [9])) := by decide +kernel

theorem witness_FabricPackets_holds :
    (let s := flying fun f => { f with heldFlits := [(5, 16 * 16 + 4, flit0 2 7 0 [] none, 0)] }
     s.fab.heldFlits = [] ++ (5, 16 * 16 + 4, flit0 2 7 0 [] none, 0) :: [] ∧ s.now ≤ 0 + s.linkto) ∧
    (let s := { flying fun f => { f with heldFlits := [(5, 16 * 16 + 4, flit0 2 7 0 [] none, 0)] } with clock := BitVec.ofNat 64 ((linked []).linkto + 1) }
     0 + s.linkto < s.now ∧ requestFlit (flit0 2 0 3 [] none) = false ∧ requestFlit (flit0 2 7 0 [] none) = true ∧ (flit0 2 7 0 [] none).src ≠ s.pkgid ∧ ({ flit0 2 7 0 [] none with src := 1 } : Flit).src = s.pkgid) := by decide +kernel

/-- A warp that waits for ticket 9. -/
def ticketed (granted : List Nat) : State := { flying fun f => { f with granted := granted } with warps := [(32, { warp0 with slow := [slowTicket] })] }

theorem witness_FabricPackets_tickets : ((linked []).ordpt ≠ (linked []).pkgid ∧ (setR [(Config.pf, blkFabric, 8, 1)] (linked [])).ordpt = (setR [(Config.pf, blkFabric, 8, 1)] (linked [])).pkgid) ∧
    ((linked []).grantReady = none ∧ (linked []).fab.tickets = []) ∧
    ((flying fun f => { f with tickets := [(1, 9), (2, 4)] }).grantReady = none ∧ (flying fun f => { f with tickets := [(1, 9), (2, 4)] }).fab.tickets = [(1, 9), (2, 4)] ∧ 1 = (linked []).pkgid ∧ 2 ≠ (linked []).pkgid) ∧
    ((flying fun f => { f with granted := [7] }).grantReady = some 7 ∧ (flying fun f => { f with granted := [7] }).ticketSlow 7 = none) ∧
    ((ticketed [9]).grantReady = some 9 ∧ (ticketed [9]).ticketSlow 9 = some (32, slowTicket)) := by decide +kernel

theorem witness_LinksAndWavelengths : bitOf ((linked []).portBits 4 23 16) 0 = false ∧ (bitOf ((linked []).portBits 3 23 16) 7 = true ∧ (linked []).portBits 3 23 16 ≠ 2 ^ 7) ∧
    (setR [(Config.pf, blkFabric, fabOff 3 + 0x8100, 2 + 2 ^ 16)] (linked [])).portBits 3 23 16 = 2 ^ 0 ∧ (∀ e, e ∈ (linked []).fab.lost → e.1 ≠ 3) ∧
    ((flying fun f => { f with lost := [(4, 1), (3, 2)] }).fab.lost = [(4, 1)] ++ (3, 2) :: [] ∧ ∀ e, e ∈ [(4, 1)] → e.1 ≠ 3) ∧ (linked []).ringOpen 2050 = false ∧
    ((linked []).portUp 3 = true ∧ (linked []).portUp 4 = false ∧ (linked []).fab.heldFlits = []) ∧
    (let s := setR [(Config.pf, blkFabric, fabOff 3 + 0x8100, 2 + 2 ^ 16)] { linked (words 3) with fab := { (linked (words 3)).fab with sent := [(3 * 16 + 3, flit0 2 7 0 [] none), (3 * 16 + 5, flit0 2 7 0 [] none)] } }
     s.portBits 3 23 16 = 2 ^ 0 ∧ ∀ e, e ∈ s.fab.sent → e.1 % 16 = 3 → bitOf (fabWord s (e.1 / 16) e.2.dest) 20 = true) ∧
    (let s := { linked [(16 * 2 ^ 16 + 2, BitVec.ofNat 32 (2 ^ 20 + 4 * 2 ^ 16))] with fab := { (linked []).fab with active := [(16 * 2 ^ 16 + 2, BitVec.ofNat 32 (2 ^ 20 + 4 * 2 ^ 16))], heldFlits := [(5, 16 * 16 + 4, flit0 2 7 0 [] none, 0)] } }
     s.ringOpen 2050 = false ∧ s.portUp 4 = false ∧ bitOf (fabWord s 16 (flit0 2 7 0 [] none).dest) 20 = true ∧ adaptiveFlit (flit0 2 7 0 [] none) = false ∧ ordPort s 16 (flit0 2 7 0 [] none).dest = 4) ∧
    (AL.has (flying fun f => { f with waves := [(1027, 2)] }).fab.waves (1 * 1024 + 3) = true ∧ AL.has (linked []).fab.waves (1 * 1024 + 3) = false) ∧
    (AL.getD (linked []).fab.waves (1 * 1024 + 3) 0 ≠ 1 ∧ AL.getD (flying fun f => { f with waves := [(1027, 1)] }).fab.waves (1 * 1024 + 3) 0 = 1) := by decide +kernel

/-- The notice ring of 64 records at 0x5000. -/
def noticing : State := setR [(Config.pf, blkNotice, 0x00, 0x5006), (Config.pf, blkNotice, 0x18, 0)] (active Config.pf blkNotice base)

theorem witness_LinksAndWavelengths_notice : noticing.ringOpen 2050 = true ∧ noticing.rep.notices = [] ∧ RingSlot noticing 2050 0x5000 :=
  ⟨by decide +kernel, by decide +kernel, by decide +kernel, fun _ => by decide +kernel, fun h => absurd (by decide +kernel) h⟩

/-! Witnesses: boot, resets and the register space -/

/-- The package in a boot state, with two VFs enabled. -/
def booting (st : DWord) : State := { setR [(Config.pf, blkBoot, 0x100008, st), (Config.pf, 0, blkBoot, 1)] base with vfs := 2 }

/-- What verification finds is one of the three cases, whatever it is. -/
theorem witness_FirmwareBoot : (base.blkActive Config.pf blkBoot = false ∨ (booting 3).bstate = 3) ∧ ((booting 0).blkActive Config.pf blkBoot = true ∧ (booting 0).bstate = 0) ∧
    ((booting 4).bstate = 4 ∧ (booting 5).bstate = 5 ∧ (booting 5).blkActive Config.pf blkBoot = true) ∧ (booting 1).bstate = 1 ∧
    ∀ n, Config.firmwareVerdict n = 0 ∨ Config.firmwareVerdict n = 1 ∨ 1 < Config.firmwareVerdict n :=
  ⟨by decide +kernel, by decide +kernel, by decide +kernel, by decide +kernel, fun n => by omega⟩

theorem witness_FunctionsAndResets : Config.vfs < 1025 ∧ (booting 3).bstate = 3 ∧ (1024 ≤ Config.vfs ∧ (booting 3).vfs < 1024) ∧
    (let s := { booting 3 with keys := { base.keys with fot := [(5, ⟨1, true, some 0⟩)] } }
     ∃ e, e ∈ s.keys.fot ∧ 1 ≤ e.2.owner ∧ e.2.owner < s.vfs) ∧
    (1 < (booting 3).vfs ∧ ∀ e, e ∈ (booting 3).keys.fot → e.2.owner < 1 ∨ (booting 3).vfs ≤ e.2.owner) ∧ (Config.vfs ≤ 1024 ∧ 0 < Config.vfs) :=
  ⟨by decide +kernel, by decide +kernel, by decide +kernel, ⟨_, .head _, by decide +kernel⟩, by decide +kernel, by decide +kernel⟩

/-- The PF's partition, notice, key, fabric and error blocks active, with a notice that waits. -/
def serving : State :=
  { setR [(Config.pf, 0, blkPart, 1), (Config.pf, 0, blkNotice, 1), (Config.pf, 0, blkKey, 1), (Config.pf, 0, blkFabric, 1), (Config.pf, 0, blkErr, 1)] (booting 3) with rep := { base.rep with notices := [5] } }

theorem witness_RegisterSpace : carries 0 blkPart = false ∧
    (carries Config.pf blkPart = true ∧ serving.blkActive Config.pf blkPart = true ∧ serving.writeIgnored blkPart 0x2000 5 = false ∧ blkPart ≠ blkNotice ∧ ¬ ActsBeyond blkPart 0x2000 ∧ bitOf (writeMask Config.pf blkPart 0x2000) 0 = true) ∧
    (serving.writeIgnored blkPart 0x10000 8 = false ∧ ¬ ActsBeyond blkPart 0x10000 ∧ bitOf (w1cMask blkPart 0x10000) 3 = true) ∧
    (carries Config.pf blkNotice = true ∧ serving.blkActive Config.pf blkNotice = true ∧ writeMask Config.pf blkNotice 0x10 ≠ 0) ∧ 23 < 24 ∧ serving.blkActive Config.pf blkKey = true ∧
    (bits 1 7 0 = 1 ∧ bits 2 7 0 = 2 ∧ bits 3 7 0 = 3 ∧ bits 4 7 0 = 4 ∧ 4 < bits 5 7 0 ∧ serving.regBits Config.pf blkKey 0x18 24 24 = 0) ∧ (127 < 128 ∧ serving.blkActive Config.pf blkFabric = true) := by
  unfold ActsBeyond; decide +kernel

theorem witness_RegisterSpace_blocks : (carries 0 blkPart = false ∧ ¬ (0 = 1)) ∧ (carries 1 blkXlate = true ∧ 1 < serving.vfs ∧ serving.bstate = 3) ∧ (carries Config.pf blkBoot = true ∧ (booting 0).bstate ≠ 3) ∧
    (carries 2 blkXlate = true ∧ 2 ≠ Config.pf ∧ serving.vfs ≤ 2) ∧ (base.blkActive 0 blkErr = false ∧ (if (Config.pf : Nat) = Config.pf then 16 else 1) ≤ 16) ∧ (serving.blkActive Config.pf blkErr = true ∧ 15 < (if (Config.pf : Nat) = Config.pf then 16 else 1)) := by
  decide +kernel

end Sys2Proof.Tests
end

section
/-! Plain register writes, ACCEPT and the error banks (R9, R10, R292, R293, R318): what each leaves in the registers. -/

open Sys2Proof Sys2Proof.Machine Sys2Proof.Claims

namespace Sys2Proof.Machine

/-! Keys of registers -/

/-- Registers of the 32 blocks, at offsets inside BAR0, have keys of their own. -/
theorem regKey_inj {f b o f' b' o' : Nat} (hb : b < 32) (ho : o < 2 ^ 26) (hb' : b' < 32) (ho' : o' < 2 ^ 26) :
    regKey f b o = regKey f' b' o' ↔ f = f' ∧ b = b' ∧ o = o' := by
  unfold regKey
  omega

/-- A block that a function carries has one of the 32 identifiers (R294). -/
theorem lt_of_carries {fn blk : Nat} (h : carries fn blk = true) : blk < 32 := by
  unfold carries blkErr blkDcopy at h
  split at h
  all_goals
    simp only [Bool.or_eq_true, Bool.and_eq_true, beq_iff_eq, decide_eq_true_eq] at h
    omega

theorem ite_eq_of_cases {α : Type} {c : Prop} [Decidable c] {a b x : α} (hpos : c → a = x) (hneg : ¬ c → b = x) : (if c then a else b) = x := by
  split
  next h => exact hpos h
  next h => exact hneg h

/-- No register with a plain field lies past the 64 MiB of BAR0 (R292). -/
theorem writeMask_eq_zero_of_le {fn blk off : Nat} (h : 2 ^ 26 ≤ off) : writeMask fn blk off = 0 := by
  have hpart : inPartBlock off = false := by
    simp only [inPartBlock, Bool.and_eq_false_iff, decide_eq_false_iff_not]
    omega
  simp only [writeMask, hpart, Bool.not_false, if_true, Config.cores]
  repeat' refine ite_eq_of_cases (fun _ => ?_) (fun _ => ?_)
  all_goals omega

theorem w1cMask_eq_zero_of_le {blk off : Nat} (h : 2 ^ 26 ≤ off) : w1cMask blk off = 0 := by
  unfold w1cMask
  rw [if_neg (by omega), if_neg (by omega)]

/-! Bits of a masked write -/

theorem bitOf_eq_testBit (x i : Nat) : bitOf x i = x.testBit i := by
  rw [bitOf, Nat.testBit_eq_decide_div_mod_eq]; rfl

theorem testBit_sub_of_lt {x i : Nat} (hx : x < 2 ^ 64) (hi : i < 64) : (2 ^ 64 - 1 - x).testBit i = !x.testBit i := by
  rw [Nat.sub_sub, Nat.add_comm, Nat.testBit_two_pow_sub_succ hx, decide_eq_true hi, Bool.true_and]

theorem testBit_mergeMask {old new mask i : Nat} (hm : mask < 2 ^ 64) (hi : i < 64) :
    (mergeMask old new mask).testBit i = if mask.testBit i then new.testBit i else old.testBit i := by
  rw [mergeMask, Nat.testBit_or, Nat.testBit_and, Nat.testBit_and, testBit_sub_of_lt hm hi]
  cases mask.testBit i <;> simp

theorem keptFields_lt (s : State) (blk off val : Nat) : s.keptFields blk off val < 2 ^ 64 := by
  unfold State.keptFields
  repeat' split
  all_goals decide

theorem w1cMask_lt (blk off : Nat) : w1cMask blk off < 2 ^ 64 := by
  unfold w1cMask
  repeat' split
  all_goals decide

/-! What a plain write does -/

/-- The word that a plain write leaves in its register (R10). -/
def State.plainWord (s : State) (fn block off val : Nat) : DWord :=
  BitVec.ofNat 64 (mergeMask (s.reg fn block off).toNat (val % 2 ^ 64) (writeMask fn block off &&& (2 ^ 64 - 1 - s.keptFields block off val)) &&&
    (2 ^ 64 - 1 - (w1cMask block off &&& val)))

/-- The state in which a plain write of a register is made: that of a weight keeps the weight in force (R55). -/
def State.weightKept (s : State) (block off : Nat) : State :=
  if block = blkPart ∧ 0x2000 ≤ off ∧ off < 0x4000 then s.keepWeight ((off - 0x2000) / 8) else s

theorem State.weightKept_eq (s : State) (block off : Nat) : s.weightKept block off = { s with oldWeights := (s.weightKept block off).oldWeights } := by
  unfold State.weightKept
  split <;> rfl

theorem bitOf_plainWord (s : State) (fn block off val : Nat) {i : Nat} (hi : i < 64) :
    bitOf (s.plainWord fn block off val).toNat i =
      if bitOf (w1cMask block off) i && bitOf val i then false
      else if bitOf (writeMask fn block off) i && !bitOf (s.keptFields block off val) i then bitOf val i else bitOf (s.reg fn block off).toNat i := by
  have hmask : writeMask fn block off &&& (2 ^ 64 - 1 - s.keptFields block off val) < 2 ^ 64 := Nat.and_lt_two_pow _ (by omega)
  have hw1c : w1cMask block off &&& val < 2 ^ 64 := Nat.lt_of_le_of_lt Nat.and_le_left (w1cMask_lt _ _)
  simp only [State.plainWord, bitOf_eq_testBit, BitVec.toNat_ofNat, Nat.testBit_mod_two_pow, Nat.testBit_and, testBit_sub_of_lt hw1c hi,
    testBit_mergeMask hmask hi, testBit_sub_of_lt (keptFields_lt s block off val) hi, decide_eq_true hi, Bool.true_and]
  cases (w1cMask block off).testBit i && val.testBit i <;> simp

/-- A register whose write changes nothing of it keeps every bit. -/
theorem bitOf_reg_of_no_fields (s : State) {fn block off val : Nat} (hm : writeMask fn block off = 0) (hw : w1cMask block off &&& val = 0) (i : Nat) :
    bitOf (s.reg fn block off).toNat i =
      if bitOf (w1cMask block off) i && bitOf val i then false
      else if bitOf (writeMask fn block off) i && !bitOf (s.keptFields block off val) i then bitOf val i else bitOf (s.reg fn block off).toNat i := by
  have hbit : ((w1cMask block off).testBit i && val.testBit i) = false := by rw [← Nat.testBit_and, hw, Nat.zero_testBit]
  simp [bitOf_eq_testBit, hbit, hm]

/-- A write that is not taken (R9, R293; log entry 65). -/
theorem exec_registerWrite_untaken {fn block off val : Nat} {s : State}
    (h : carries fn block = false ∨ s.blkActive fn block = false ∨ s.writeIgnored block off val = true) :
    exec (.registerWrite fn block off val) s = .next s := by
  show execRegisterWrite fn block off val s = _
  unfold execRegisterWrite
  rcases h with h | h | h <;> simp [h]

/-- A write that is taken: the three kinds of register whose write acts beyond it, and then the plain fields, after which a ring that was emptied takes notices (R10, R153). -/
theorem exec_registerWrite_taken {fn block off val : Nat} {s : State} (hc : carries fn block = true) (ha : s.blkActive fn block = true)
    (hi : s.writeIgnored block off val = false) :
    exec (.registerWrite fn block off val) s =
      .next (if block = blkKey ∧ off = 0 then s.keyStart (bits val 7 0) val
        else if block = blkFabric ∧ fabOff 16 + 0x9000 ≤ off ∧ off < fabOff 16 + 0x9400 ∧ off % 8 = 0 then
          s.holdWord ((off - fabOff 16 - 0x9000) / 8) (val % 2 ^ 64)
        else if block = blkPart ∧ 0x10000 ≤ off ∧ off < 0x10000 * 25 ∧ off % 0x10000 = 0x3000 then s.jquotaWrite (off / 0x10000 - 1) val
        else if writeMask fn block off = 0 ∧ w1cMask block off &&& val = 0 then s
        else ((s.weightKept block off).setReg fn block off (s.plainWord fn block off val)).afterWrite block) := by
  show execRegisterWrite fn block off val s = _
  unfold execRegisterWrite
  rw [if_neg (by simp [hc, ha, hi])]
  simp only [Bool.and_eq_true, decide_eq_true_eq]
  rfl

theorem exec_registerWrite_plain {fn block off val : Nat} {s : State} (hc : carries fn block = true) (ha : s.blkActive fn block = true)
    (hi : s.writeIgnored block off val = false) (hp : ¬ ActsBeyond block off) :
    exec (.registerWrite fn block off val) s =
      .next (if writeMask fn block off = 0 ∧ w1cMask block off &&& val = 0 then s
        else ((s.weightKept block off).setReg fn block off (s.plainWord fn block off val)).afterWrite block) := by
  rw [ActsBeyond, not_or, not_or] at hp
  obtain ⟨hkey, hhold, hquota⟩ := hp
  rw [exec_registerWrite_taken hc ha hi, if_neg hkey, if_neg hhold, if_neg hquota]

theorem State.afterWrite_eq_self {s : State} {block : Nat} (h : block = blkNotice → s.rep.notices = []) : s.afterWrite block = s := by
  unfold State.afterWrite
  split
  next hb =>
    have hn := h hb
    rw [hn, State.drainNotices, ← hn]
  next => rfl

theorem onlyRegs_refl (l : List (Nat × Nat × Nat)) (s : State) : OnlyRegs l s s := ⟨rfl, fun _ _ _ _ _ _ => rfl⟩

theorem onlyRegs_setReg (s : State) (fn : Nat) {blk off : Nat} (hb : blk < 32) (ho : off < 2 ^ 26) (x : DWord) :
    OnlyRegs [(fn, blk, off)] s (s.setReg fn blk off x) := by
  refine ⟨rfl, fun f b o hn hb' ho' => State.reg_setReg_ne _ _ _ _ _ _ _ _ fun hk => hn ?_⟩
  obtain ⟨rfl, rfl, rfl⟩ := (regKey_inj hb' ho' hb ho).1 hk
  exact List.mem_singleton.2 rfl

/-- After a write of a VF's register in PART the weights in force are those from before it, until the round ends (R55). -/
theorem weightNow_setReg_weightKept (s : State) {fn off f : Nat} (x : DWord) (hlo : 0x2000 ≤ off) (hhi : off < 0x4000) (hf : f < 1024) :
    ((s.weightKept blkPart off).setReg fn blkPart off x).weightNow f = s.weightNow f := by
  have hkept : s.weightKept blkPart off = s.keepWeight ((off - 0x2000) / 8) := if_pos ⟨rfl, hlo, hhi⟩
  rw [hkept]
  by_cases hfo : f = (off - 0x2000) / 8
  · subst hfo
    exact AL.getD_put_self _ _ _ _
  · have hkey : regKey Config.pf blkPart (0x2000 + 8 * f) ≠ regKey fn blkPart off := fun h => by
      have := ((regKey_inj (by decide) (by omega) (by decide) (by omega)).1 h).2.2
      omega
    have hreg := State.reg_setReg_ne (s.keepWeight ((off - 0x2000) / 8)) fn blkPart off Config.pf blkPart (0x2000 + 8 * f) x hkey
    have hweight : ((s.keepWeight ((off - 0x2000) / 8)).setReg fn blkPart off x).weight f = s.weight f := by
      unfold State.weight State.regBits
      rw [hreg]
      rfl
    unfold State.weightNow
    rw [hweight]
    exact AL.getD_put_ne _ _ _ hfo

/-- A write of a plain register changes its fields and leaves every other register (R9, R10). -/
theorem registerWrite_plain_spec {fn block off val : Nat} {s : State} (hc : carries fn block = true) (ha : s.blkActive fn block = true)
    (hi : s.writeIgnored block off val = false) (hn : block = blkNotice → s.rep.notices = []) (hp : ¬ ActsBeyond block off) :
    ∃ t, exec (.registerWrite fn block off val) s = .next t ∧ OnlyRegs [(fn, block, off)] { s with oldWeights := t.oldWeights } t ∧
      (¬ (block = blkPart ∧ 0x2000 ≤ off ∧ off < 0x4000) → t.oldWeights = s.oldWeights) ∧
      (block = blkPart → 0x2000 ≤ off → off < 0x4000 → ∀ f, f < 1024 → t.weightNow f = s.weightNow f) ∧
      ∀ i, i < 64 → bitOf (t.reg fn block off).toNat i =
        if bitOf (w1cMask block off) i && bitOf val i then false
        else if bitOf (writeMask fn block off) i && !bitOf (s.keptFields block off val) i then bitOf val i else bitOf (s.reg fn block off).toNat i := by
  refine ⟨_, exec_registerWrite_plain hc ha hi hp, ?_⟩
  split
  next hnone => exact ⟨onlyRegs_refl _ _, fun _ => rfl, fun _ _ _ _ _ => rfl, fun i _ => bitOf_reg_of_no_fields s hnone.1 hnone.2 i⟩
  next hsome =>
    have hoff : off < 2 ^ 26 := Nat.lt_of_not_le fun hle =>
      hsome ⟨writeMask_eq_zero_of_le hle, by rw [w1cMask_eq_zero_of_le hle, Nat.zero_and]⟩
    have hafter : ((s.weightKept block off).setReg fn block off (s.plainWord fn block off val)).afterWrite block =
        (s.weightKept block off).setReg fn block off (s.plainWord fn block off val) :=
      State.afterWrite_eq_self fun hb => by rw [State.setReg_rep, State.weightKept_eq]; exact hn hb
    rw [hafter, State.setReg_oldWeights, ← State.weightKept_eq]
    refine ⟨onlyRegs_setReg _ _ (lt_of_carries hc) hoff _, fun hw => ?_, ?_, fun i hi64 => ?_⟩
    · rw [State.weightKept, if_neg hw]
    · rintro rfl hlo hhi f hf
      exact weightNow_setReg_weightKept s _ hlo hhi hf
    · rw [State.reg_setReg, bitOf_plainWord s fn block off val hi64]

/-! Registers whose write acts beyond them -/

theorem not_actsBeyond_notice (off : Nat) : ¬ ActsBeyond blkNotice off := by
  simp [ActsBeyond, blkNotice, blkKey, blkFabric, blkPart]

/-- A write of the notice ring's registers is the plain write, and then the notices that wait are written (R153). -/
theorem registerWrite_notice_spec {fn off val : Nat} {s : State} (hc : carries fn blkNotice = true) (ha : s.blkActive fn blkNotice = true)
    (hm : writeMask fn blkNotice off ≠ 0) :
    ∃ v, exec (.registerWrite fn blkNotice off val) { s with rep := { s.rep with notices := [] } } = .next v ∧
      exec (.registerWrite fn blkNotice off val) s = .next (State.drainNotices { v with rep := s.rep } s.rep.notices) := by
  have hp := not_actsBeyond_notice off
  refine ⟨_, exec_registerWrite_plain hc ha rfl hp, (exec_registerWrite_plain hc ha rfl hp).trans ?_⟩
  rw [if_neg fun h => hm h.1, if_neg fun h => hm h.1]
  rfl

/-- A write of a partition's jig quota is the event of its own (R275). -/
theorem registerWrite_jquota {val p : Nat} {s : State} (hp : p < 24) (ha : s.blkActive Config.pf blkPart = true) :
    exec (.registerWrite Config.pf blkPart (partOff p + 0x3000) val) s = exec (.jquotaWrite p val) s := by
  have hquota : 0x10000 ≤ partOff p + 0x3000 ∧ partOff p + 0x3000 < 0x10000 * 25 ∧ (partOff p + 0x3000) % 0x10000 = 0x3000 := by
    unfold partOff; omega
  have hpart : (partOff p + 0x3000) / 0x10000 - 1 = p := by unfold partOff; omega
  have hign : s.writeIgnored blkPart (partOff p + 0x3000) val = false := by
    simp [State.writeIgnored, hquota.2.2, blkPart, blkPfxlate]
  have hok : s.partOk p = true := by simp [State.partOk, ha, Config.partitions, hp]
  have hown : exec (.jquotaWrite p val) s = .next (s.jquotaWrite p val) := by
    show execJquotaWrite p val s = _
    rw [execJquotaWrite, hok]
    rfl
  rw [exec_registerWrite_taken rfl ha hign, if_neg (fun h => absurd h.1 (by decide)), if_neg (fun h => absurd h.1 (by decide)),
    if_pos ⟨rfl, hquota⟩, hpart, hown]

/-- A write of the key command register starts the command its low byte names (R258). -/
theorem registerWrite_key {val : Nat} {s : State} (ha : s.blkActive Config.pf blkKey = true) :
    exec (.registerWrite Config.pf blkKey 0 val) s = .next (s.keyStart (bits val 7 0) val) := by
  rw [exec_registerWrite_taken rfl ha rfl, if_pos ⟨rfl, rfl⟩]

theorem keyCode_reserved (s : State) {op : Nat} (h : op = 0 ∨ 4 < op) (dom rsvd frame slot depth : Nat) : s.keyCode op dom rsvd frame slot depth = 2 := by
  unfold State.keyCode
  exact if_pos (h.elim .inl fun h => .inr (.inl h))

/-- A command of a reserved operation does nothing but end with code 2 (R258). -/
theorem keyStart_reserved {s : State} {op word : Nat} (ha : s.blkActive Config.pf blkKey = true) (hop : op = 0 ∨ 4 < op)
    (hidle : s.regBits Config.pf blkKey 0x18 24 24 = 0) :
    ∃ c : KeyCmd, (s.keyStart op word).keys = { s.keys with cmd := some c } ∧ c.code = 2 ∧ c.ready = true ∧
      s.keyStart op word = { s with regs := (s.keyStart op word).regs, keys := (s.keyStart op word).keys } := by
  simp [State.keyStart, ha, hidle, keyCode_reserved s hop, State.keyStatus, State.setReg]

/-- A word written to HOLD stands in the HOLD bits of its 64 packages (R308). -/
theorem holdBit_holdWord (s : State) {i k : Nat} (x : Nat) (hk : k < 64) : (s.holdWord i (x % 2 ^ 64)).holdBit (64 * i + k) = bitOf x k := by
  have hdiv : (64 * i + k) / 64 * 8 = 8 * i := by omega
  have hmod : (64 * i + k) % 64 = k := by omega
  have hkey : regKey Config.pf blkFabric (fabOff 16 + 0x9000 + 8 * i) ≠ regKey Config.pf blkFabric (fabOff 16 + 0x9400 + 8 * i) := by
    unfold regKey; omega
  rw [State.holdBit, hdiv, hmod, State.holdWord, State.reg_setReg_ne _ _ _ _ _ _ _ _ hkey, State.reg_setReg]
  simp only [bitOf_eq_testBit, BitVec.toNat_ofNat, Nat.testBit_mod_two_pow, decide_eq_true hk, Bool.true_and]

/-- A write of a word of HOLD (R308). -/
theorem registerWrite_hold {val i : Nat} {s : State} (hi : i < 128) (ha : s.blkActive Config.pf blkFabric = true) :
    exec (.registerWrite Config.pf blkFabric (fabOff 16 + 0x9000 + 8 * i) val) s = .next (s.holdWord i (val % 2 ^ 64)) := by
  have hword : fabOff 16 + 0x9000 ≤ fabOff 16 + 0x9000 + 8 * i ∧ fabOff 16 + 0x9000 + 8 * i < fabOff 16 + 0x9400 ∧ (fabOff 16 + 0x9000 + 8 * i) % 8 = 0 := by
    unfold fabOff; omega
  have hidx : (fabOff 16 + 0x9000 + 8 * i - fabOff 16 - 0x9000) / 8 = i := by omega
  rw [exec_registerWrite_taken rfl ha rfl, if_neg (fun h => absurd h.1 (by decide)), if_pos ⟨rfl, hword⟩, hidx]

/-! ACCEPT (R293) -/

theorem exec_capAccept_untaken {fn block val : Nat} {s : State}
    (h : carries fn block = false ∨ val ≠ 1 ∨ (fn ≠ Config.pf ∧ s.vfs ≤ fn) ∨ (s.bstate ≠ 3 ∧ block ≠ blkBoot ∧ block ≠ blkErr)) :
    exec (.capAccept fn block val) s = .next s := by
  show execCapAccept fn block val s = _
  unfold execCapAccept
  rcases h with h | h | h | h <;> simp [h]

theorem exec_capAccept_taken {fn block : Nat} {s : State} (hc : carries fn block = true) (hfn : fn = Config.pf ∨ fn < s.vfs)
    (hb : s.bstate = 3 ∨ block = blkBoot ∨ block = blkErr) : exec (.capAccept fn block 1) s = .next (s.setReg fn 0 block 1) := by
  show execCapAccept fn block 1 s = _
  have hin : ¬ (fn ≠ Config.pf ∧ s.vfs ≤ fn) := by omega
  have hresp : ¬ ((s.bstate ≠ 3 ∧ block ≠ blkBoot) ∧ block ≠ blkErr) := fun ⟨⟨h3, hboot⟩, herr⟩ => hb.elim h3 (Or.rec hboot herr)
  unfold execCapAccept
  rw [if_neg, if_neg]
  · simpa only [Bool.and_eq_true, decide_eq_true_eq] using hresp
  · simpa only [hc, Bool.not_true, Bool.false_or, Bool.or_eq_true, Bool.and_eq_true, decide_eq_true_eq, ne_eq, not_true_eq_false, false_or] using hin

/-- A block that responds is active once its driver accepted major version 1 (R293, R317). -/
theorem blkActive_setReg_accept {fn block : Nat} {s : State} (hc : carries fn block = true) (hb : s.bstate = 3 ∨ block = blkBoot ∨ block = blkErr) :
    (s.setReg fn 0 block 1).blkActive fn block = true := by
  have hkey : regKey Config.pf blkBoot 0x100008 ≠ regKey fn 0 block := fun h => by
    have := ((regKey_inj (by decide) (by decide) (by decide) (by have := lt_of_carries hc; omega)).1 h).2.1
    exact absurd this (by decide)
  have hstate : (s.setReg fn 0 block 1).bstate = s.bstate := by
    unfold State.bstate State.regBits
    rw [State.reg_setReg_ne _ _ _ _ _ _ _ _ hkey]
  have hmajor : (s.setReg fn 0 block 1).regBits fn 0 block 7 0 = 1 := by
    unfold State.regBits
    rw [State.reg_setReg]
    decide
  unfold State.blkActive
  rw [hstate, hmajor]
  simpa [or_assoc] using hb

/-! Error banks (R318) -/

/-- Set to zero the registers of a block at some offsets from a base. -/
def State.zeroRegs (s : State) (fn blk base : Nat) (offs : List Nat) : State := offs.foldl (fun s o => s.setReg fn blk (base + o) 0) s

theorem State.zeroRegs_cons (s : State) (fn blk base o : Nat) (offs : List Nat) :
    s.zeroRegs fn blk base (o :: offs) = (s.setReg fn blk (base + o) 0).zeroRegs fn blk base offs := rfl

theorem onlyRegs_zeroRegs (fn : Nat) {blk base : Nat} (hb : blk < 32) (offs : List Nat) : ∀ s : State, (∀ o ∈ offs, base + o < 2 ^ 26) →
    OnlyRegs (offs.map fun o => (fn, blk, base + o)) s (s.zeroRegs fn blk base offs) := by
  induction offs with
  | nil => exact fun s _ => onlyRegs_refl _ s
  | cons o r ih =>
    intro s ho
    obtain ⟨hfirst, hother⟩ := onlyRegs_setReg s fn hb (ho o (by simp)) 0
    obtain ⟨hrest, hrother⟩ := ih (s.setReg fn blk (base + o) 0) fun o' h => ho o' (by simp [h])
    refine ⟨hrest, fun f b o' hn hb' ho' => ?_⟩
    rw [List.map_cons, List.mem_cons, not_or] at hn
    exact (hrother f b o' hn.2 hb' ho').trans (hother f b o' (by simpa using hn.1) hb' ho')

theorem reg_zeroRegs (fn blk base o : Nat) (offs : List Nat) : ∀ s : State, o ∈ offs ∨ s.reg fn blk (base + o) = 0 →
    (s.zeroRegs fn blk base offs).reg fn blk (base + o) = 0 := by
  induction offs with
  | nil => exact fun s h => h.resolve_left (List.not_mem_nil)
  | cons o' r ih =>
    intro s h
    refine ih _ ?_
    by_cases hk : regKey fn blk (base + o) = regKey fn blk (base + o')
    · have : o = o' := by unfold regKey at hk; omega
      subst this
      exact .inr (State.reg_setReg ..)
    · rw [State.reg_setReg_ne _ _ _ _ _ _ _ _ hk]
      exact h.imp_left fun hm => (List.mem_cons.1 hm).resolve_left fun he => hk (by rw [he])

theorem exec_errBankClear_untaken {fn bank : Nat} {s : State} (h : s.blkActive fn blkErr = false ∨ (if fn = Config.pf then 16 else 1) ≤ bank) :
    exec (.errBankClear fn bank) s = .next s := by
  show execErrBankClear fn bank s = _
  unfold execErrBankClear
  rcases h with h | h <;> simp [h]

theorem exec_errBankClear_taken {fn bank : Nat} {s : State} (ha : s.blkActive fn blkErr = true) (hb : bank < (if fn = Config.pf then 16 else 1)) :
    exec (.errBankClear fn bank) s = .next (s.zeroRegs fn blkErr (0x20 * bank) [0, 8, 16, 24]) := by
  show execErrBankClear fn bank s = _
  unfold execErrBankClear
  rw [if_neg]
  · rfl
  · simp only [ha, Bool.not_true, Bool.false_or, decide_eq_true_eq]
    omega

/-- Clearing an error bank zeroes its four registers alone (R318). -/
theorem errBankClear_spec {fn bank : Nat} {s : State} (ha : s.blkActive fn blkErr = true) (hb : bank < (if fn = Config.pf then 16 else 1)) :
    ∃ t, exec (.errBankClear fn bank) s = .next t ∧ (∀ k, k < 4 → t.reg fn blkErr (0x20 * bank + 8 * k) = 0) ∧
      OnlyRegs ((List.range 4).map fun k => (fn, blkErr, 0x20 * bank + 8 * k)) s t := by
  have hbank : bank < 16 := by split at hb <;> omega
  have hlist : ((List.range 4).map fun k => (fn, blkErr, 0x20 * bank + 8 * k)) = [0, 8, 16, 24].map fun o => (fn, blkErr, 0x20 * bank + o) := rfl
  refine ⟨_, exec_errBankClear_taken ha hb, fun k hk => reg_zeroRegs _ _ _ _ _ _ (.inl ?_), ?_⟩
  · simp only [List.mem_cons, List.not_mem_nil, or_false]
    omega
  · rw [hlist]
    refine onlyRegs_zeroRegs fn (by decide) _ s fun o ho => ?_
    simp only [List.mem_cons, List.not_mem_nil, or_false] at ho
    omega

/-- Settles O60: a case for each kind of register, from the equation of a taken write (`exec_registerWrite_plain`) and the two of ACCEPT and of an error bank. -/
theorem registerSpace : Obligations.RegisterSpace := by
  refine ⟨fun fn block off val s => ⟨exec_registerWrite_untaken, registerWrite_plain_spec⟩, fun fn off val s => registerWrite_notice_spec,
    fun val p s => registerWrite_jquota, fun val s ha => ?keys, fun val i s hi ha => ?hold, fun fn block val s => ⟨exec_capAccept_untaken, ?accept⟩,
    fun fn bank s => ⟨exec_errBankClear_untaken, errBankClear_spec⟩⟩
  case keys =>
    have hexec := registerWrite_key (val := val) ha
    refine ⟨?_, ?_, ?_, ?_, fun hop hidle => ?reserved⟩
    case reserved =>
      obtain ⟨c, hkeys, hcode, hready, hrest⟩ := keyStart_reserved (word := val) ha hop hidle
      exact ⟨_, c, hexec, hkeys, hcode, hready, hrest⟩
    all_goals
      intro hop
      rw [hexec, hop]
      rfl
  case hold => exact ⟨_, registerWrite_hold hi ha, rfl, fun k hk => holdBit_holdWord s val hk⟩
  case accept =>
    rintro hc rfl hfn hb
    have hblk : block < 2 ^ 26 := by have := lt_of_carries hc; omega
    exact ⟨_, exec_capAccept_taken hc hfn hb, blkActive_setReg_accept hc hb, onlyRegs_setReg s fn (by decide) hblk 1⟩

end Sys2Proof.Machine
end

section
/-! What a change of the issuing warp leaves as it was, and the instructions that move, split and join its paths (R78 to R80). -/

open Sys2Proof Sys2Proof.Machine Sys2Proof.Claims

namespace Sys2Proof.Machine

variable {s t : State}

/-! Changes of the issuing warp and path compose -/

theorem AL.del_ins {α : Type} (l : AL α) (k : Nat) (x : α) : AL.del (AL.ins k x l) k = AL.del l k := by
  induction l with
  | nil => simp [AL.ins, AL.del]
  | cons e r ih =>
    unfold AL.del at ih ⊢
    simp only [AL.ins]
    split
    · simp
    · simp only [List.filter_cons, ih]

theorem AL.put_put {α : Type} (l : AL α) (k : Nat) (x y : α) : AL.put (AL.put l k x) k y = AL.put l k y := by
  have hdel : AL.del (AL.del l k) k = AL.del l k := by simp [AL.del]
  rw [AL.put, AL.put, AL.del_ins, hdel, AL.put]

theorem State.modW_modW (s : State) (f g : Warp → Warp) : (s.modW f).modW g = s.modW fun w => g (f w) := by
  have hw : (s.modW f).w = f s.w := State.w_putWarp s _
  show { s with warps := AL.put (AL.put s.warps s.cur (f s.w)) s.cur (g (s.modW f).w) } = { s with warps := AL.put s.warps s.cur (g (f s.w)) }
  rw [AL.put_put, hw]

theorem Warp.setPath_setPath (w : Warp) (b : Bool) (p q : Path) : (w.setPath b p).setPath b q = w.setPath b q := by cases b <;> rfl

theorem State.modPath_modPath (s : State) (f g : Path → Path) : (s.modPath f).modPath g = s.modPath fun p => g (f p) := by
  refine (State.modW_modW s _ _).trans (congrArg s.modW (funext fun w => ?_))
  show (w.setPath s.curB _).setPath s.curB (g ((w.setPath s.curB _).path s.curB)) = _
  rw [Warp.path_setPath, Warp.setPath_setPath]

theorem State.path_modPath (s : State) (f : Path → Path) : (s.modPath f).path = f s.path := by simp [State.path]

/-- The code entry follows the warp's block alone. -/
theorem State.codeva_modPath (s : State) (f : Path → Path) : (s.modPath f).codeva = s.codeva := by
  have hbid : (s.modPath f).bid = s.bid := by simp [State.bid]
  unfold State.codeva State.task State.blk
  rw [hbid]
  rfl

theorem sameOutside_modW (s : State) (f : Warp → Warp) : SameOutside s (s.modW f) :=
  ⟨rfl, fun _ => rfl, fun _ hk => State.warpOf_putWarp_ne s _ _ hk, fun _ _ => rfl, rfl, fun _ _ => rfl⟩

/-- Registers read as before where the tables that hold them are as before. -/
theorem registersSame_of_tables (hs : t.w.s = s.w.s) (hv : t.w.v = s.w.v) (hp : t.w.p = s.w.p) (hb : t.w.b = s.w.b) : RegistersSame s t := by
  refine ⟨fun k => ?_, fun k i _ => ?_, fun k => ?_, fun k => ?_⟩
  · simp only [State.rS, Warp.rS, hs]
  · simp only [State.rV, Warp.rV, hv]
  · simp only [State.rP, Warp.rP, hp]
  · simp only [State.rB, Warp.rB, hb]

theorem registersSame_modPath (s : State) (f : Path → Path) : RegistersSame s (s.modPath f) :=
  registersSame_of_tables (by simp) (by simp) (by simp) (by simp)

theorem pathMoves_of_jump {i : Instr} {a : VAddr} (h : exec i s = .next (s.jump a)) : PathMoves i s a :=
  have hp : (s.jump a).path = { s.path with pc := a, waited := false } := State.path_modPath s _
  ⟨_, h, by rw [hp], by simp [State.jump], by simp [State.jump], by rw [hp], by rw [hp], State.modPath_kept [] s _ rfl⟩

/-! Divergence (R78, R79) -/

/-- A top split whose second stream starts with serial entries. -/
def State.splitWith (s : State) (rc pcA pcB : VAddr) (maskA maskB : Word) (stackB : List StackEntry) : State :=
  (s.topSplit rc pcA pcB maskA maskB).modW fun w => { w with pathB := { w.pathB with stack := stackB } }

theorem State.splitWith_nil (s : State) (rc pcA pcB : VAddr) (maskA maskB : Word) :
    s.splitWith rc pcA pcB maskA maskB [] = s.topSplit rc pcA pcB maskA maskB := by
  unfold State.splitWith State.topSplit
  exact State.modW_modW s _ _

theorem State.splitsInto_splitWith (s : State) (rc pcA pcB : VAddr) (maskA maskB : Word) (stackB : List StackEntry) :
    SplitsInto s (s.splitWith rc pcA pcB maskA maskB stackB) rc pcA pcB maskA maskB stackB := by
  unfold State.splitWith State.topSplit
  rw [State.modW_modW]
  refine ⟨?_, ?_, ?_, ?_, ?_, ?_, ?_, ?_, ?_, ?_, ?_, ?_, ?_, ?_, ?_, ?_, ?_, registersSame_of_tables ?_ ?_ ?_ ?_, sameOutside_modW s _⟩
  all_goals simp only [State.modW_eq, State.w_putWarp, Path.arm, Warp.endSegment]

/-! Serial entries (R79, R83) -/

/-- Entries that fit on the chip are pushed, the first of the list innermost. -/
theorem State.pushEntries_onChip (es : List StackEntry) (s : State) (h : s.path.stack.length + es.length ≤ 16) :
    ∃ u, s.pushEntries es = .ok u ∧ u.path.stack = es ++ s.path.stack ∧
      ∀ f : Path → Path, u.modPath f = s.modPath fun p => f { p with stack := es ++ p.stack } := by
  induction es with
  | nil => exact ⟨s, rfl, rfl, fun _ => rfl⟩
  | cons e r ih =>
    simp only [List.length_cons] at h
    obtain ⟨u, hu, hstack, hmod⟩ := ih (by omega)
    have hroom : u.path.stack.length < 16 := by rw [hstack, List.length_append]; omega
    refine ⟨u.modPath fun p => { p with stack := e :: p.stack }, ?_, ?_, fun f => ?_⟩
    · show (s.pushEntries r).bind (fun s1 => s1.pushEntry e) = _
      rw [hu]
      exact if_pos hroom
    · rw [State.path_modPath, hstack]; rfl
    · rw [State.modPath_modPath, hmod]; rfl

theorem State.serial_onChip (s : State) (mask : Word) (pc : VAddr) (es : List StackEntry) (h : s.path.stack.length + es.length ≤ 16)
    (hdepth : s.path.depth + es.length ≤ 64) :
    s.serial mask pc es = s.modPath fun p => { p with mask := mask, pc := pc, waited := false, stack := es ++ p.stack } := by
  obtain ⟨u, hu, -, hmod⟩ := State.pushEntries_onChip es s h
  have hstep : s.serial mask pc es = s.orStop ((s.pushEntries es).bind fun s1 => .ok (s1.modPath fun p => { p with mask := mask, pc := pc, waited := false })) :=
    if_neg (by omega)
  rw [hstep, hu]
  exact hmod fun p => { p with mask := mask, pc := pc, waited := false }

theorem State.pushesEntries_serial (s : State) (mask : Word) (pc : VAddr) (es : List StackEntry) (h : s.path.stack.length + es.length ≤ 16)
    (hdepth : s.path.depth + es.length ≤ 64) : PushesEntries s (s.serial mask pc es) pc mask es := by
  rw [State.serial_onChip s mask pc es h hdepth]
  unfold PushesEntries
  rw [State.path_modPath]
  exact ⟨rfl, rfl, rfl, rfl, rfl, by simp, by simp, by simp, by simp, registersSame_modPath s _, sameOutside_modW s _⟩

/-- `vbr` (R78): the lanes agree, or the warp splits at the top, or the path goes on with an entry for the lanes that fall through. -/
theorem vectorBranchDiverges : VectorBranchDiverges := by
  intro p off rc s taken rest dest meet
  have hexec : exec (.vbr p off rc) s = .next (
      if rest = 0 then s.jump dest else if taken = 0 then s.jump (s.path.pc + 8) else if s.w.recipe then s.illop
      else if !s.w.split then s.topSplit meet dest (s.path.pc + 8) taken rest
      else s.serial taken dest [s.path.entry s.codeva meet (s.path.pc + 8) rest]) := rfl
  refine ⟨fun hr => ?agree, fun hr ht => ?fall, fun hr ht hrec => ?recipe, fun hr ht hrec hs => ?split, fun hr ht hrec hs hroom hdepth => ?serial,
    fun hr ht hrec hs hdepth => ?full⟩
  case agree => exact pathMoves_of_jump (by rw [hexec, if_pos hr])
  case fall => exact pathMoves_of_jump (by rw [hexec, if_neg hr, if_pos ht])
  case recipe => rw [hexec, if_neg hr, if_neg ht, if_pos hrec]
  case split =>
    refine ⟨_, hexec, ?_⟩
    simp only [hr, ht, hrec, hs, if_false, Bool.not_false, if_true, Bool.false_eq_true]
    exact State.splitWith_nil s .. ▸ State.splitsInto_splitWith s ..
  case serial =>
    refine ⟨_, hexec, ?_⟩
    simp only [hr, ht, hrec, hs, if_false, Bool.not_true, Bool.false_eq_true]
    exact State.pushesEntries_serial s _ _ _ hroom hdepth
  case full =>
    rw [hexec, if_neg hr, if_neg ht, hrec, hs]
    exact congrArg Host.Outcome.next (if_pos (Nat.lt_succ_of_le hdepth))

/-- `vswitch` (R79), by the number of partitions that have lanes. -/
theorem vectorSwitchDiverges : VectorSwitchDiverges := by
  intro n va sb table s rc ent hv
  have hexec : exec (.vswitch n va sb table) s = .next (
      match s.parts n va sb table with
      | [] => s.jump rc
      | [e] => s.jump e.1
      | e :: f :: r => if s.w.recipe then s.illop else if s.w.split then s.serial e.2 e.1 ((f :: r).map ent) else s.splitWith rc e.1 f.1 e.2 f.2 (r.map ent)) := by
    show execVswitch n va sb table s = _
    unfold execVswitch
    rw [hv]
    rfl
  refine ⟨fun e hp => ?_, fun e f r hp hrec => ?_, fun e f r hp hrec hs => ?_, fun e f r hp hrec hs hroom hdepth => ?_⟩
  · exact pathMoves_of_jump (by rw [hexec, hp])
  · rw [hexec, hp]
    exact congrArg Host.Outcome.next (if_pos hrec)
  · refine ⟨_, hexec, ?_⟩
    simp only [hp, hrec, hs, if_false, Bool.false_eq_true]
    exact State.splitsInto_splitWith s ..
  · refine ⟨_, hexec, ?_⟩
    simp only [hp, hrec, hs, if_true, if_false, Bool.false_eq_true]
    exact State.pushesEntries_serial s _ _ _ (by simpa using hroom) (by simpa using hdepth)

/-! Joins (R80) -/

/-- Away from the address at which its innermost entry, or its warp, meets again, a path goes on. -/
theorem State.joinAt_away {pc : VAddr} {n : Nat} (h : ¬ MeetsAt s s.path.stack pc) : s.joinAt pc (n + 1) = .ok (s.jump (pc + 4)) := by
  rw [State.joinAt]
  cases hst : s.path.stack with
  | cons e l =>
    rw [hst] at h
    exact if_neg h
  | nil =>
    rw [hst] at h
    exact if_neg fun hmeet => h (by simpa [MeetsAt] using hmeet)

/-- At its entry's address the pending lanes run, and those that came are done. -/
theorem State.joinAt_pending {pc : VAddr} {n : Nat} {e : StackEntry} {l : List StackEntry} (hst : s.path.stack = e :: l) (hpc : offAddr s.codeva e.rpc = pc)
    (hpend : e.pmask &&& s.w.live ≠ 0) :
    s.joinAt pc (n + 1) = .ok (s.modPath fun p => { p with
      mask := e.pmask &&& s.w.live, pc := offAddr s.codeva e.ppc, mode := e.mode, fmt := e.fmt, waited := false
      stack := { e with dmask := e.dmask ||| s.path.mask, pmask := 0 } :: p.stack.tail }) := by
  rw [State.joinAt]
  simp only [hst, hpc, if_true, hpend, ne_eq, not_false_eq_true]

/-- With no lane pending the entry goes, and the lanes that are done meet what stands below it. -/
theorem State.joinAt_pop {pc : VAddr} {n : Nat} {e : StackEntry} {l : List StackEntry} (hst : s.path.stack = e :: l) (hsp : s.path.spilled = 0)
    (hpc : offAddr s.codeva e.rpc = pc) (hpend : e.pmask &&& s.w.live = 0) (hdone : (e.dmask ||| s.path.mask) &&& s.w.live ≠ 0) :
    s.joinAt pc (n + 1) = (s.modPath fun p => { p with
      stack := p.stack.tail, mask := (e.dmask ||| s.path.mask) &&& s.w.live, mode := e.mode, fmt := e.fmt }).joinAt pc n := by
  have hpop : s.popEntry = .ok (s.modPath fun p => { p with stack := p.stack.tail }) := by
    refine if_pos ?_
    rw [State.path_modPath, hsp]
    rfl
  rw [State.joinAt]
  simp only [hst, hpc, if_true, hpend, ne_eq, not_true_eq_false, if_false, hpop]
  simp only [bind, Except.bind, State.modPath_modPath, State.path_modPath, hdone, not_false_eq_true, if_true]

theorem State.joinAt_top {pc : VAddr} {n : Nat} (hst : s.path.stack = []) (hs : s.w.split = true) (hpc : offAddr s.codeva s.w.top.rpc = pc) :
    s.joinAt pc (n + 1) = if (s.w.path (!s.curB)).st = .ended then .ok (s.mergePaths pc) else .ok s.endPath := by
  rw [State.joinAt]
  simp only [hst, hs, hpc, decide_true, Bool.and_self, if_true]

/-- The path waits at the top join. -/
theorem State.endPath_spec (s : State) :
    s.endPath.path.st = .ended ∧ s.endPath.path.mask = 0 ∧ s.endPath.w.split = s.w.split ∧ s.endPath.w.top.dmask = s.w.top.dmask ||| s.path.mask ∧
      RegistersSame s s.endPath ∧ SameOutside s s.endPath := by
  unfold State.endPath
  have hpath (w : Warp) (p : Path) : (s.modW fun _ => w.setPath s.curB p).path = p := by simp
  refine ⟨congrArg Path.st (hpath _ _), congrArg Path.mask (hpath _ _), ?_, ?_, registersSame_of_tables ?_ ?_ ?_ ?_, sameOutside_modW s _⟩
  all_goals simp [State.path]

/-- The warp when its arms have become one path, as path A, before that path's segment starts (R80). -/
def Warp.merged (w : Warp) (b : Bool) (pc : VAddr) : Warp :=
  { (w.endSegment false).endSegment true with
    split := false
    pathA := { w.path b with pc := pc + 4, mask := (w.top.dmask ||| (w.path b).mask) &&& w.live, mode := w.top.mode, fmt := w.top.fmt,
                             stack := [], spilled := 0, logSeq := w.pathA.logSeq, accs := w.pathA.accs, waited := false }
    pathB := { Path.idle with logSeq := w.pathB.logSeq, accs := w.pathB.accs }
    top := StackEntry.zero }

/-- The arms become one path where a lane of it is live. -/
theorem State.mergePaths_of_live {pc : VAddr} (h : (s.w.top.dmask ||| s.path.mask) &&& s.w.live ≠ 0) :
    (s.mergePaths pc).curB = false ∧ ∃ codeva, (s.mergePaths pc).w = (s.w.merged s.curB pc).startSegment false codeva := by
  let u : State := { s.modW fun w => w.merged s.curB pc with curB := false }
  have hw : u.w = s.w.merged s.curB pc := State.w_putWarp s _
  have hmask : u.path.mask ≠ 0 := by
    rw [State.path, hw]
    exact h
  have hmerge : s.mergePaths pc = u.modW fun w => w.startSegment false u.codeva := if_neg hmask
  rw [hmerge]
  exact ⟨rfl, u.codeva, (State.w_putWarp u _).trans (congrArg (Warp.startSegment · false u.codeva) hw)⟩

theorem exec_join (h : s.joinAt s.path.pc (s.path.depth + 2) = .ok t) : exec .join s = .next t :=
  congrArg (fun r => Host.Outcome.next (s.orStop r)) h

/-- `join` (R80), by what stands on the path's stack. -/
theorem joinReconverges : JoinReconverges := by
  intro s
  refine ⟨fun e l hst hne => ?entryAway, fun hst hne => ?topAway, fun e l hst hpc hpend => ?pending, fun e l hst hsp hpc hpend hdone hmeet => ?pop,
    fun hst hs hpc ho => ?waits, fun hst hs hpc ho hdone => ?merges⟩
  case entryAway => exact pathMoves_of_jump (exec_join (State.joinAt_away (by rw [hst]; exact hne)))
  case topAway => exact pathMoves_of_jump (exec_join (State.joinAt_away (by rw [hst]; exact hne)))
  case pending =>
    refine ⟨_, exec_join (State.joinAt_pending hst hpc hpend), ?_⟩
    rw [State.path_modPath, hst]
    exact ⟨rfl, rfl, rfl, rfl, rfl, registersSame_modPath s _, sameOutside_modW s _⟩
  case pop =>
    let u := s.modPath fun p => { p with stack := p.stack.tail, mask := (e.dmask ||| s.path.mask) &&& s.w.live, mode := e.mode, fmt := e.fmt }
    have hu : u.path = { s.path with stack := l, mask := (e.dmask ||| s.path.mask) &&& s.w.live, mode := e.mode, fmt := e.fmt } := by
      rw [State.path_modPath, hst]; rfl
    have haway : ¬ MeetsAt u u.path.stack s.path.pc := by
      have htop : u.w.split = s.w.split ∧ u.w.top = s.w.top := by simp [u]
      rw [hu]
      unfold MeetsAt at hmeet ⊢
      rw [State.codeva_modPath, htop.1, htop.2]
      exact hmeet
    have hjump : u.jump (s.path.pc + 4) = _ := State.modPath_modPath s _ _
    refine ⟨u.jump (s.path.pc + 4), exec_join ((State.joinAt_pop hst hsp hpc hpend hdone).trans (State.joinAt_away haway)), ?_⟩
    rw [hjump, State.path_modPath, hst]
    exact ⟨rfl, rfl, rfl, rfl, rfl, registersSame_modPath s _, sameOutside_modW s _⟩
  case waits =>
    obtain ⟨hst', hmask, hsplit, htop⟩ := State.endPath_spec s
    exact ⟨s.endPath, exec_join ((State.joinAt_top hst hs hpc).trans (if_neg ho)), hst', hmask, hsplit.trans hs, htop⟩
  case merges =>
    obtain ⟨hcurB, cv, hw⟩ := State.mergePaths_of_live (pc := s.path.pc) hdone
    refine ⟨s.mergePaths s.path.pc, exec_join ((State.joinAt_top hst hs hpc).trans (if_pos ho)), ?_, hcurB, ?_, ?_, ?_, ?_, ?_, ?_, registersSame_of_tables ?_ ?_ ?_ ?_⟩
    all_goals rw [hw]
    all_goals simp only [Warp.merged, Warp.startSegment, Warp.endSegment, Warp.setPath, Warp.path, Path.idle, State.path, Bool.false_eq_true, if_false]

/-- Settles O18: `vbr`, `vswitch` and `join`, each by a lemma of its own. -/
theorem divergenceAndJoins : Obligations.DivergenceAndJoins := ⟨vectorBranchDiverges, vectorSwitchDiverges, joinReconverges⟩

end Sys2Proof.Machine
end

section
/-! The checks of a memory access, in the order of R122. -/

open Sys2Proof Sys2Proof.Machine Sys2Proof.Claims

namespace Sys2Proof.Machine

variable {s : State} {m : MemIns}

/-! The checks of R122 on the record, the ranges, the alignment and the rights -/

section
variable {bad ro store : Bool} {width : Nat} {l : Accs} {helpers : Word}

theorem accCheck_bounds (h : bad = true ∨ ∃ e ∈ l.filter fun e => !helpers.getLsbD e.1, e.2 = .bounds) :
    accCheck bad ro store width l helpers = some (tcBounds, 0) := by
  unfold accCheck
  rcases h with h | ⟨e, he, hb⟩
  · exact if_pos h
  · have hany : (l.filter fun e => !helpers.getLsbD e.1).any (fun e => e.2 == .bounds) = true := List.any_eq_true.2 ⟨e, he, beq_iff_eq.2 hb⟩
    simp only [hany, if_true, ite_self]

theorem any_bounds_eq_false (h : ∀ e ∈ l, e.2 ≠ .bounds) : l.any (fun e => e.2 == .bounds) = false := by
  rw [List.any_eq_false]
  exact fun e he hb => h e he (beq_iff_eq.1 hb)

theorem accCheck_align (hbad : bad = false) (hb : ∀ e ∈ l.filter fun e => !helpers.getLsbD e.1, e.2 ≠ .bounds) {pre post : List (Nat × Nat)} {e : Nat × Nat}
    (hl : Accs.addrs (l.filter fun e => !helpers.getLsbD e.1) = pre ++ e :: post) (hpre : ∀ x ∈ pre, x.2 % width = 0) (he : e.2 % width ≠ 0) :
    accCheck bad ro store width l helpers = some (tcAlign, e.2) := by
  have hfind : (pre ++ e :: post).find? (fun e => e.2 % width != 0) = some e :=
    List.find?_eq_some_iff_append.2 ⟨bne_iff_ne.2 he, pre, post, rfl, fun x hx => by simp [hpre x hx]⟩
  unfold accCheck
  simp only [hbad, any_bounds_eq_false hb, Bool.false_eq_true, if_false, hl, hfind]

theorem accCheck_rostore (hbad : bad = false) (hb : ∀ e ∈ l.filter fun e => !helpers.getLsbD e.1, e.2 ≠ .bounds) {e : Nat × Nat} {r : List (Nat × Nat)}
    (hl : Accs.addrs (l.filter fun e => !helpers.getLsbD e.1) = e :: r) (hal : ∀ x ∈ e :: r, x.2 % width = 0) (hs : store = true) (hro : ro = true) :
    accCheck bad ro store width l helpers = some (tcRostore, e.2) := by
  have hfind : (e :: r).find? (fun e => e.2 % width != 0) = none := List.find?_eq_none.2 fun x hx => by simp [hal x hx]
  unfold accCheck
  simp only [hbad, any_bounds_eq_false hb, Bool.false_eq_true, if_false, hl, hfind, List.head?_cons, hs, hro, Bool.and_self, if_true]

end

/-- A check that fails traps with its code and address. -/
theorem State.memAccess_trap {c a : Nat}
    (h : accCheck (badRecord m.bk (s.rB m.bk) (s.rB (m.bk + 1))) (recRo (s.rB m.bk)) (m.kind != 0) m.width m.accs m.helpers = some (c, a)) :
    s.memAccess m = s.trap c a := by
  unfold State.memAccess
  rw [h]

/-! What a memory instruction asks for does not depend on the rewind point -/

@[simp] theorem State.noPoint_curB (s : State) : s.noPoint.curB = s.curB := rfl
@[simp] theorem State.noPoint_path (s : State) : s.noPoint.path = s.path := by
  rw [State.path, State.noPoint_w, State.noPoint_curB]
  rfl
@[simp] theorem State.noPoint_rS (s : State) (k : Nat) : s.noPoint.rS k = s.rS k := by rw [State.rS, State.noPoint_w]; rfl
@[simp] theorem State.noPoint_rP (s : State) (k : Nat) : s.noPoint.rP k = s.rP k := by rw [State.rP, State.noPoint_w]; rfl
@[simp] theorem State.noPoint_rB (s : State) (k : Nat) : s.noPoint.rB k = s.rB k := by rw [State.rB, State.noPoint_w]; rfl
@[simp] theorem State.noPoint_rV (s : State) (k i : Nat) : s.noPoint.rV k i = s.rV k i := by rw [State.rV, State.noPoint_w]; rfl
@[simp] theorem State.noPoint_helperLanes (s : State) : s.noPoint.helperLanes = s.helperLanes := by
  rw [State.helperLanes, State.noPoint_w, State.noPoint_path]
  rfl
@[simp] theorem State.noPoint_guardMask (s : State) : s.noPoint.guardMask = s.guardMask := by simp [State.guardMask]
@[simp] theorem State.noPoint_acting (s : State) : s.noPoint.acting = s.acting := by simp [State.acting]
@[simp] theorem State.noPoint_actingHelpers (s : State) : s.noPoint.actingHelpers = s.actingHelpers := by simp [State.actingHelpers]
@[simp] theorem State.noPoint_vVal (s : State) (k n lane : Nat) : s.noPoint.vVal k n lane = s.vVal k n lane := by simp [State.vVal]
@[simp] theorem State.noPoint_laneData (s : State) (k n : Nat) (f : Nat → Nat) : s.noPoint.laneData k n f = s.laneData k n f := by simp [State.laneData]
@[simp] theorem State.noPoint_laneIns (s : State) (kind bk vi la len : Nat) : s.noPoint.laneIns kind bk vi la len = s.laneIns kind bk vi la len := by
  simp [State.laneIns, State.accs, State.idx]
@[simp] theorem State.noPoint_uniIns (s : State) (kind bk sc la : Nat) : s.noPoint.uniIns kind bk sc la = s.uniIns kind bk sc la := by
  simp [State.uniIns, State.uacc]

/-! Memory instructions outside recipe mode -/

/-- A load goes on in the state in which it is begun. -/
theorem State.writing_begun (s : State) (l : List RegRef) (k : State → State) (hr : s.w.recipe = false) : s.writing l k = k (begun s 0 l) := by
  rw [State.writing_eq s l k (by rw [State.recipeBlocks, hr]; rfl)]
  unfold begun
  cases s.named l <;> rfl

/-- A store or atomic goes on in the state in which it is begun. -/
theorem State.ending_begun (s : State) (l : List RegRef) (k : State → State) {kind : Nat} (hk : kind ≠ 0) (hr : s.w.recipe = false) :
    s.ending k = k (begun s kind l) := by
  have hb : begun s kind l = s.noPoint := if_neg fun h => hk h.1
  rw [hb]
  exact if_neg (by rw [hr]; decide)

@[simp] theorem begun_rS (s : State) (kind : Nat) (l : List RegRef) (k : Nat) : (begun s kind l).rS k = s.rS k := by unfold begun; split <;> simp
@[simp] theorem begun_rB (s : State) (kind : Nat) (l : List RegRef) (k : Nat) : (begun s kind l).rB k = s.rB k := by unfold begun; split <;> simp
@[simp] theorem begun_vVal (s : State) (kind : Nat) (l : List RegRef) (k n lane : Nat) : (begun s kind l).vVal k n lane = s.vVal k n lane := by
  unfold begun; split <;> simp
@[simp] theorem begun_laneData (s : State) (kind : Nat) (l : List RegRef) (k n : Nat) (f : Nat → Nat) : (begun s kind l).laneData k n f = s.laneData k n f := by
  unfold begun; split <;> simp
@[simp] theorem begun_laneIns (s : State) (kind : Nat) (l : List RegRef) (k bk vi la len : Nat) : (begun s kind l).laneIns k bk vi la len = s.laneIns k bk vi la len := by
  unfold begun; split <;> simp
@[simp] theorem begun_uniIns (s : State) (kind : Nat) (l : List RegRef) (k bk sc la : Nat) : (begun s kind l).uniIns k bk sc la = s.uniIns k bk sc la := by
  unfold begun; split <;> simp

theorem ite_of_not {α : Type} {a b : Bool} (h : a = !b) (x y : α) : (if a then x else y) = if b then y else x := by
  subst h
  cases b <;> rfl

/-- A memory instruction traps ILLOP where a register or the type is not one it may name, and otherwise makes its access in the state in which it is begun. -/
theorem exec_of_memForm {i : Instr} {ok : Bool} {l : List RegRef} (h : memForm s i = some (m, ok, l)) (hr : s.w.recipe = false) :
    exec i s = .next (if ok then (begun s m.kind l).memAccess m else s.illop) := by
  have odd_eq_not_even (a : Nat) : (a % 2 == 1) = !(a % 2 == 0) := by rcases Nat.mod_two_eq_zero_or_one a with h | h <;> rw [h] <;> rfl
  unfold memForm at h
  split at h
  case h_7 => cases h
  all_goals
    simp only [Option.some.injEq, Prod.mk.injEq] at h
    obtain ⟨rfl, rfl, rfl⟩ := h
    refine congrArg Host.Outcome.next ?_
  case h_1 d b i la =>
    rw [State.writing_begun _ _ _ hr]
    simp only [begun_laneIns]
    exact ite_of_not (by simp [hr]) _ _
  case h_2 b i src la =>
    rw [State.ending_begun _ [] _ (kind := 1) (by decide) hr]
    simp only [begun_laneIns, begun_laneData]
    exact ite_of_not (by simp) _ _
  case h_3 op d b i vc nd la =>
    rw [State.ending_begun _ [] _ (kind := 2) (by decide) hr]
    simp only [begun_laneIns, begun_laneData, begun_vVal]
    exact ite_of_not (by simp [bne]) _ _
  case h_4 a b c la =>
    rw [State.writing_begun _ _ _ hr]
    simp only [begun_uniIns]
    exact ite_of_not (by simp [hr, odd_eq_not_even, bne]) _ _
  case h_5 b c a la =>
    rw [State.ending_begun _ [] _ (kind := 1) (by decide) hr]
    simp only [begun_uniIns, begun_rS]
    exact ite_of_not (by simp [odd_eq_not_even, bne]) _ _
  case h_6 op a b c la =>
    rw [State.ending_begun _ [] _ (kind := 2) (by decide) hr]
    simp only [begun_uniIns, begun_rS]
    exact ite_of_not (by simp [odd_eq_not_even, bne]) _ _

/-- Settles O23: an access that may be made traps with the first of the checks of R122 that fails. -/
theorem accessChecksTrapInOrder : Obligations.AccessChecksTrapInOrder := by
  intro i s m ok l h hr bad u
  have hexec := exec_of_memForm h hr
  have htrap {c a : Nat} (hok : ok = true)
      (hc : accCheck bad (recRo (s.rB m.bk)) (m.kind != 0) m.width m.accs m.helpers = some (c, a)) : exec i s = .next (u.trap c a) := by
    rw [hexec, hok]
    exact congrArg Host.Outcome.next (State.memAccess_trap (by simpa [u] using hc))
  refine ⟨fun hok => ?illop, fun hok hb => htrap hok (accCheck_bounds hb), fun hok hbad hin => ⟨fun pre e post hl hpre he => ?align, fun e r hl hal hk hro => ?rostore⟩⟩
  case illop => rw [hexec, hok]; rfl
  case align => exact htrap hok (accCheck_align hbad hin hl hpre he)
  case rostore => exact htrap hok (accCheck_rostore hbad hin hl hal (bne_iff_ne.2 hk) hro)

end Sys2Proof.Machine
end

section
/-! What reset leaves in the registers (R66, R153, R178, R185, R223, R295, R305, R317). -/

open Sys2Proof Sys2Proof.Machine Sys2Proof.Claims

namespace Sys2Proof.Machine

/-- A register reads its reset value at reset. -/
theorem State.regBits_reset (fn blk off hi lo : Nat) : State.reset.regBits fn blk off hi lo = bits (regReset blk off).toNat hi lo := rfl

/-- No driver has accepted a block (R293). -/
theorem regReset_accept (blk : Nat) : regReset 0 blk = 0 := by
  simp [regReset, blkXlate, blkPfxlate, blkNotice, blkPart, blkFabric]

/-- VPART: VV clear, and an issue weight of 16 (R295). -/
theorem regReset_vpart {vf : Nat} (h : vf < 1024) : regReset blkPart (0x2000 + 8 * vf) = 0x1000 := by
  have hoff : 0x2000 ≤ 0x2000 + 8 * vf ∧ 0x2000 + 8 * vf < 0x4000 ∧ (0x2000 + 8 * vf) % 8 = 0 := by omega
  exact if_pos hoff

theorem regReset_quota {vf : Nat} (h : vf < 1024) : regReset blkPart (0x4000 + 4 * vf) = 64 := by
  have hoff : 0x4000 ≤ 0x4000 + 4 * vf ∧ 0x4000 + 4 * vf < 0x5000 ∧ (0x4000 + 4 * vf) % 4 = 0 := by omega
  have hno : ¬ (0x2000 ≤ 0x4000 + 4 * vf ∧ 0x4000 + 4 * vf < 0x4000 ∧ (0x4000 + 4 * vf) % 8 = 0) := by omega
  exact (if_neg hno).trans (if_pos hoff)

/-- Settles O5: the fields that are no register by definition, and the registers by their reset values. -/
theorem resetLeavesTheSpecsValues : Obligations.ResetLeavesTheSpecsValues := by
  refine ⟨rfl, by decide, rfl, rfl, rfl, fun fn blk => ?active, fun vf hvf => ?function, fun p hp => ?partition, by decide, by decide, fun d hd => ?die⟩
  case active =>
    have haccept : State.reset.regBits fn 0 blk 7 0 = 0 := by rw [State.regBits_reset, regReset_accept]; rfl
    rw [State.blkActive, haccept]
    rfl
  case function =>
    have hstop : bits (regReset blkXlate 0x58).toNat 17 17 = 1 ∧ bits (regReset blkXlate 0x78).toNat 17 17 = 1 := by decide
    refine ⟨?_, ?_, ?_, hstop⟩
    · rw [State.weight, State.regBits_reset, regReset_vpart hvf]; rfl
    · rw [State.quota, State.regBits_reset, regReset_quota hvf]; rfl
    · rw [State.partOf, State.regBits_reset, regReset_vpart hvf]; rfl
  case partition =>
    revert p
    decide
  case die =>
    revert d
    decide

end Sys2Proof.Machine
end

section
/-! Two statements about `role` and `exit` that fail in states no run reaches, where the table of warps is at odds with the block that issues. -/

open Sys2Proof Sys2Proof.Machine Sys2Proof.Claims

namespace Sys2Proof.Machine

/-- The state that an instruction leaves, where it leaves one. -/
def nextState? : Host.Outcome State Fault Refusal → Option State
  | .next t => some t
  | _ => none

/-- A task record whose one role, role 0, has an allotment of 16 v registers. -/
def growingRole : BitVec 2048 := BitVec.ofNat 2048 ((2 * 2 ^ 32 + 2 ^ 47) * 2 ^ (8 * 0xC0))

/-- Block 0 has 8 registers in each quarter; the issuing warp, number 0, is in no table and reads as an idle warp with 8 of its own.
The share that its growth to 16 registers meets is whole as long as the warp is not listed, and empty once it is. -/
def unlistedWarp : State :=
  { State.reset with
    blocks := [(0, { Block.idle with val := 8, nwarps := 1 })]
    tasks := [(0, { Task.idle with record := growingRole })] }

/-- A growth that fits in `unlistedWarp`, and that no other warp's wait comes before. -/
theorem unlistedWarp_fits : roleCount unlistedWarp.task.record = 1 ∧ unlistedWarp.task.roleV 0 = 16 ∧
    unlistedWarp.oldestRole unlistedWarp.bid (quarterOf unlistedWarp.cur) = none ∧ unlistedWarp.roleFits unlistedWarp.cur 0 = true := by decide +kernel

/-- The instruction ends the rewind point before it looks at the share, which lists the warp: the growth is not granted. -/
theorem unlistedWarp_notGranted : (nextState? (exec (.role 0) unlistedWarp)).map (·.w.allot) = some 8 := by decide +kernel

/-- Refutes O22: nothing in `RoleIsGranted` says that the issuing warp is listed. In `unlistedWarp` its growth fits, but ending the rewind point lists the warp, whose own registers then leave too few for it.
What the statement lacks is `AL.has s.warps s.cur = true`, with each warp listed once. -/
theorem not_modeFmtAndRoleWrites : ¬ Obligations.ModeFmtAndRoleWrites := by
  rintro ⟨-, -, hrole⟩
  obtain ⟨hcount, hroleV, hold, hfits⟩ := unlistedWarp_fits
  obtain ⟨-, hgranted, -⟩ := hrole 0 unlistedWarp rfl rfl
  obtain ⟨t, hexec, hallot, -⟩ := hgranted rfl (by rw [hcount]; decide) rfl rfl (.inr ⟨hold, hfits⟩)
  have hkept : some t.w.allot = some 8 := by
    rw [← unlistedWarp_notGranted, hexec]
    rfl
  rw [hallot, hroleV] at hkept
  cases hkept

/-- Warp 0 of block 0, which is plain, issues. Warp 4 stands at a number of the same block and quarter, waits for a role that does not fit, and names the mortise block 1 as its own, whose log slot lies at SPA 0. -/
def strangerWarp : State :=
  { State.reset with
    warps := [(0, { Warp.idle with pathA := { Path.idle with st := .ready } }), (4, { Warp.idle with bid := 1, pathA := { Path.idle with st := .roleWait 0 } })]
    blocks := [(0, Block.idle), (1, { Block.idle with kind := .mortise, logSize := 16 })]
    tasks := [(0, { Task.idle with record := growingRole })] }

/-- The exit leaves warp 4 alone with its wait: it traps ROLE, and block 1 logs the trap's code with the header of a VAL entry, whose first byte is 6 (R229, R230, R407). -/
theorem strangerWarp_logs : (nextState? (exec .exit strangerWarp)).map (·.memByte 0) = some 6 := by decide +kernel

/-- Refutes O19: nothing in `ExitEndsLanes` says that the warps numbered as a block's are the block's. In `strangerWarp` the exit of a warp of a plain block makes a warp of a mortise block trap ROLE, and the log entry of that trap changes memory.
What the statement lacks is `(s.warpOf k).bid = s.bid` for each k of `s.warpsOf s.bid`. -/
theorem not_exitAndYield : ¬ Obligations.ExitAndYield := by
  rintro ⟨⟨-, hexit⟩, -⟩
  obtain ⟨hends, -⟩ := hexit strangerWarp rfl
  obtain ⟨t, hexec, -, -, hmem⟩ := hends rfl
  have hbyte : t.memByte 0 = 0 := hmem rfl 0
  have hlogged : some (t.memByte 0) = some 6 := by
    rw [← strangerWarp_logs, hexec]
    rfl
  rw [hbyte] at hlogged
  cases hlogged

end Sys2Proof.Machine
end

section
/-! A statement about the steps of the matrix queue that fails for a write-back to a frame with two virtual addresses. -/

open Sys2Proof Sys2Proof.Machine Sys2Proof.Claims

namespace Sys2Proof.Machine

/-- An `mwb` to memory of an accumulator of two rows and one column. The rows lie 4 KiB apart, at 0x4000 and 0x5000, and both pages are mapped to the frame at 0x3000. -/
def sharedWriteBack : MatEntry :=
  { id := 30, bid := 0, wid := 0, pathB := false, xpc := 0x1000, op := 5, wa := 0x100, wb := 0, wc := 1024 * 2 ^ 32, sc := 0, fmt := 0, mode := 0
    paired := false, follower := false, token := none, elems := [(0x4000, 0x3000, 0, true), (0x5000, 0x3000, 0, true)], tag := 0, tagset := false, pend := none }

/-- Core 0 with that write-back at the head of its queue and the accumulator at handle 0 of block 0. -/
def sharedFrame : State :=
  { State.reset with
    warps := [(0, Warp.idle)]
    blocks := [(0, { Block.idle with tiles := [(0, ⟨BitVec.ofNat 64 (2 + 2 ^ 13 + 2 * 2 ^ 26 + 2 ^ 31), false, true, 0, 0, 0, [], 0, none, []⟩)] })]
    eng := { State.reset.eng with matq := [(0, [sharedWriteBack])] } }

theorem sharedFrame_ready : StepReady sharedFrame 0 sharedWriteBack := by
  unfold StepReady
  decide +kernel

/-- The elements fall in two virtual lines. -/
theorem sharedFrame_virtualLines :
    (sortNub ((sharedWriteBack.elems.zip (sharedFrame.mwbValues sharedWriteBack)).map fun x => x.1.1 / 256)).length = 2 := by decide +kernel

/-- The step sends one request for the one line of the frame, with both elements in it. -/
theorem sharedFrame_requests :
    (nextState? (exec (.matrixQueueStep 0) sharedFrame)).map (fun t => t.mm.reqs.map fun r => (r.line, r.lanes.map (·.1))) = some [(0x30, [0, 1])] := by decide +kernel

/-- Refutes O38: its clause on write-backs to memory counts the requests by virtual lines, and the step makes one for each line of the frame. In `sharedFrame` two virtual lines are one line of a frame, and one request is made.
What the statement lacks is the line of the frame, `x.1.2.1 / 256`, where it counts `x.1.1 / 256`. -/
theorem not_matrixQueueSteps : ¬ Obligations.MatrixQueueSteps := by
  intro h
  obtain ⟨-, hstep⟩ := h 0 sharedFrame sharedWriteBack
  obtain ⟨-, -, -, -, -, -, hstores, -⟩ := hstep sharedFrame_ready
  obtain ⟨t, hexec, -, -, -, -, -, l, hreqs, hlen, -⟩ := hstores rfl (by decide)
  have hsent : t.mm.reqs.map (fun r => (r.line, r.lanes.map (·.1))) = [(0x30, [0, 1])] :=
    Option.some.inj (by rw [← sharedFrame_requests, hexec]; rfl)
  have hnone : sharedFrame.mm.reqs = [] := rfl
  have htwo : t.mm.reqs.length = 2 := by rw [hreqs, hnone, List.nil_append, hlen, sharedFrame_virtualLines]
  have hone : t.mm.reqs.length = 1 := by simpa using congrArg List.length hsent
  omega

end Sys2Proof.Machine
end

section
/-! Three statements on translation and residency that fail: `pf` while an error is reported, a record of a merge entry beyond the four dies, and a page declared invalid for a path that has met one of a lower address. -/

open Sys2Proof Sys2Proof.Machine Sys2Proof.Claims

namespace Sys2Proof.Machine

/-! A prefetch that drops a copy of another domain's (R255, R256, R313, R182, R396) -/

/-- Record b1: 64 words from 0x4000. -/
def wordsAt4000 : Rec := BitVec.ofNat 128 (0x4000 + 4 * 2 ^ 64 + 64 * 2 ^ 96)

/-- The request of a load of line 0x60, performed at its home at time 5. -/
def loadAtTime5 : LineReq :=
  { id := 1, wid := 0, pathB := false, pend := some 1, core := 0, vf := 0, dom := 0, line := 0x60, va := 0x6000, win := false, kind := 0, op := .add, et := 0, width := 4
    tag := 0, tagset := false, lanes := [(0, 0, 0, 0)], stage := 2, wts := 5, rts := 13, fill := 0, sectors := 1, got := [(0, 0)], withheld := [], xpc := 0x1000, made := 0, ord := 1
    mat := none, arrived := 1, tags := 0, vas := [], eng := none, ins := 1, adaptive := false, engPts := 0 }

/-- The registers of a package whose notice ring of 64 records at 0x5000 is open, and in which the PF's error bank of die 0's cores holds an uncorrectable error. -/
def noticingRegs : State :=
  ((State.reset.setReg Config.pf blkNotice 0 0x5006).setReg Config.pf blkNotice 0x18 0).setReg Config.pf blkErr 0x40 3

/-- Core 0 translates the page at 0x4000 to the frame at 0x3000, and has a copy of its line 0x30 under domain 5's tag. The notice ring's line 0x50 has the last lease before a rebase. -/
def strangeCopy : State :=
  { noticingRegs with
    warps := [(0, { Warp.idle with pathA := { Path.idle with st := .ready, mask := 1 }, b := [(1, wordsAt4000)] })]
    blocks := [(0, Block.idle)]
    nextId := 2
    keys := { State.reset.keys with fot := [(5, ⟨Config.pfDomain, true, none⟩)] }
    mm := { State.reset.mm with
      dirMode := [], rts := [(0x50, BitVec.ofNat 40 (Config.rebaseAt - 1))], reqs := [loadAtTime5]
      l1 := [(l1Key 0 0x30, ⟨5, 0xF, 0, 0, 0, 0⟩)], tlb1 := [⟨0, 0, 0, 0x4000, 0x1000, 0x3000, true, false, false⟩] } }

/-- The prefetch passes its checks, in an ordinary run. -/
theorem strangeCopy_passes : strangeCopy.idxOk 1 0 = true ∧
    accCheck (badRecord 1 (strangeCopy.rB 1) (strangeCopy.rB 2)) false false strangeCopy.path.width (strangeCopy.accs 1 0 true strangeCopy.activeGuarded) 0 = none ∧
    strangeCopy.checkRun = false ∧ strangeCopy.task.pureNow = false := by decide +kernel

/-- The copy is discarded and logged; the notice of the second error rebases all times as its record is written, and the load's time is gone. -/
theorem strangeCopy_rebases : (nextState? (exec (.pf 1 0 0) strangeCopy)).map (fun t => t.mm.reqs.head?.map (·.wts)) = some (some 0) := by decide +kernel

/-- Refutes O26: its clause that `pf` adds requests behind those under way is not limited to a state without errors. In `strangeCopy` the prefetch drops a copy of another domain's, and the notice of that error rebases the times of a request under way.
What the statement lacks is `ErrorFree s` and the fit of the copies before that clause, as it has them before `quiet`. -/
theorem not_prefetchAndPageRequests : ¬ Obligations.PrefetchAndPageRequests := by
  intro h
  obtain ⟨-, hpf, -⟩ := h 1 0 0 strangeCopy
  obtain ⟨hidx, hcheck, hrun⟩ := strangeCopy_passes
  obtain ⟨t, hexec, -, -, n, hreqs, -⟩ := hpf hidx hcheck (.inr hrun)
  have hgone : t.mm.reqs.head?.map (·.wts) = some 0 := Option.some.inj (by rw [← strangeCopy_rebases, hexec]; rfl)
  have hkept : t.mm.reqs.head?.map (·.wts) = some 5 := by rw [hreqs]; rfl
  rw [hgone] at hkept
  cases hkept

/-! A record's token has room for the merge tables of four dies (R151, R154) -/

/-- A request of stage 2 for the page at GPA 0x8000, not yet reported. -/
def unreported : MergeEntry :=
  { vf := 0, stage2 := true, addr := 0x8000, typ := 6, level := 0, count := 1, write := false, va := 0x4000, task := 0, core := 0, posted := false, order := 0 }

/-- The PF's retryable ring of 64 records at 0x5000 is open, and the one merge entry stands at number 1024, past those of die 3. -/
def fifthDie : State :=
  { (State.reset.setReg Config.pf blkPfxlate 0 0x5006).setReg Config.pf blkPfxlate 0x18 0 with
    mm := { State.reset.mm with merges := [(1024, unreported)] } }

/-- The PF reports that entry next. -/
theorem fifthDie_reports : fifthDie.writers = [Config.pf] ∧ fifthDie.nextTerm Config.pf = none ∧ fifthDie.nextMerge Config.pf = some (1024, unreported) := by decide +kernel

theorem fifthDie_ringSlot : RingSlot fifthDie (2 * Config.pf) 0x5000 :=
  ⟨by decide +kernel, fun _ => by decide +kernel, fun h => absurd (by decide +kernel) h⟩

/-- The record's token names entry 0 of die 0, so the entry that has been reported is not Posted. -/
theorem fifthDie_notPosted : (nextState? (exec .reportRecordWrite fifthDie)).map (fun t => (AL.get? t.mm.merges 1024).map (·.posted)) = some (some false) := by decide +kernel

/-- Refutes O51: its clause on merge entries takes any number k for an entry. The token of a record has ten bits for it, die and index, and in `fifthDie` an entry numbered 1024 is not Posted when its record is written. No run reaches such a number: it would be of a fifth die.
What the statement lacks is `k < 1024`, with each entry listed once and the fields of its record within their bits. -/
theorem not_recordsAreReported : ¬ Obligations.RecordsAreReported := by
  rintro ⟨-, hwrite, -⟩
  obtain ⟨hwriters, hterm, hmerge⟩ := fifthDie_reports
  obtain ⟨-, hentry, -⟩ := hwrite Config.pf 0x5000 fifthDie hwriters
  obtain ⟨t, hexec, -, hposted, -⟩ := hentry 1024 unreported hterm hmerge fifthDie_ringSlot
  have hnot : (AL.get? t.mm.merges 1024).map (·.posted) = some false := Option.some.inj (by rw [← fifthDie_notPosted, hexec]; rfl)
  rw [hposted] at hnot
  cases hnot

/-! A second path that waits for the page declared invalid (R148, R155) -/

/-- Of several invalid pages the one of the lowest address stands: a path that has met one no higher notes no other. -/
theorem Path.noteBad_of_lower {p : Path} {es : List (Nat × Nat)} {x a : BadPage} {again : Bool} (h : p.st = .sleepPage es (some x) again) (hx : x.addr ≤ a.addr) (k sq : Nat) :
    p.noteBad k sq a = p := by
  have hlow : ¬ a.addr < x.addr := Nat.not_lt.mpr hx
  cases p
  subst h
  simp [Path.noteBad, hlow]

/-- A path that waits for nothing notes nothing. -/
theorem Path.noteBad_idle (k sq : Nat) (a : BadPage) : Path.idle.noteBad k sq a = Path.idle := rfl

/-- VF 0's request for the page at 0x4000, reported. -/
def reported : MergeEntry :=
  { vf := 0, stage2 := false, addr := 0x4000, typ := 1, level := 0, count := 2, write := false, va := 0x4000, task := 1, core := 0, posted := true, order := 0 }

/-- A `pgreq.y` at 0x1000 that waits for merge entry 7 alone. -/
def waitsForOne : Warp := { Warp.idle with bid := 1, live := 1, pathA := { Path.idle with pc := 0x1000, mask := 1, st := .sleepPage [(7, 0)] none false } }

/-- A `pgreq.y` that waits for entries 3 and 7, of which entry 3 has been resolved: the page at 0x2000 is invalid. -/
def waitsForTwo : Warp :=
  { Warp.idle with bid := 2, live := 1, pathA := { Path.idle with pc := 0x1000, mask := 1, st := .sleepPage [(3, 0), (7, 0)] (some ⟨0x2000, 0, 0, none⟩) false } }

/-- Two tasks of VF 0, of one block and one warp each: block 1's warp waits for entry 7, and block 2's for entries 3 and 7. -/
def twoWaiters : State :=
  { (State.reset.setReg Config.pf blkBoot 0x100008 3).setReg 0 0 blkXlate 1 with
    warps := [(32, waitsForOne), (64, waitsForTwo)]
    blocks := [(1, { Block.idle with task := 1, nwarps := 1 }), (2, { Block.idle with task := 2, nwarps := 1 })]
    tasks := [(1, { Task.idle with st := .running }), (2, { Task.idle with st := .running })]
    mm := { State.reset.mm with merges := [(7, reported)], mergeSeq := [(3, 1)] } }

/-- The RESOLVE word that declares the page of entry 7 invalid. -/
def resolveInvalid : Nat := 7 + 2 ^ 18

theorem resolveInvalid_names : Names twoWaiters 0 resolveInvalid reported := by unfold Names; decide +kernel

/-- The paths but the first notes no invalid page: the second has met one of a lower address. -/
theorem twoWaiters_otherPaths : ∀ x, x ∈ twoWaiters.warps → x.1 ≠ 32 →
    x.2.pathA.noteBad 7 0 reported.badPage = x.2.pathA ∧ x.2.pathB.noteBad 7 0 reported.badPage = x.2.pathB := by
  intro x hx hne
  have hx2 : x = (64, waitsForTwo) := by
    rcases List.mem_cons.mp hx with rfl | hx
    · exact absurd rfl hne
    · exact List.mem_singleton.mp hx
  subst hx2
  exact ⟨Path.noteBad_of_lower rfl (by decide) 7 0, Path.noteBad_idle 7 0 _⟩

/-- The second path's entries are all resolved too: it traps ACCESS, and its task ends with its warp. -/
theorem twoWaiters_bothEnd : (nextState? (exec (.resolve 0 resolveInvalid) twoWaiters)).map (fun t => AL.has t.warps 64) = some false := by decide +kernel

/-- Refutes O52: its clause on a page declared invalid takes a path that notes no invalid page for one that does not wait for the entry. In `twoWaiters` a second path has met an invalid page of a lower address and waits for the entry as well; it traps with the first.
What the statement lacks is that no other path's list of entries contains the entry. -/
theorem not_resolveAndInvalidate : ¬ Obligations.ResolveAndInvalidate := by
  rintro ⟨-, hinvalid, -⟩
  have hexec := hinvalid 0 resolveInvalid twoWaiters reported 32 waitsForOne false (by decide +kernel) resolveInvalid_names (by decide) rfl (by decide +kernel) (by decide +kernel) rfl
    (by decide +kernel) twoWaiters_otherPaths (Path.noteBad_idle _ _ _) _ (.inl ⟨false, rfl, rfl⟩)
  have hends := twoWaiters_bothEnd
  rw [hexec] at hends
  exact absurd hends (by decide +kernel)

end Sys2Proof.Machine
end

section
/-! Two statements whose frames leave out what a step writes beside its answer: a log entry in memory, and an error bank. -/

open Sys2Proof Sys2Proof.Machine Sys2Proof.Claims

namespace Sys2Proof.Machine

/-! The answer to a logged atomic writes its entry into the log slot (R176, R228, R230, R326) -/

/-- The ATOM entry of an atomic of lane 0 with 4-byte values, whose value is not there yet. -/
def atomEntry : LogEntry :=
  { typ := leAtom, warp := 0, strm := false, lmask := 1, w := 2, seq := 0, payload := [], filled := false, void := false, acc := 0, place := 0 }

/-- The pending atomic of that entry, which owes v1 the old value of lane 0. -/
def loggedPend : Pend :=
  { id := 7, pathB := false, regs := [.v 1], dest := 1, width := 4, et := 0, kind := 0, lanes := 1, helpers := 0, got := [], waiting := [9], logType := leAtom, logSeq := 0, logMask := 1, xpc := 0x1000 }

/-- Its one request, performed at home at time 5. -/
def performedAtomic : LineReq :=
  { id := 9, wid := 32, pathB := false, pend := some 7, core := 0, vf := 0, dom := 0, line := 0x30, va := 0x4000, win := false, kind := 2, op := .add, et := 0, width := 4
    tag := 0, tagset := false, lanes := [(0, 0, 1, 0)], stage := 2, wts := 5, rts := 5, fill := 0, sectors := 0, got := [(0, 41)], withheld := [], xpc := 0x1000, made := 0, ord := 9
    mat := none, arrived := 1, tags := 0, vas := [], eng := none, ins := 9, adaptive := false, engPts := 0 }

/-- A warp of a mortise run that waits for the atomic; the block's log slot lies at SPA 0x8000 and has the entry's 16 bytes in use. -/
def loggedAtomic : State :=
  { State.reset with
    warps := [(32, { Warp.idle with bid := 1, live := 1, pathA := { Path.idle with pc := 0x1004, mask := 1, st := .ready, logSeq := 1, accs := 1 }, pend := [loggedPend] })]
    blocks := [(1, { Block.idle with nwarps := 1, kind := .mortise, log := [atomEntry], logBytes := 16, logAt := 0x8000, logSize := 0x1000, atoms := true })]
    mm := { State.reset.mm with reqs := [performedAtomic] } }

/-- The log slot's first byte before the answer. -/
theorem loggedAtomic_before : loggedAtomic.memByte 0x8000 = 0 := by decide +kernel

/-- The answer fixes the entry's value and writes it: the first byte of its header is its type, 3 (R229). -/
theorem loggedAtomic_logs : (nextState? (exec (.storeAck 9) loggedAtomic)).map (·.memByte 0x8000) = some 3 := by decide +kernel

/-- Refutes O29: its clauses that no byte of memory changes are not limited to accesses that are not logged. In `loggedAtomic` the answer to an atomic of a mortise run fixes the atomic's log entry, which is written into the log slot in memory.
What the statement lacks is a pending access with `logType = 0`, which it asks for in its last clause alone. -/
theorem not_answersComplete : ¬ Obligations.AnswersComplete := by
  intro h
  obtain ⟨hanswer, -⟩ := h 9 loggedAtomic performedAtomic rfl rfl (by decide) rfl
  obtain ⟨t, hexec, -, -, hmem, -⟩ := hanswer (by decide) rfl
  have hkept : t.memByte 0x8000 = 0 := (hmem 0x8000).trans loggedAtomic_before
  have hlogged : t.memByte 0x8000 = 3 := Option.some.inj (by rw [← loggedAtomic_logs, hexec]; rfl)
  rw [hkept] at hlogged
  cases hlogged

/-! A check run's fetch walks the page tables, and a walk logs the errors it corrects (R140, R217, R233, R255, R318) -/

/-- A field of a register depends on the registers alone. -/
theorem State.regBits_of_regs {s t : State} (h : t.regs = s.regs) (fn blk off hi lo : Nat) : t.regBits fn blk off hi lo = s.regBits fn blk off hi lo := by
  unfold State.regBits State.reg
  rw [h]

/-- A stream of one word at 0x4000, through a writable record of 64 words. -/
def oneWord : BitVec 512 := BitVec.ofNat 512 (0x4000 + 4 * 2 ^ 64 + 64 * 2 ^ 96 + 2 * 2 ^ 160 + 2 ^ 192)

/-- Its queue, with nothing fetched. -/
def oneWordQueue : StreamQ := ⟨oneWord, 0, [], [], [], none⟩

/-- A warp of a tenon run with that queue. No TLB holds the page at 0x4000, and the first sector of VF 0's host table, at SPA 0, has an error that ECC corrects. -/
def walkingCheck : State :=
  { State.reset with
    warps := [(32, { Warp.idle with bid := 1, live := 1, pathA := { Path.idle with pc := 0x1000, mask := 1, st := .queueWait 0 }, q := [(0, oneWordQueue)] })]
    blocks := [(1, { Block.idle with nwarps := 1, kind := .tenon })]
    keys := { State.reset.keys with fot := [(0, ⟨Config.pfDomain, true, none⟩)] }
    mm := { State.reset.mm with upsets := [(0, 1)] } }

/-- The entry can be fetched, and the check run takes its elements from the log. -/
theorem walkingCheck_fetches : walkingCheck.canFetch 32 0 = true ∧ (walkingCheck.blockOf (walkingCheck.warpOf 32).bid).isCheck = true ∧ recRo (strRec oneWord) = false := by decide +kernel

/-- The PF's error bank of die 0's memory is empty before the fetch. -/
theorem walkingCheck_before : walkingCheck.regBits Config.pf blkErr 0 0 0 = 0 := by decide +kernel

/-- The walk for the element's page reads the sector, and the bank holds its corrected error. -/
theorem walkingCheck_logs : (nextState? (exec (.streamFetch 32 0) walkingCheck)).map (fun t => t.regBits Config.pf blkErr 0 0 0) = some 1 := by decide +kernel

/-- Refutes O36: its clause on the entries of check runs says that no register changes, and is not limited to a state without errors. No element is read, but each page is translated: in `walkingCheck` the walk meets a corrected error, which an error bank takes.
What the statement lacks is `ErrorFree s` before the frame of memory and registers in that clause, as O30 has it for a completed walk. -/
theorem not_streams : ¬ Obligations.Streams := by
  intro h
  obtain ⟨-, -, -, hfetch⟩ := h 0 0 0 0 0 walkingCheck
  obtain ⟨-, hentry⟩ := hfetch 32
  obtain ⟨hcan, hcheck, hwritable⟩ := walkingCheck_fetches
  obtain ⟨-, -, hblank⟩ := hentry oneWordQueue hcan rfl
  obtain ⟨t, _, _, hexec, -, -, -, -, -, -, -, -, hregs⟩ := hblank hcheck hwritable rfl
  have hkept : t.regBits Config.pf blkErr 0 0 0 = 0 := (State.regBits_of_regs hregs _ _ _ _ _).trans walkingCheck_before
  have hlogged : t.regBits Config.pf blkErr 0 0 0 = 1 := Option.some.inj (by rw [← walkingCheck_logs, hexec]; rfl)
  omega

end Sys2Proof.Machine
end

section
/-! A statement about `cpy` that fails where an identifier is in use before it is given out. -/

open Sys2Proof Sys2Proof.Machine Sys2Proof.Claims

namespace Sys2Proof.Machine

/-! An entry waits for the write-backs of its warp that came before it (R160, R179, R199, R360) -/

/-- A write-back of warp 0 to memory, with the first identifier, which the machine has not given out at reset. -/
def firstWriteBack : MatEntry := { sharedWriteBack with id := 0 }

/-- A whole warp, number 0, of a plain block, with record b1, and that write-back in the matrix queue of its core. The next identifier is 0. -/
def writingBack : State :=
  { State.reset with
    warps := [(0, { Warp.idle with live := 0xFFFFFFFF, allot := 2, b := [(1, wordsAt4000)], pathA := { Path.idle with pc := 0x1000, mask := 0xFFFFFFFF, st := .ready } })]
    blocks := [(0, { Block.idle with nwarps := 1 })]
    eng := { State.reset.eng with matq := [(0, [firstWriteBack])] } }

/-- A copy of the record's first word onto itself in every lane, on queue 0, with no completion. -/
def copyInPlace : CpyArgs :=
  { vsrc := 0, vdst := 0, bsrc := 1, bdst := 1, size := 0, conv := 0, rnd := 0, sat := false, queue := 0, done := 0, scont := 0, stile := false, dtile := false }

/-- The word's place, for each lane. -/
def firstWord : List CopyLoc := List.replicate 32 ⟨false, 0, 0x4000⟩

theorem writingBack_ready : CopyReady writingBack copyInPlace firstWord firstWord := by
  unfold CopyReady
  decide +kernel

theorem writingBack_ordinary : Ordinary writingBack := ⟨rfl, rfl⟩

/-- The `cpy` takes identifier 0 for its entry before it looks for the write-backs below the next one, so the entry waits for the write-back numbered 0. -/
theorem writingBack_waits : (nextState? (exec (.cpy copyInPlace) writingBack)).map (fun t => (t.blk.queue 0).entries.map (·.before)) = some [[0]] := by decide +kernel

/-- Before the `cpy` the next identifier is 0, so no write-back has an identifier below it. -/
theorem writingBack_before : writingBack.outstanding writingBack.cur = [] := by decide +kernel

/-- Refutes O34: its clause on the entry takes the entry that `cpyEntry` makes in the state before the `cpy`, and the model makes it once the entry's identifier is given out. In `writingBack` a write-back of the warp has that very identifier, so the entry waits for it, and the entry of the statement does not. No run reaches this: an identifier in a queue has been given out.
What the statement lacks is that no entry of a matrix queue has the identifier `s.nextId`. -/
theorem not_copiesAreQueued : ¬ Obligations.CopiesAreQueued := by
  intro h
  obtain ⟨-, -, -, hready⟩ := h copyInPlace writingBack
  obtain ⟨-, hfaultless⟩ := hready firstWord firstWord writingBack_ready
  obtain ⟨-, hroom⟩ := hfaultless rfl writingBack_ordinary
  obtain ⟨t, hexec, -, -, -, -, -, -, -, hentry⟩ := hroom (by decide)
  obtain ⟨hentries, -, -⟩ := hentry rfl
  have hqueued : (t.blk.queue 0).entries.map (·.before) = [writingBack.outstanding writingBack.cur] := (congrArg (List.map (·.before)) hentries :)
  have hwaits : (t.blk.queue 0).entries.map (·.before) = [[0]] := Option.some.inj (by rw [← writingBack_waits, hexec]; rfl)
  rw [hqueued, writingBack_before] at hwaits
  cases hwaits

end Sys2Proof.Machine
end
